-- ==== Sys2Proof/Word.lean ====
section
/-! DEFINITION. Word.lean: the word and byte types of the module (00: R6). -/

namespace Sys2Proof

/-- A 64-bit value: the content of a g register, an address, a cycle number. -/
abbrev Word := BitVec 64

/-- A byte of memory. -/
abbrev Byte := BitVec 8

/-- The content of a v register: 1,024 bits. -/
abbrev VWord := BitVec 1024

end Sys2Proof
end

