-- ==== Sys2Proof/Config.lean ====
section
/-! DEFINITION. Config.lean: what an implementation fixes and the values the spec leaves open. The opaque constants have no
body that anything can evaluate: a statement that holds of the model holds whatever they are. -/

namespace Sys2Proof.Config

/-- A free value: value `k` drawn in step `n` (log 2). It stands for every value or choice the spec does not promise. -/
opaque free : Nat → Nat → Word

/-- Special function `fn` of 11: R269 at the f32 pattern `x`, before the special cases of 04: R134 (04: R133, R135: "fixed
functions" whose bits the spec bounds but does not state; log 5). -/
opaque sfu : Nat → BitVec 32 → BitVec 32

/-- Whether the two signatures of a block verify: image-key block, digest, signature block (17: R364, R365; outside standards of
which the spec gives neither the padding nor the encodings; log 6). -/
opaque sigOk : List Byte → BitVec 512 → List Byte → Bool

/-- The signatures that the module's attestation key makes over a digest (17: R371; log 6). -/
opaque sign : BitVec 512 → List Byte

/-- Physical base of the boot journal's window (17: R370), which the spec names without an address. -/
opaque journalBase : Word
def journalWindow : Nat := journalBase.toNat

/-- Physical base and bytes of the flash window (17: R369), which holds the two Casquin copies and which the spec names without an address. -/
opaque flashBase : Word
opaque flashBytes : Nat
def flashWindow : Nat := flashBase.toNat

/-- The LPDDR 5X channel behind a line (17: R369 step 5), a mapping the spec does not state. -/
opaque channelOf : Nat → Nat

/-- Physical base of the trestle window (01: R21), which the spec names without an address; the records stand in it by die and index
(log 17). -/
opaque trestleBase : Word
def trestleWindow : Nat := trestleBase.toNat

/-- The die at which a scale-up port stands, which no rule states (19: R392; log 40). -/
opaque portDie : Nat → Nat

/-- Where a service core starts Casquin (17: R369; 20: R404). -/
opaque casquinEntry : Nat → Word

/-- What the boot ROM's tests and straps answer at reset (17: R369), fixed for the machine in `State.reset` (log 4). -/
def packageId : BitVec 10 := 0

end Sys2Proof.Config
end

