-- ==== Sys2Proof/Syntax.lean ====
section
/-! DEFINITION. Syntax.lean: the one inductive of instructions and module steps, one constructor per row of the opcode table. -/

namespace Sys2Proof

/-- What executes instructions: sequencer A (`e = false`) or E of the strand in slot `sid / 1024` of tile `sid % 1024`
(02: R54). Service core `n` is agent `⟨4096 + n, false⟩` (17: R353). -/
structure Agent where
  sid : Nat
  e   : Bool
  deriving DecidableEq, Repr

/-- A channel token (13: R308): 128 bytes of data with an error bit, a marker (with the stop flag of 20: R422), or an end
token. An error-marked empty token is 128 zero bytes with the error bit. -/
inductive Token where
  | data (v : VWord) (err : Bool)
  | marker (stop : Bool)
  | fin
  deriving DecidableEq, Repr

/-- What a truss packet carries (06: R161-R165): the length of the collective, the path of the contributor (for BCAST), block
exponents in phase 1; in phase 2, and for every other operator, one integer per element with its class flags (bit 0 NAN, 1 PINF,
2 NINF) and one least NaN key per block. -/
structure TPay where
  len : Nat
  src : Nat
  ex  : List (Option Int)
  sum : List Int
  cls : List (BitVec 3)
  nk  : List (Option Nat)
  deriving DecidableEq, Repr

/-- What another module of the circuit group sends to this one (06: R170-R172, R158; 01: R20; 19: R393). -/
inductive PodReq where
  /-- A pod access: 0 PLD, 1 PST, 2 PATOM, with the target incarnation as the sender knows it. -/
  | access (src : BitVec 10) (srcNo : BitVec 11) (pitch : BitVec 12) (inc : BitVec 8) (kind : BitVec 2) (addr : Word)
      (size : BitVec 2) (val cmp : Word) (aop : BitVec 4)
  | decrement (tref : Word) (amt : Nat) (skip : Bool) (ptag : BitVec 12)
  /-- A truss packet between module roots: phase as in `TPkt`. -/
  | truss (src : BitVec 10) (gid : BitVec 10) (gen : BitVec 4) (chunk : Nat) (phase : BitVec 3)
      (ptag : BitVec 12) (pay : TPay)
  /-- A packet for another package, to be forwarded (19: R396): its kind, source number, pitch and words. -/
  | forward (src target : BitVec 10) (srcNo : BitVec 11) (kind : BitVec 4) (ptag : BitVec 12) (data : List Word)
  /-- The answer to a relayed host request: the source's queue and entry, status and result (17: R352). -/
  | answer (src : BitVec 10) (core : BitVec 4) (status : BitVec 8) (result : Word)
  /-- A group that another module's `GCREATE` makes, or frees, over tiles of this one too (06: R159; 17: R358): its id, pitch or set, operator,
  generation, endpoint, members by tile and package; `on` false frees it. -/
  | group (gid : BitVec 10) (tag : BitVec 12) (op gen : BitVec 4) (endp : BitVec 10) (members : List (Nat × Nat)) (on : Bool)
  deriving DecidableEq, Repr

/-- A chunk to be redone, and, when that has changed, which links of the tree have failed, each by the node or leaf below it, and which nodes
do not work (06: R160, R168). -/
structure ChunkFail where
  chunk : Nat
  fail  : Option (List Nat × List Nat)
  deriving DecidableEq, Repr

/-- A flit's sequence number; on a viaduct, whether it goes from the pair's higher die to its lower one (19: R390). -/
structure FlitNo where
  no   : Nat
  back : Bool
  deriving DecidableEq, Repr

/-- The key index under which a flit arrives, and whether an acknowledgement comes of it (19: R390, R394). -/
structure FlitKey where
  key : BitVec 8
  ack : Bool
  deriving DecidableEq, Repr

/-- A flit that goes out again: its number, whether by a negative acknowledgement, and, on a viaduct, over which one (19: R391). -/
structure FlitAgain where
  no   : Nat
  back : Bool
  nak  : Bool
  onto : Nat
  deriving DecidableEq, Repr

/-- The end that a wavelength swap message comes from, and whether it acknowledges (19: R395). -/
structure SwapFrom where
  pkg : BitVec 10
  ack : Bool
  deriving DecidableEq, Repr

/-- What happens on the Ethernet ports (06: R173, R175). -/
inductive UePkt where
  /-- Bytes of a message of `mlen` bytes reach the receive buffer that matched it. -/
  | recv (post mlen : Nat)
  /-- Bytes of another module's `WRITE` of `mlen` bytes to `addr` reach this module's memory. -/
  | write (die : BitVec 2) (pitch : BitVec 12) (addr : Word) (mlen : Nat)
  /-- `n` bytes of a posted message leave through a port; they are read from memory. -/
  | send (post n port : Nat)
  /-- An acknowledgement comes for a destination: its mark, and the window and smoothed round-trip time after it. -/
  | ack (dest : Nat) (ecn : Bool) (win rtt : BitVec 32)
  deriving DecidableEq, Repr

/-- The answer of a pod target: a value, an acknowledgement, or the translation error response (06: R172). -/
inductive PodAnswer where
  | value (v : Word)
  | ack
  | error
  | unreachable                   -- from a module that forwards (19: R396)
  deriving DecidableEq, Repr

/-- What the boot steps find (17: R369, R370), and what the boot configuration names. -/
structure BootResult where
  romOk    : Bool
  imageOk  : Bool                 -- one of the two Casquin copies passes its checks
  pkg      : BitVec 10
  badTiles : List Nat
  badLinks : List Nat             -- link numbers of LNKSEL (19: R389)
  light    : List Nat             -- scale-up ports with light
  badGrans : List Nat             -- 256 MiB granules excluded from caching and pinning
  badChans : List Nat             -- LPDDR 5X channels taken out of service
  failed   : List Nat             -- steps that failed in their first form
  measure  : List (BitVec 8)      -- what step 4 measures
  q0req    : Word                 -- rings of queue 0
  q0comp   : Word
  q0count  : Nat
  deriving DecidableEq, Repr

/-- The entry an uncorrectable error strikes: the rows of 20: R403, and 20: R404. -/
inductive ErrTarget where
  | srbEntry (tile line : Nat)
  | translation (die page : Nat)
  | cleanLine (line : Nat)
  | dirtyLine (line : Nat)
  | record (rk : Nat)
  | instEntry (key : Nat)
  | message (m : Nat)
  | tableEntry                    -- template, truss group, route and destination tables
  | partialSum (gid chunk : Nat)
  | countingBarrier (k : Nat)
  | strandState (sid : Nat) (residue : Bool)
  | spanBuffer (sid : Nat)
  | wirePhase (k : Nat) (col : Bool)
  | replayRecv (link seq : Nat)
  | replaySend (link seq : Nat) (back : Bool)
  | post (id : Nat)
  | cqEntry (key i : Nat)
  | dispatcher (die : Nat)
  | coreState (core : Nat)
  deriving DecidableEq, Repr


/-- The instructions of the opcode map (07: R188; entries in 09-13), each form of an entry a constructor, and after
them the steps of the module's agents (95). Instructions without operands come after those with operands. Register fields hold register numbers; every field has its encoded width. -/
inductive Instr where
  /-- `BR` (R207). Sets the pending transfer to a line relative to the block start. -/
  | br (imm : BitVec 27)
  /-- `BR_REG` (R207). Sets the pending transfer to the line held in a g register. -/
  | brReg (a : BitVec 5)
  /-- `BRZ` (R207). Sets the pending transfer when a g register is zero. -/
  | brz (a : BitVec 5) (imm : BitVec 27)
  /-- `BRNZ` (R207). Sets the pending transfer when a g register is non-zero. -/
  | brnz (a : BitVec 5) (imm : BitVec 27)
  /-- `BRBQ` (R207). Pops a branch-outcome bit and branches when it is 1, blocking while the queue is empty. -/
  | brbq (imm : BitVec 27)
  /-- `BRBQ_Z` (R207). Pops a branch-outcome bit and branches when it is 0, blocking while the queue is empty. -/
  | brbqZ (imm : BitVec 27)
  /-- `CALL` (R207). Writes the return line and sets the pending transfer to a relative target. -/
  | call (d : BitVec 5) (imm : BitVec 27)
  /-- `CALL_REG` (R207). Writes the return line and sets the pending transfer to a register target. -/
  | callReg (d : BitVec 5) (a : BitVec 5)
  /-- `RET` (R207). Sets the pending transfer to the line held in a g register. -/
  | ret (n : BitVec 5)
  /-- `LOOPB` (R207). Decrements a counter and branches when the result is non-zero. -/
  | loopb (d : BitVec 5) (imm : BitVec 27)
  /-- `PUSHBQ` (R208). Appends bit 0 of a register to the branch-outcome queue towards the other sequencer. -/
  | pushbq (n : BitVec 5)
  /-- `PUSHBQ_NZ` (R208). Appends 1 if a register is non-zero, else 0, to the outgoing branch-outcome queue. -/
  | pushbqNz (n : BitVec 5)
  /-- `SLEEPC` (R211). Blocks the strand until CYCLE reaches an absolute wake cycle. -/
  | sleepc (n : BitVec 5)
  /-- `SLEEPC_REL` (R211). Blocks the strand until CYCLE reaches the issue cycle plus a register value. -/
  | sleepcRel (n : BitVec 5)
  /-- `TRAPS` (R212). Takes trap SW_TRAP with an immediate argument. -/
  | traps (n : BitVec 6)
  /-- `BRK` (R212). Takes trap BREAK, or parks the strand when breaks are routed to the service core. -/
  | brk (n : BitVec 6)
  /-- `ILL` (R212). Takes ILLEGAL_OP when it issues. -/
  | ill (n : BitVec 6)
  /-- `ADD` (R214). Writes the wrapped sum of two registers. -/
  | add (d : BitVec 5) (a : BitVec 5) (b : BitVec 5)
  /-- `SUB` (R214). Writes the wrapped difference of two registers. -/
  | sub (d : BitVec 5) (a : BitVec 5) (b : BitVec 5)
  /-- `MUL` (R214). Writes the low 64 bits of a product. -/
  | mul (d : BitVec 5) (a : BitVec 5) (b : BitVec 5)
  /-- `MULH` (R214). Writes the high 64 bits of a signed product. -/
  | mulh (d : BitVec 5) (a : BitVec 5) (b : BitVec 5)
  /-- `MULHN` (R214). Writes the high 64 bits of an unsigned product. -/
  | mulhn (d : BitVec 5) (a : BitVec 5) (b : BitVec 5)
  /-- `DIV` (R214). Writes the signed quotient under R114. -/
  | div (d : BitVec 5) (a : BitVec 5) (b : BitVec 5)
  /-- `DIVN` (R214). Writes the unsigned quotient under R114. -/
  | divn (d : BitVec 5) (a : BitVec 5) (b : BitVec 5)
  /-- `REM` (R214). Writes the signed remainder under R114. -/
  | rem (d : BitVec 5) (a : BitVec 5) (b : BitVec 5)
  /-- `REMN` (R214). Writes the unsigned remainder under R114. -/
  | remn (d : BitVec 5) (a : BitVec 5) (b : BitVec 5)
  /-- `AND` (R214). Writes the bitwise AND. -/
  | and (d : BitVec 5) (a : BitVec 5) (b : BitVec 5)
  /-- `OR` (R214). Writes the bitwise OR. -/
  | or (d : BitVec 5) (a : BitVec 5) (b : BitVec 5)
  /-- `XOR` (R214). Writes the bitwise XOR. -/
  | xor (d : BitVec 5) (a : BitVec 5) (b : BitVec 5)
  /-- `ANDN` (R214). Writes a AND NOT b. -/
  | andn (d : BitVec 5) (a : BitVec 5) (b : BitVec 5)
  /-- `SHL` (R214). Shifts left by b[5:0]. -/
  | shl (d : BitVec 5) (a : BitVec 5) (b : BitVec 5)
  /-- `SHR` (R214). Shifts right logically by b[5:0]. -/
  | shr (d : BitVec 5) (a : BitVec 5) (b : BitVec 5)
  /-- `SAR` (R214). Shifts right arithmetically by b[5:0]. -/
  | sar (d : BitVec 5) (a : BitVec 5) (b : BitVec 5)
  /-- `ROR` (R214). Rotates right by b[5:0]. -/
  | ror (d : BitVec 5) (a : BitVec 5) (b : BitVec 5)
  /-- `MIN` (R214). Writes the signed minimum. -/
  | min (d : BitVec 5) (a : BitVec 5) (b : BitVec 5)
  /-- `MAX` (R214). Writes the signed maximum. -/
  | max (d : BitVec 5) (a : BitVec 5) (b : BitVec 5)
  /-- `MINN` (R214). Writes the unsigned minimum. -/
  | minn (d : BitVec 5) (a : BitVec 5) (b : BitVec 5)
  /-- `MAXN` (R214). Writes the unsigned maximum. -/
  | maxn (d : BitVec 5) (a : BitVec 5) (b : BitVec 5)
  /-- `CMP` (R215). Writes 1 or 0 for an integer condition on two registers. -/
  | cmp (d : BitVec 5) (cc : BitVec 6) (a : BitVec 5) (b : BitVec 5)
  /-- `SEL` (R216). Selects a or b by whether c is non-zero. -/
  | sel (d : BitVec 5) (a : BitVec 5) (b : BitVec 5) (c : BitVec 5)
  /-- `CLZ` (R216). Counts leading zero bits. -/
  | clz (d : BitVec 5) (a : BitVec 5)
  /-- `POPC` (R216). Counts one bits. -/
  | popc (d : BitVec 5) (a : BitVec 5)
  /-- `BEXT` (R219). Extracts a bit field, zero-extended. -/
  | bext (d : BitVec 5) (a : BitVec 5) (lo : BitVec 6) (len : BitVec 7)
  /-- `BEXT_S` (R219). Extracts a bit field, sign-extended. -/
  | bextS (d : BitVec 5) (a : BitVec 5) (lo : BitVec 6) (len : BitVec 7)
  /-- `BINS` (R219). Inserts low bits of a register into a bit field of the destination. -/
  | bins (d : BitVec 5) (a : BitVec 5) (lo : BitVec 6) (len : BitVec 7)
  /-- `EXTS` (R216). Sign-extends the low n bits. -/
  | exts (d : BitVec 5) (a : BitVec 5) (n : BitVec 6)
  /-- `ADDI` (R217). Adds a signed immediate. -/
  | addi (d : BitVec 5) (a : BitVec 5) (imm : BitVec 27)
  /-- `ANDI` (R217). ANDs with a sign-extended immediate. -/
  | andi (d : BitVec 5) (a : BitVec 5) (imm : BitVec 27)
  /-- `ORI` (R217). ORs with a sign-extended immediate. -/
  | ori (d : BitVec 5) (a : BitVec 5) (imm : BitVec 27)
  /-- `XORI` (R217). XORs with a sign-extended immediate. -/
  | xori (d : BitVec 5) (a : BitVec 5) (imm : BitVec 27)
  /-- `SHLI` (R217). Shifts left by an immediate. -/
  | shli (d : BitVec 5) (a : BitVec 5) (n : BitVec 6)
  /-- `SHRI` (R217). Shifts right logically by an immediate. -/
  | shri (d : BitVec 5) (a : BitVec 5) (n : BitVec 6)
  /-- `SARI` (R217). Shifts right arithmetically by an immediate. -/
  | sari (d : BitVec 5) (a : BitVec 5) (n : BitVec 6)
  /-- `CMPI` (R218). Compares a register with a sign-extended immediate under a condition code. -/
  | cmpi (d : BitVec 5) (cc : BitVec 4) (a : BitVec 5) (imm : BitVec 23)
  /-- `LI` (R220). Loads a sign-extended 27-bit immediate. -/
  | li (d : BitVec 5) (imm : BitVec 27)
  /-- `LIL` (R220). Loads a 64-bit immediate. -/
  | lil (d : BitVec 5) (imm : BitVec 64)
  /-- `MOV` (R216). Copies a register. -/
  | mov (d : BitVec 5) (a : BitVec 5)
  /-- `ADDSAT` (R216). Adds signed with saturation. -/
  | addsat (d : BitVec 5) (a : BitVec 5) (b : BitVec 5)
  /-- `ADDSAT_N` (R216). Adds unsigned with saturation. -/
  | addsatN (d : BitVec 5) (a : BitVec 5) (b : BitVec 5)
  /-- `MADD` (R216). Writes the wrapped a × b + c. -/
  | madd (d : BitVec 5) (a : BitVec 5) (b : BitVec 5) (c : BitVec 5)
  /-- `LEA` (R220). Forms a register-relative address without access. -/
  | lea (d : BitVec 5) (a : BitVec 5) (imm : BitVec 27)
  /-- `LEA_LABEL` (R220). Forms the address of a line relative to the block start. -/
  | leaLabel (d : BitVec 5) (imm : BitVec 27)
  /-- `FADD` (R221). Adds two f32 values with RNE. -/
  | fadd (d : BitVec 5) (a : BitVec 5) (b : BitVec 5)
  /-- `FSUB` (R221). Subtracts two f32 values with RNE. -/
  | fsub (d : BitVec 5) (a : BitVec 5) (b : BitVec 5)
  /-- `FMUL` (R221). Multiplies two f32 values with RNE. -/
  | fmul (d : BitVec 5) (a : BitVec 5) (b : BitVec 5)
  /-- `FFMA` (R221). Computes a × b + c in f32 with one rounding. -/
  | ffma (d : BitVec 5) (a : BitVec 5) (b : BitVec 5) (c : BitVec 5)
  /-- `FDIV` (R221). Divides f32 values, correctly rounded. -/
  | fdiv (d : BitVec 5) (a : BitVec 5) (b : BitVec 5)
  /-- `FSQRT` (R221). Takes the f32 square root, correctly rounded. -/
  | fsqrt (d : BitVec 5) (a : BitVec 5)
  /-- `FMIN` (R221). Writes the f32 minimumNumber. -/
  | fmin (d : BitVec 5) (a : BitVec 5) (b : BitVec 5)
  /-- `FMAX` (R221). Writes the f32 maximumNumber. -/
  | fmax (d : BitVec 5) (a : BitVec 5) (b : BitVec 5)
  /-- `FCMP` (R222). Writes 1 or 0 for a quiet f32 comparison. -/
  | fcmp (d : BitVec 5) (cc : BitVec 6) (a : BitVec 5) (b : BitVec 5)
  /-- `FCVT` (R223). Converts between scalar types under a rounding mode. -/
  | fcvt (d : BitVec 5) (a : BitVec 5) (src : BitVec 5) (dst : BitVec 4) (mode : BitVec 2)
  /-- `FCLASS` (R224). Sets one bit classifying an f32 value. -/
  | fclass (d : BitVec 5) (a : BitVec 5)
  /-- `FSGN` (R225). Copies a with its sign bit set from the signs by code. -/
  | fsgn (d : BitVec 5) (op : BitVec 6) (a : BitVec 5) (b : BitVec 5)
  /-- `WCFG` (R228). Loads a walker descriptor and writes a configuration status. -/
  | wcfg (d : BitVec 5) (w : BitVec 3) (a : BitVec 5)
  /-- `WGO` (R229). Starts a configured, halted or done walker. -/
  | wgo (d : BitVec 5) (w : BitVec 3)
  /-- `WHALT` (R230). Blocks A until a running walker finishes its row and halts. -/
  | whalt (w : BitVec 3)
  /-- `WSTAT` (R231). Writes a walker status word. -/
  | wstat (d : BitVec 5) (w : BitVec 3) (selx : BitVec 5)
  /-- `WIDX` (R232). Sets one walker loop counter and halts the walker. -/
  | widx (d : BitVec 5) (w : BitVec 3) (lvl : BitVec 5) (a : BitVec 5)
  /-- `LD` (R233). Loads 8 bytes through w0. -/
  | ld (d : BitVec 5) (a : BitVec 5) (imm : BitVec 27)
  /-- `LD_SIZED` (R233). Loads 1, 2 or 4 bytes through w0 with extension by size code. -/
  | ldSized (d : BitVec 5) (a : BitVec 5) (sz : BitVec 3) (disp : BitVec 24)
  /-- `ST` (R233). Stores 8 bytes through w0. -/
  | st (d : BitVec 5) (a : BitVec 5) (imm : BitVec 27)
  /-- `ST_SIZED` (R233). Stores 1, 2 or 4 bytes through w0. -/
  | stSized (d : BitVec 5) (a : BitVec 5) (sz : BitVec 3) (disp : BitVec 24)
  /-- `LDV` (R234). Reads 128 bytes and pushes them as one queue entry. -/
  | ldv (q : BitVec 3) (a : BitVec 5) (disp : BitVec 6)
  /-- `STV` (R234). Pops one queue entry and writes its 128 bytes. -/
  | stv (q : BitVec 3) (a : BitVec 5) (disp : BitVec 6)
  /-- `FEB_CLR` (R235). Clears the full bits of a local range. -/
  | febClr (a : BitVec 5) (b : BitVec 5)
  /-- `FEB_SET` (R235). Sets the full bits of a local range as a release at TILE. -/
  | febSet (a : BitVec 5) (b : BitVec 5)
  /-- `WAITF` (R235). Blocks A until a local range is full, then acquires. -/
  | waitf (a : BitVec 5) (b : BitVec 5)
  /-- `AADD` (R237). Atomically adds and returns the old value. -/
  | aadd (d : BitVec 5) (w : BitVec 1) (a : BitVec 5) (b : BitVec 5) (ord : BitVec 2) (scope : BitVec 3) (disp : BitVec 24)
  /-- `AMIN` (R237). Atomic signed minimum. -/
  | amin (d : BitVec 5) (w : BitVec 1) (a : BitVec 5) (b : BitVec 5) (ord : BitVec 2) (scope : BitVec 3) (disp : BitVec 24)
  /-- `AMAX` (R237). Atomic signed maximum. -/
  | amax (d : BitVec 5) (w : BitVec 1) (a : BitVec 5) (b : BitVec 5) (ord : BitVec 2) (scope : BitVec 3) (disp : BitVec 24)
  /-- `AMINN` (R237). Atomic unsigned minimum. -/
  | aminn (d : BitVec 5) (w : BitVec 1) (a : BitVec 5) (b : BitVec 5) (ord : BitVec 2) (scope : BitVec 3) (disp : BitVec 24)
  /-- `AMAXN` (R237). Atomic unsigned maximum. -/
  | amaxn (d : BitVec 5) (w : BitVec 1) (a : BitVec 5) (b : BitVec 5) (ord : BitVec 2) (scope : BitVec 3) (disp : BitVec 24)
  /-- `AAND` (R237). Atomic AND. -/
  | aand (d : BitVec 5) (w : BitVec 1) (a : BitVec 5) (b : BitVec 5) (ord : BitVec 2) (scope : BitVec 3) (disp : BitVec 24)
  /-- `AOR` (R237). Atomic OR. -/
  | aor (d : BitVec 5) (w : BitVec 1) (a : BitVec 5) (b : BitVec 5) (ord : BitVec 2) (scope : BitVec 3) (disp : BitVec 24)
  /-- `AXOR` (R237). Atomic XOR. -/
  | axor (d : BitVec 5) (w : BitVec 1) (a : BitVec 5) (b : BitVec 5) (ord : BitVec 2) (scope : BitVec 3) (disp : BitVec 24)
  /-- `ASWP` (R237). Atomic swap. -/
  | aswp (d : BitVec 5) (w : BitVec 1) (a : BitVec 5) (b : BitVec 5) (ord : BitVec 2) (scope : BitVec 3) (disp : BitVec 24)
  /-- `ACAS` (R237). Atomic compare and swap. -/
  | acas (d : BitVec 5) (w : BitVec 1) (a : BitVec 5) (b : BitVec 5) (c : BitVec 5) (ord : BitVec 2) (scope : BitVec 3) (disp : BitVec 24)
  /-- `AINCB` (R237). Atomic bounded increment. -/
  | aincb (d : BitVec 5) (w : BitVec 1) (a : BitVec 5) (b : BitVec 5) (ord : BitVec 2) (scope : BitVec 3) (disp : BitVec 24)
  /-- `AFADD` (R237). Atomic f32 add with RNE. -/
  | afadd (d : BitVec 5) (a : BitVec 5) (b : BitVec 5) (ord : BitVec 2) (scope : BitVec 3) (disp : BitVec 24)
  /-- `LDACQ` (R239). Loads through w0 and acquires at a scope. -/
  | ldacq (d : BitVec 5) (a : BitVec 5) (sz : BitVec 2) (scope : BitVec 3)
  /-- `STREL` (R239). Releases at a scope and stores through w0. -/
  | strel (d : BitVec 5) (a : BitVec 5) (sz : BitVec 2) (scope : BitVec 3)
  /-- `FENCE` (R240). Blocks A until the ordering of R102 holds, taking held PST errors at POD scope. -/
  | fence (kind : BitVec 2) (scope : BitVec 3)
  /-- `CPY` (R242). Releases, reads a copy descriptor, translates, takes a slot and starts a copy. -/
  | cpy (d : BitVec 5) (a : BitVec 5) (disp : BitVec 32)
  /-- `CPYM` (R242). Starts a copy that may merge into a multicast. -/
  | cpym (d : BitVec 5) (a : BitVec 5) (disp : BitVec 32)
  /-- `CPYW` (R244). Checks a copy ticket and sleeps until the promised cycle. -/
  | cpyw (n : BitVec 5)
  /-- `CPYQ` (R242). Starts a copy that pushes its ticket into a queue at completion. -/
  | cpyq (d : BitVec 5) (a : BitVec 5) (disp : BitVec 32) (q : BitVec 3)
  /-- `CPYC` (R242). Starts a copy that signals a semaphore at completion. -/
  | cpyc (d : BitVec 5) (a : BitVec 5) (disp : BitVec 32) (h : BitVec 4)
  /-- `QPUSH` (R245). Pushes a register as a scalar queue entry. -/
  | qpush (q : BitVec 3) (a : BitVec 5)
  /-- `QPOP` (R245). Pops bytes 0–7 of the oldest queue entry. -/
  | qpop (d : BitVec 5) (q : BitVec 3)
  /-- `BQPOP` (R245). Pops a branch-outcome bit into a register. -/
  | bqpop (n : BitVec 5)
  /-- `SEMS` (R246). Signals a semaphore of the issuing strand. -/
  | sems (h : BitVec 4)
  /-- `SEMS_REMOTE` (R246). Signals a semaphore of the strand in a named tile and slot. -/
  | semsRemote (h : BitVec 4) (a : BitVec 5)
  /-- `SEMW` (R246). Blocks until a semaphore is positive, then decrements it. -/
  | semw (h : BitVec 4)
  /-- `BARH` (R248). Releases and records an arrival at a wire or counting barrier, or arms a counting barrier. -/
  | barh (d : BitVec 5) (a : BitVec 5) (b : BitVec 5)
  /-- `BARW` (R251). Waits for the release that follows the strand's last arrival, then acquires. -/
  | barw (a : BitVec 5)
  /-- `CYC` (R253). Reads CYCLE. -/
  | cyc (n : BitVec 5)
  /-- `CSEND` (R310). Sends a vector as a data token on a channel. -/
  | csend (c : BitVec 3) (va : BitVec 5)
  /-- `CRECV` (R311). Takes a data token, passing marker waves, trapping at an end token. -/
  | crecv (vd : BitVec 5) (c : BitVec 3)
  /-- `CRECV_S` (R311). Takes a data token and reports an end token by status. -/
  | crecvS (vd : BitVec 5) (c : BitVec 3) (b : BitVec 5)
  /-- `CPEEK` (R312). Reports the kind of a channel's head token without removing it. -/
  | cpeek (vd : BitVec 5) (c : BitVec 3) (b : BitVec 5)
  /-- `CCLOSE` (R313). Appends an end token and closes a send end. -/
  | cclose (c : BitVec 3)
  /-- `CSTAT` (R317). Writes a channel status word. -/
  | cstat (d : BitVec 5) (c : BitVec 3) (selx : BitVec 6)
  /-- `CERR` (R318). Reads and clears a channel's error counts. -/
  | cerr (d : BitVec 5) (c : BitVec 3)
  /-- `PLD` (R320). Sends a pod load and parks until its reply. -/
  | pld (d : BitVec 5) (b : BitVec 5) (a : BitVec 5) (sz : BitVec 2) (disp : BitVec 24)
  /-- `PST` (R320). Posts a pod store. -/
  | pst (b : BitVec 5) (a : BitVec 5) (c : BitVec 5) (sz : BitVec 2) (disp : BitVec 24)
  /-- `PATOM` (R320). Sends a pod atomic and parks until its reply. -/
  | patom (d : BitVec 5) (w : BitVec 1) (b : BitVec 5) (a : BitVec 5) (c : BitVec 5) (e : BitVec 5) (aop : BitVec 4) (ord : BitVec 2) (scope : BitVec 3) (disp : BitVec 24)
  /-- `DRAIN` (R321). Fences, appends drain markers to scale-up ports and waits for their acknowledgement. -/
  | drain (d : BitVec 5) (a : BitVec 5)
  /-- `XPOST` (R322). Releases, reads a transfer descriptor, translates and posts a transport operation. -/
  | xpost (d : BitVec 5) (a : BitVec 5) (disp : BitVec 32)
  /-- `XCQ` (R323). Removes the oldest completion entry, or reports an empty queue. -/
  | xcq (d : BitVec 5) (a : BitVec 5)
  /-- `XCQ_W` (R323). Removes the oldest completion entry, blocking while empty. -/
  | xcqW (d : BitVec 5) (a : BitVec 5)
  /-- `XCONG` (R324). Reads the transport congestion state of a destination. -/
  | xcong (d : BitVec 5) (c : BitVec 5) (a : BitVec 5)
  /-- `TDEC` (R327). Releases and posts a decrement to a tref. -/
  | tdec (a : BitVec 5) (amt : BitVec 6)
  /-- `TDEC_SKIP` (R327). Releases and posts a skip decrement to a tref. -/
  | tdecSkip (a : BitVec 5) (amt : BitVec 6)
  /-- `TINST` (R328). Instantiates a template, zeros the slot table and writes the trefs. -/
  | tinst (d : BitVec 5) (a : BitVec 5) (b : BitVec 5) (c : BitVec 5)
  /-- `TBIND` (R329). Writes a value into a slot of an unsealed instance. -/
  | tbind (d : BitVec 5) (a : BitVec 5) (b : BitVec 5) (c : BitVec 5)
  /-- `TSEAL` (R329). Seals an instance on every die. -/
  | tseal (n : BitVec 5)
  /-- `RECPUT` (R330). Appends a tile record to a record-driven fan. -/
  | recput (d : BitVec 5) (a : BitVec 5) (b : BitVec 5)
  /-- `RECSEAL` (R330). Closes the tile-record list of a record-driven fan. -/
  | recseal (n : BitVec 5)
  /-- `TSTAT` (R331). Reads one 8-byte word of a task record. -/
  | tstat (d : BitVec 5) (a : BitVec 5) (w : BitVec 6)
  /-- `TPARM` (R331). Writes PARAMS of a building or waiting record. -/
  | tparm (d : BitVec 5) (a : BitVec 5) (b : BitVec 5)
  /-- `TFREE` (R331). Frees an instance on every die. -/
  | tfree (n : BitVec 5)
  /-- `VADD` (R258). Adds vectors element by element. -/
  | vadd (vd : BitVec 5) (va : BitVec 5) (vb : BitVec 5) (ty : BitVec 4) (p : BitVec 3) (sat : BitVec 1)
  /-- `VADD_S` (R258). Adds a scalar to each element. -/
  | vaddS (vd : BitVec 5) (va : BitVec 5) (gb : BitVec 5) (ty : BitVec 4) (p : BitVec 3) (sat : BitVec 1)
  /-- `VSUB` (R258). Subtracts vectors element by element. -/
  | vsub (vd : BitVec 5) (va : BitVec 5) (vb : BitVec 5) (ty : BitVec 4) (p : BitVec 3) (sat : BitVec 1)
  /-- `VSUB_S` (R258). Subtracts a scalar from each element. -/
  | vsubS (vd : BitVec 5) (va : BitVec 5) (gb : BitVec 5) (ty : BitVec 4) (p : BitVec 3) (sat : BitVec 1)
  /-- `VMUL` (R258). Multiplies vectors element by element. -/
  | vmul (vd : BitVec 5) (va : BitVec 5) (vb : BitVec 5) (ty : BitVec 4) (p : BitVec 3)
  /-- `VMUL_S` (R258). Multiplies each element by a scalar. -/
  | vmulS (vd : BitVec 5) (va : BitVec 5) (gb : BitVec 5) (ty : BitVec 4) (p : BitVec 3)
  /-- `VFMA` (R258). Computes a × b + c per element with one rounding. -/
  | vfma (vd : BitVec 5) (va : BitVec 5) (vb : BitVec 5) (vc : BitVec 5) (ty : BitVec 4) (p : BitVec 3)
  /-- `VFMS` (R258). Computes a × b − c per element with one rounding. -/
  | vfms (vd : BitVec 5) (va : BitVec 5) (vb : BitVec 5) (vc : BitVec 5) (ty : BitVec 4) (p : BitVec 3)
  /-- `VMIN` (R258). Element minimum. -/
  | vmin (vd : BitVec 5) (va : BitVec 5) (vb : BitVec 5) (ty : BitVec 4) (p : BitVec 3)
  /-- `VMIN_S` (R258). Element minimum with a scalar. -/
  | vminS (vd : BitVec 5) (va : BitVec 5) (gb : BitVec 5) (ty : BitVec 4) (p : BitVec 3)
  /-- `VMAX` (R258). Element maximum. -/
  | vmax (vd : BitVec 5) (va : BitVec 5) (vb : BitVec 5) (ty : BitVec 4) (p : BitVec 3)
  /-- `VMAX_S` (R258). Element maximum with a scalar. -/
  | vmaxS (vd : BitVec 5) (va : BitVec 5) (gb : BitVec 5) (ty : BitVec 4) (p : BitVec 3)
  /-- `VABS` (R258). Element absolute value. -/
  | vabs (vd : BitVec 5) (va : BitVec 5) (ty : BitVec 4) (p : BitVec 3)
  /-- `VNEG` (R258). Element negation. -/
  | vneg (vd : BitVec 5) (va : BitVec 5) (ty : BitVec 4) (p : BitVec 3)
  /-- `VAND` (R258). Element AND. -/
  | vand (vd : BitVec 5) (va : BitVec 5) (vb : BitVec 5) (ty : BitVec 4) (p : BitVec 3)
  /-- `VAND_S` (R258). Element AND with a scalar. -/
  | vandS (vd : BitVec 5) (va : BitVec 5) (gb : BitVec 5) (ty : BitVec 4) (p : BitVec 3)
  /-- `VOR` (R258). Element OR. -/
  | vor (vd : BitVec 5) (va : BitVec 5) (vb : BitVec 5) (ty : BitVec 4) (p : BitVec 3)
  /-- `VOR_S` (R258). Element OR with a scalar. -/
  | vorS (vd : BitVec 5) (va : BitVec 5) (gb : BitVec 5) (ty : BitVec 4) (p : BitVec 3)
  /-- `VXOR` (R258). Element XOR. -/
  | vxor (vd : BitVec 5) (va : BitVec 5) (vb : BitVec 5) (ty : BitVec 4) (p : BitVec 3)
  /-- `VXOR_S` (R258). Element XOR with a scalar. -/
  | vxorS (vd : BitVec 5) (va : BitVec 5) (gb : BitVec 5) (ty : BitVec 4) (p : BitVec 3)
  /-- `VSHL` (R258). Element shift left. -/
  | vshl (vd : BitVec 5) (va : BitVec 5) (vb : BitVec 5) (ty : BitVec 4) (p : BitVec 3)
  /-- `VSHL_S` (R258). Element shift left by a scalar. -/
  | vshlS (vd : BitVec 5) (va : BitVec 5) (gb : BitVec 5) (ty : BitVec 4) (p : BitVec 3)
  /-- `VSHR` (R258). Element logical shift right. -/
  | vshr (vd : BitVec 5) (va : BitVec 5) (vb : BitVec 5) (ty : BitVec 4) (p : BitVec 3)
  /-- `VSHR_S` (R258). Element logical shift right by a scalar. -/
  | vshrS (vd : BitVec 5) (va : BitVec 5) (gb : BitVec 5) (ty : BitVec 4) (p : BitVec 3)
  /-- `VSAR` (R258). Element arithmetic shift right. -/
  | vsar (vd : BitVec 5) (va : BitVec 5) (vb : BitVec 5) (ty : BitVec 4) (p : BitVec 3)
  /-- `VSAR_S` (R258). Element arithmetic shift right by a scalar. -/
  | vsarS (vd : BitVec 5) (va : BitVec 5) (gb : BitVec 5) (ty : BitVec 4) (p : BitVec 3)
  /-- `VCMP` (R259). Writes predicate bits from an element comparison. -/
  | vcmp (kd : BitVec 3) (cc : BitVec 4) (va : BitVec 5) (vb : BitVec 5) (ty : BitVec 4) (p : BitVec 3)
  /-- `VCMP_S` (R259). Writes predicate bits from a comparison with a scalar. -/
  | vcmpS (kd : BitVec 3) (cc : BitVec 4) (va : BitVec 5) (gb : BitVec 5) (ty : BitVec 4) (p : BitVec 3)
  /-- `VSEL` (R260). Selects elements of two vectors by a predicate. -/
  | vsel (vd : BitVec 5) (va : BitVec 5) (vb : BitVec 5) (ty : BitVec 4) (p : BitVec 3)
  /-- `VPERM` (R264). Permutes elements of one vector by indices. -/
  | vperm (vd : BitVec 5) (va : BitVec 5) (vb : BitVec 5) (ty : BitVec 4) (p : BitVec 3)
  /-- `VPERM2` (R264). Permutes elements drawn from two vectors by indices. -/
  | vperm2 (vd : BitVec 5) (va : BitVec 5) (vb : BitVec 5) (vc : BitVec 5) (ty : BitVec 4) (p : BitVec 3)
  /-- `VBCAST` (R263). Broadcasts a g register to every element. -/
  | vbcast (vd : BitVec 5) (ga : BitVec 5) (ty : BitVec 4) (p : BitVec 3)
  /-- `VBCAST_ELEM` (R263). Broadcasts one element of a vector. -/
  | vbcastElem (vd : BitVec 5) (va : BitVec 5) (i : BitVec 10) (ty : BitVec 4) (p : BitVec 3)
  /-- `VMOV` (R263). Copies a vector register. -/
  | vmov (vd : BitVec 5) (va : BitVec 5) (ty : BitVec 4) (p : BitVec 3)
  /-- `VLI` (R263). Loads a 64-bit immediate into every lane. -/
  | vli (vd : BitVec 5) (imm : BitVec 64)
  /-- `VEXT` (R263). Extracts an element at an immediate index. -/
  | vext (gd : BitVec 5) (va : BitVec 5) (i : BitVec 10) (ty : BitVec 4)
  /-- `VEXT_REG` (R263). Extracts an element at a register index. -/
  | vextReg (gd : BitVec 5) (va : BitVec 5) (gb : BitVec 5) (ty : BitVec 4)
  /-- `VINS` (R263). Inserts a register into an element at an immediate index. -/
  | vins (vd : BitVec 5) (ga : BitVec 5) (i : BitVec 10) (ty : BitVec 4)
  /-- `VINS_REG` (R263). Inserts a register into an element at a register index. -/
  | vinsReg (vd : BitVec 5) (ga : BitVec 5) (gb : BitVec 5) (ty : BitVec 4)
  /-- `VQIN` (R265). Pops a whole queue entry into a vector. -/
  | vqin (vd : BitVec 5) (q : BitVec 3)
  /-- `VQOUT` (R265). Pushes a vector as a whole queue entry. -/
  | vqout (q : BitVec 3) (va : BitVec 5)
  /-- `VCVT` (R267). Converts element types by part under a rounding mode. -/
  | vcvt (vd : BitVec 5) (va : BitVec 5) (dst : BitVec 4) (src : BitVec 4) (mode : BitVec 2) (part : BitVec 3) (p : BitVec 3)
  /-- `VRED` (R268). Reduces a vector over the fixed tree into a g register. -/
  | vred (gd : BitVec 5) (va : BitVec 5) (op : BitVec 10) (ty : BitVec 4) (p : BitVec 3)
  /-- `VSCAN` (R268). Computes a sequential scan of a vector. -/
  | vscan (vd : BitVec 5) (va : BitVec 5) (op : BitVec 10) (ty : BitVec 4) (p : BitVec 3)
  /-- `VLUT` (R270). Applies a chain table slot element by element. -/
  | vlut (vd : BitVec 5) (va : BitVec 5) (ch : BitVec 2) (slot : BitVec 2) (p : BitVec 3)
  /-- `VSF` (R269). Applies a special function on the special-function unit. -/
  | vsf (vd : BitVec 5) (va : BitVec 5) (fn : BitVec 10) (p : BitVec 3)
  /-- `VDIV` (R258). Element quotient or remainder. -/
  | vdiv (vd : BitVec 5) (va : BitVec 5) (vb : BitVec 5) (ty : BitVec 4) (p : BitVec 3) (rm : BitVec 1)
  /-- `VSQRT` (R258). Element square root. -/
  | vsqrt (vd : BitVec 5) (va : BitVec 5) (ty : BitVec 4) (p : BitVec 3)
  /-- `VCHAIN` (R273). Reads a chain configuration block from a pool and configures a chain. -/
  | vchain (d : BitVec 5) (ch : BitVec 2) (a : BitVec 5) (o : BitVec 32)
  /-- `VRUN` (R275). Streams queue entries through a chain into another queue. -/
  | vrun (qd : BitVec 3) (qa : BitVec 3) (gb : BitVec 5) (ch : BitVec 2)
  /-- `VRUN_VEC` (R275). Applies a chain to one vector. -/
  | vrunVec (vd : BitVec 5) (va : BitVec 5) (ch : BitVec 2) (p : BitVec 3)
  /-- `VKOP` (R261). Combines predicate registers. -/
  | vkop (kd : BitVec 3) (ka : BitVec 3) (kb : BitVec 3) (op : BitVec 10)
  /-- `VKMOV` (R262). Moves predicate bits between register classes. -/
  | vkmov (d : BitVec 5) (a : BitVec 5) (op : BitVec 10)
  /-- `VCLIP` (R258). Clips elements between vector bounds. -/
  | vclip (vd : BitVec 5) (va : BitVec 5) (vb : BitVec 5) (vc : BitVec 5) (ty : BitVec 4) (p : BitVec 3)
  /-- `VCLIP_S` (R258). Clips elements between scalar bounds. -/
  | vclipS (vd : BitVec 5) (va : BitVec 5) (gb : BitVec 5) (gc : BitVec 5) (ty : BitVec 4) (p : BitVec 3)
  /-- `VSCALE` (R258). Multiplies elements by powers of two from a vector. -/
  | vscale (vd : BitVec 5) (va : BitVec 5) (vb : BitVec 5) (ty : BitVec 4) (p : BitVec 3)
  /-- `VSCALE_S` (R258). Multiplies elements by a power of two from a g register. -/
  | vscaleS (vd : BitVec 5) (va : BitVec 5) (gb : BitVec 5) (ty : BitVec 4) (p : BitVec 3)
  /-- `VMAXE` (R276). Writes the block local exponents of a vector. -/
  | vmaxe (vd : BitVec 5) (va : BitVec 5) (p : BitVec 3)
  /-- `VMAXE_ACC` (R276). Accumulates block local exponents by maximum. -/
  | vmaxeAcc (vd : BitVec 5) (va : BitVec 5) (p : BitVec 3)
  /-- `VQNT` (R277). Quantises f32 elements onto the truss grid. -/
  | vqnt (vd : BitVec 5) (va : BitVec 5) (vb : BitVec 5) (p : BitVec 3)
  /-- `VQNT_CLS` (R277). Writes the truss class code of each element. -/
  | vqntCls (vd : BitVec 5) (va : BitVec 5) (vb : BitVec 5) (p : BitVec 3)
  /-- `VDQNT` (R278). Converts integer sums back to f32 by block exponent. -/
  | vdqnt (vd : BitVec 5) (va : BitVec 5) (vb : BitVec 5) (part : BitVec 1) (ty : BitVec 4) (p : BitVec 3)
  /-- `VHASH` (R279). Hashes elements with H64 and a seed. -/
  | vhash (vd : BitVec 5) (va : BitVec 5) (gb : BitVec 5) (ty : BitVec 4) (p : BitVec 3)
  /-- `VSORT` (R280). Sorts selected elements ascending. -/
  | vsort (vd : BitVec 5) (va : BitVec 5) (idx : BitVec 1) (ty : BitVec 4) (p : BitVec 3)
  /-- `VSORT_D` (R280). Sorts selected elements descending. -/
  | vsortD (vd : BitVec 5) (va : BitVec 5) (idx : BitVec 1) (ty : BitVec 4) (p : BitVec 3)
  /-- `VCOMPR` (R266). Compresses selected elements to the front. -/
  | vcompr (vd : BitVec 5) (va : BitVec 5) (ty : BitVec 4) (p : BitVec 3)
  /-- `VEXPND` (R266). Expands elements into selected positions. -/
  | vexpnd (vd : BitVec 5) (va : BitVec 5) (ty : BitVec 4) (p : BitVec 3)
  /-- `MLDB` (R283). Issues a B panel load into a panel bank. -/
  | mldb (d : BitVec 5) (pb : BitVec 1) (a : BitVec 5) (ty : BitVec 4) (stride : BitVec 32)
  /-- `MMA` (R285). Issues a matrix multiply-accumulate into accumulator rows. -/
  | mma (d : BitVec 5) (ab : BitVec 1) (pb : BitVec 1) (a : BitVec 5) (ty : BitVec 4) (arow : BitVec 7) (n : BitVec 7) (astride : BitVec 16) (kblk : BitVec 14)
  /-- `MZERO` (R287). Zeros accumulator rows. -/
  | mzero (ab : BitVec 1) (a : BitVec 5) (b : BitVec 5)
  /-- `MSCALE` (R286). Sets the A or B scale exponents. -/
  | mscale (va : BitVec 5) (which : BitVec 6)
  /-- `MRD` (R288). Reads a quarter accumulator row into a vector. -/
  | mrd (vd : BitVec 5) (ab : BitVec 1) (ga : BitVec 5) (q : BitVec 2) (p : BitVec 3)
  /-- `MWR` (R288). Writes a quarter accumulator row from a vector. -/
  | mwr (ab : BitVec 1) (ga : BitVec 5) (q : BitVec 2) (vb : BitVec 5) (p : BitVec 3)
  /-- `MACP` (R287). Copies accumulator rows between banks. -/
  | macp (src : BitVec 1) (dst : BitVec 1) (a : BitVec 5) (b : BitVec 5) (n : BitVec 6)
  /-- `MACP_ADD` (R287). Adds accumulator rows into others by CombineAdd. -/
  | macpAdd (src : BitVec 1) (dst : BitVec 1) (a : BitVec 5) (b : BitVec 5) (n : BitVec 6)
  /-- `MWAIT_E` (R291). Holds E until one in-flight entry is done, then frees it. -/
  | mwaitE (n : BitVec 5)
  /-- `MSTAT` (R292). Reads an in-flight entry, freeing it if done. -/
  | mstat (d : BitVec 5) (a : BitVec 5)
  /-- `MSEND` (R290). Sends accumulator rows as channel tokens. -/
  | msend (c : BitVec 3) (ab : BitVec 1) (first : BitVec 7) (n : BitVec 7)
  /-- `MRADD` (R289). Adds a vector into a quarter accumulator row by CombineAdd. -/
  | mradd (ab : BitVec 1) (ga : BitVec 5) (q : BitVec 2) (vb : BitVec 5) (p : BitVec 3)
  /-- `SKINIT` (R295). Writes an empty summary object. -/
  | skinit (d : BitVec 5) (a : BitVec 5) (b : BitVec 5) (c : BitVec 5) (ty : BitVec 2) (size : BitVec 2) (coin : BitVec 2)
  /-- `QSADD` (R296). Inserts f32 elements into a quantile sketch. -/
  | qsadd (d : BitVec 5) (ga : BitVec 5) (vb : BitVec 5) (p : BitVec 3)
  /-- `QSMRG` (R297). Merges a quantile sketch into another. -/
  | qsmrg (d : BitVec 5) (a : BitVec 5) (b : BitVec 5)
  /-- `QSQRY` (R298). Queries a quantile of a sketch. -/
  | qsqry (d : BitVec 5) (a : BitVec 5) (b : BitVec 5)
  /-- `QSRANK` (R298). Queries the rank weight and fraction of a value. -/
  | qsrank (d : BitVec 5) (c : BitVec 5) (a : BitVec 5) (b : BitVec 5)
  /-- `HHADD` (R296). Inserts keys into a heavy-hitter list. -/
  | hhadd (d : BitVec 5) (ga : BitVec 5) (vb : BitVec 5) (ty : BitVec 4) (p : BitVec 3)
  /-- `HHMRG` (R297). Merges a heavy-hitter list into another. -/
  | hhmrg (d : BitVec 5) (a : BitVec 5) (b : BitVec 5)
  /-- `HHTOP` (R299). Copies the first n heavy-hitter entries to a buffer. -/
  | hhtop (d : BitVec 5) (a : BitVec 5) (b : BitVec 5)
  /-- `DCADD` (R296). Inserts keys into distinct-count registers. -/
  | dcadd (d : BitVec 5) (ga : BitVec 5) (vb : BitVec 5) (ty : BitVec 4) (p : BitVec 3)
  /-- `DCMRG` (R297). Merges distinct-count registers by maximum. -/
  | dcmrg (d : BitVec 5) (a : BitVec 5) (b : BitVec 5)
  /-- `DCEST` (R300). Computes the distinct-count estimate. -/
  | dcest (d : BitVec 5) (c : BitVec 5) (a : BitVec 5)
  /-- `SKCOIN` (R301). Sets the coin kind of a quantile sketch. -/
  | skcoin (d : BitVec 5) (a : BitVec 5) (coin : BitVec 6)
  /-- `SKCOMP` (R301). Compacts a named level of a sketch, then runs Compress. -/
  | skcomp (d : BitVec 5) (a : BitVec 5) (lvl : BitVec 6)
  /-- `TRSPUT` (R303). Starts a contribution to a truss collective. -/
  | trsput (d : BitVec 5) (gid : BitVec 10) (a : BitVec 5) (b : BitVec 5) (c : BitVec 5)
  /-- `TRSGET` (R305). Waits until every chunk result of a collective has arrived, then acquires. -/
  | trsget (d : BitVec 5) (gid : BitVec 10)
  /-- `TRSGET_P` (R305). Polls whether every chunk result of a collective has arrived. -/
  | trsgetP (d : BitVec 5) (gid : BitVec 10)
  /-- `TRSSTAT` (R307). Reads a group-table entry at a tree level. -/
  | trsstat (d : BitVec 5) (a : BitVec 5) (lvl : BitVec 6)
  /-- `TRSACK` (R306). Acknowledges a collective and blocks until it completes or fails. -/
  | trsack (d : BitVec 5) (a : BitVec 5)
  /-- `SYSRD` (R332). Reads a system register. -/
  | sysrd (d : BitVec 5) (reg : BitVec 12)
  /-- `SYSWR` (R332). Writes a system register. -/
  | syswr (a : BitVec 5) (reg : BitVec 12)
  /-- `CTXSAVE` (R335). Requests the save of a strand in a tile slot. -/
  | ctxsave (d : BitVec 5) (a : BitVec 5)
  /-- `CTXLOAD` (R335). Restores a context image into a slot and starts the strand. -/
  | ctxload (d : BitVec 5) (a : BitVec 5) (b : BitVec 5)
  /-- `TLBINV` (R335). Drops matching translations and waits for their holders. -/
  | tlbinv (d : BitVec 5) (a : BitVec 5) (b : BitVec 5)
  /-- `NOP` (R210). Does nothing. -/
  | nop
  /-- `YIELD` (R210). Makes a scheduling point inside a block. -/
  | yield
  /-- `CMARK` (R315). Emits a marker wave from a source strand. -/
  | cmark
  /-- `CWAITM` (R316). Passes a wave without taking a data token. -/
  | cwaitm
  /-- `TRET` (R326). Ends the sequencer's part of the strand after the strand-end waits. -/
  | tret
  /-- `TRET_SKIP` (R326). Ends the sequencer and selects skip decrements for a plain task. -/
  | tretSkip
  /-- `MWAIT` (R291). Holds E until every in-flight entry is done, then frees them. -/
  | mwait
  /-- `TRAPRET` (R334). Leaves a trap handler, re-entering the block at the resume point. -/
  | trapret
  /-- `IDLE` (R335). Sleeps the service core until an event or doorbell. -/
  | idle
  /-- `BLOCK_ENTRY` (R184). A sequencer fetches and checks the lines of a block before issuing it. -/
  | blockEntry
  /-- `STRAND_UNBLOCK` (R54). A blocked strand's condition comes to hold and it resumes at the blocking instruction. -/
  | strandUnblock (who : Agent)
  /-- `SLEEPC_WAKE` (R211). CYCLE reaches a sleeping strand's wake cycle. -/
  | sleepcWake (who : Agent)
  /-- `CPYW_WAKE` (R244). CYCLE reaches the promise and CPYW completes or takes PROMISE_MISS. -/
  | cpywWake (who : Agent)
  /-- `BAR_TIMEOUT` (R251). A BARW waits BARTIMEO cycles without release and traps. -/
  | barTimeout (who : Agent)
  /-- `WIRE_RELEASE` (R249). A barrier wire releases its participants after the last arrival. -/
  | wireRelease (die wire : Nat) (col : Bool)
  /-- `MESH_COLUMN_ARRIVAL` (R249). Tiles released by a row wire arrive on their column wires. -/
  | meshColumnArrival (die row : Nat)
  /-- `WALKER_ITERATION` (R65). A running walker moves one row between memory and its target. -/
  | walkerIteration (sid w : Nat)
  /-- `GATED_GROUP_RELEASE` (R68). A gated walker draws a branch bit and commits or discards a complete group. -/
  | gatedGroupRelease (sid w : Nat)
  /-- `SCALAR_READ_BUFFER_EXPIRY` (R90). A scalar read buffer entry is invalidated 4,096 cycles after its fill. -/
  | scalarReadBufferExpiry (tile line : Nat)
  /-- `COPY_ROW_WRITE` (R72). A copy writes a destination row and sets its full bits under FEM. -/
  | copyRowWrite (c row : Nat)
  /-- `COPY_COMPLETION` (R243). A copy's writes are all performed, its completion action is done and its slot frees. -/
  | copyCompletion (c : Nat)
  /-- `MLDB_GRANULE_READ` (R283). A panel load reads one full granule. -/
  | mldbGranuleRead (tile entry : Nat)
  /-- `MMA_ROW_FIRE` (R75). An MMA fires one A row and clears its full bits. -/
  | mmaRowFire (tile entry : Nat)
  /-- `ACCUMULATOR_UPDATE` (R75). A fired row's accumulator update is written 12 cycles later. -/
  | accumulatorUpdate (tile entry : Nat)
  /-- `CHAIN_RESULT` (R275). A stream VRUN pushes a result 24 cycles after its pop. -/
  | chainResult (tile ch : Nat)
  /-- `SUMMARY_COMPLETION` (R157). The summary engine finishes writing an instruction's objects and results. -/
  | summaryCompletion (tile : Nat)
  /-- `BREAKPOINT` (R423). The n-th data token reaches a receive end's head and the strand parks. -/
  | breakpoint (sid bp : Nat)
  /-- `DECREMENT_ARRIVAL` (R20). A decrement message reaches its dispatcher and is applied, dropped as stale or counted late. -/
  | decrementArrival (m : Nat)
  /-- `LOST` (R20). A decrement undelivered after 2^20 cycles is dropped and logged. -/
  | lost (m : Nat)
  /-- `SEAL` (R17). A seal reaches a die and moves each record of the instance out of BUILDING. -/
  | seal (m : Nat)
  /-- `DISPATCH_DECISION` (R45). Every 4 cycles a dispatcher assigns a camp or starts a ready invocation. -/
  | dispatchDecision (die : Nat)
  /-- `STARVATION_RESERVATION` (R47). A level-7 candidate passed over for 2^23 cycles reserves its origin. -/
  | starvationReservation (die : Nat)
  /-- `STAGING_COMPLETE` (R41). The last staging or restore row's full bit sets and the invocation becomes READY. -/
  | stagingComplete (rk inv : Nat)
  /-- `WRITEBACK_DONE` (R24). An invocation's write-backs are performed, its DONEMAP bit set and allocation freed. -/
  | writebackDone (rk inv : Nat)
  /-- `TASK_RETIREMENT` (R108). A draining record's waits end, it releases at SCOPE and sends successor decrements. -/
  | taskRetirement (rk : Nat)
  /-- `PARTIAL_RETIREMENT` (R50). A fan cut off by viaduct loss becomes PARTIAL or FAILED when nothing remains running. -/
  | partialRetirement (rk : Nat)
  /-- `STAGING_RETRY` (R380). A write to the staging-retry word retranslates a faulted dispatcher translation. -/
  | stagingRetry (die : Nat) (tref : Word)
  /-- `SCRESUME` (R381). A write of 1 resumes a parked, faulted or frozen strand. -/
  | scresume (sid : Nat)
  /-- `SAVE_FORCED` (R382). A save not settled after 120,000 cycles is forced and PREEMPT is posted. -/
  | saveForced (sid : Nat)
  /-- `SAVE_DONE` (R382). A save's waits end, the image is written, the slot freed and SAVE_DONE posted. -/
  | saveDone (sid : Nat)
  /-- `POD_REQUEST` (R103). A pod request arrives at its target and is performed there. -/
  | podRequest (r : PodReq)
  /-- `POD_REPLY` (R170). A pod reply arrives and completes the waiting access. -/
  | podReply (id : Nat) (inc : BitVec 8) (ans : PodAnswer)
  /-- `POD_REPLY_TIMEOUT` (R172). No reply within 2^20 cycles gives PEER_UNREACHABLE. -/
  | podReplyTimeout (id : Nat)
  /-- `INCARNATION_ANNOUNCEMENT` (R171). A new peer incarnation is learned and outstanding accesses end with PEER_RESET. -/
  | incarnationAnnouncement (pkg : BitVec 10) (inc : BitVec 8)
  /-- `TRUSS_PACKET` (R162). A truss packet reaches a node and is combined, forwarded or dropped. -/
  | trussPacket (n : Nat)
  /-- `CHUNK_REDO` (R168). A chunk not done within TRSTIMEO is redone over the alternate tree or fails. -/
  | chunkRedo (gid : Nat) (chunk : ChunkFail)
  /-- `UE_PACKET` (R173). An Ultra Ethernet packet is placed into device memory. -/
  | uePacket (post : UePkt) (off : Nat) (data : List Byte)
  /-- `MESSAGE_COMPLETION` (R323). A transport message completes, posting an entry and performing its action. -/
  | messageCompletion (post : Nat) (status : BitVec 8) (placed : Word)
  /-- `RECEIVE_MATCH_TIMEOUT` (R323). A send finds no matching receive within 2^20 cycles. -/
  | receiveMatchTimeout (post : Nat)
  /-- `DOORBELL` (R348). A host writes a queue's tail index, releasing its request entries. -/
  | doorbell (q : Nat) (tail : BitVec 32)
  /-- `HEAD_INDEX_READ` (R348). A host reads a queue's head index and acquires its completions. -/
  | headIndexRead (q : Nat)
  /-- `READ` (R350). Copies pitch memory to host memory. -/
  | read (q : Nat)
  /-- `WRITE` (R350). Copies host memory to pitch memory. -/
  | write (q : Nat)
  /-- `LOAD` (R367). Loads a Fredihal image and writes its templates. -/
  | load (q : Nat)
  /-- `UNLOAD` (R368). Frees a template entry. -/
  | unload (q : Nat)
  /-- `LAUNCH` (R350). Instantiates a template with a host slot table and seals it. -/
  | launch (q : Nat)
  /-- `PCREATE` (R356). Creates a pitch. -/
  | pcreate (q : Nat)
  /-- `PSET` (R350). Writes a pitch control register. -/
  | pset (q : Nat)
  /-- `PEND` (R356). Ends a pitch and frees its resources. -/
  | pend (q : Nat)
  /-- `GCREATE` (R358). Creates a truss group on every node. -/
  | gcreate (q : Nat)
  /-- `GFREE` (R162). Frees a truss group and advances its generation. -/
  | gfree (q : Nat)
  /-- `HSET` (R363). Rewrites a handler entry in three writes. -/
  | hset (q : Nat)
  /-- `PIN` (R358). Pins or unpins a 256 MiB granule in the deck. -/
  | pin (q : Nat)
  /-- `JOIN` (R358). Records or removes a join for pod accesses. -/
  | join (q : Nat)
  /-- `QUOTE` (R371). Writes a signed attestation quote. -/
  | quote (q : Nat)
  /-- `POWER` (R372). Sets the power state and cap. -/
  | power (q : Nat)
  /-- `QUEUE_CREATE` (R350). Creates a host queue bound to a service core. -/
  | queueCreate (q : Nat)
  /-- `QUEUE_DESTROY` (R350). Destroys a host queue. -/
  | queueDestroy (q : Nat)
  /-- `PARTIAL_REDISPATCH` (R52). Re-dispatches the unfinished invocations of a PARTIAL record. -/
  | partialRedispatch (q : Nat)
  /-- `PARTIAL_ABANDON` (R29). Abandons a PARTIAL record to FAILED. -/
  | partialAbandon (q : Nat)
  /-- `TILE` (R357). Writes a tile's reservation word. -/
  | tile (q : Nat)
  /-- `RESERVED_REQUEST` (R350). A request with an unlisted code completes with BADOP. -/
  | reservedRequest (q : Nat)
  /-- `RELAYED_REQUEST` (R352). A request relayed from another module is taken by the same-numbered service core. -/
  | relayedRequest (core src : Nat) (req : BitVec 512)
  /-- `INGRESS_HEADER` (R362). An ingress port takes up a header and instantiates or leaves it unclaimed. -/
  | ingressHeader (port : Nat) (hdr : BitVec 1024)
  /-- `INGRESS_TOKEN` (R362). A data, marker or end token of a stream is delivered to its channel or discarded. -/
  | ingressToken (port : Nat) (tok : Token)
  /-- `HEADER_HOLD_TIMEOUT` (R362). A header held on a WRITING entry for 4,096 cycles is treated as unclaimed. -/
  | headerHoldTimeout (port : Nat)
  /-- `TEMPLATE_ABSENT` (R362). A header held for an absent template for 2^20 cycles becomes unclaimed. -/
  | templateAbsent (port : Nat)
  /-- `INGRESS_TINST_TIMEOUT` (R362). A header whose TINST stays FULL for 2^20 cycles becomes unclaimed. -/
  | ingressTinstTimeout (port : Nat)
  /-- `MODULE_RESET` (R369). Power-on or reset runs the boot and start-up steps. -/
  | moduleReset (b : BootResult)
  /-- `POWER_CAP_RAISE` (R372). Draw below the cap for 120,000 cycles raises the power state. -/
  | powerCapRaise
  /-- `POWER_CAP_LOWER` (R372). Draw above the cap lowers the power state. -/
  | powerCapLower
  /-- `COLD_PLATE_LIMIT` (R372). A cold plate above its limit forces the next lower state. -/
  | coldPlateLimit
  /-- `UNCORRECTABLE_ERROR` (R405). An uncorrectable error rolls back a region, ends pitches or tasks, or refetches. -/
  | uncorrectableError (t : ErrTarget)
  /-- `CORRECTED_ERROR` (R418). A corrected error is counted for its tile. -/
  | correctedError (tile : Nat)
  /-- `COUNTER_WRITE` (R417). A write to a 48-bit counter replaces COUNT and may clear OVF. -/
  | counterWrite (core reg : Nat) (v : Word)
  /-- `PIMGKEY` (R365). A non-zero write reads an image-key block into Casquin's store. -/
  | pimgkey (core : Nat) (v : Word)
  /-- `SSMEM_WRITE` (R402). A write to SSMEM0 or SSMEM1 creates, changes or frees a shared set. -/
  | ssmemWrite (core which : Nat) (v : Word)
  /-- `SWSTART` (R420). A write starts the stall walker and writes its report. -/
  | swstart (core : Nat) (v : Word)
  /-- `STOP` (R422). A DBGCTL write of STOP floods a stop wave through the task's region. -/
  | stop (core : Nat)
  /-- `RESUME` (R422). A DBGCTL write of RESUME resumes every strand parked by stop or breakpoint. -/
  | resume (core : Nat)
  /-- `SCSTEP` (R424). A write single-steps named sequencers of a parked strand to block end. -/
  | scstep (sid : Nat) (mask : BitVec 2)
  /-- `SCDBGA` (R425). A write names an item of a parked strand for reading through SCDBGD. -/
  | scdbga (sid : Nat) (v : Word)
  /-- `ROTATE` (R394). A LNKCTL write of ROTATE starts a UALinkSec key rotation. -/
  | rotate (core : Nat)
  /-- `RETRAIN` (R398). A LNKCTL write of RETRAIN moves a DOWN link to LOCKING. -/
  | retrain (core : Nat)
  /-- `GO` (R398). A LNKCTL write of GO moves a LOCKED link to ACTIVE. -/
  | go (core : Nat)
  /-- `RTEPOCH_WRITE` (R427). A write of RTEPOCH lets Casquin write GO on waiting LOCKED ports. -/
  | rtepochWrite (v : BitVec 32)
  /-- `REGISTER_WRITE` (R354). A write to a register without behaviour of its own takes effect at cycle end. -/
  | registerWrite (core reg : Nat) (v : Word)
  /-- `FLIT` (R390). A link flit arrives and is delivered in order or discarded as a duplicate. -/
  | flit (link : Nat) (seq : FlitNo) (key : FlitKey)
  /-- `FLIT_RESEND` (R391). An unacknowledged flit is resent after its resend interval. -/
  | flitResend (link : Nat) (seq : FlitAgain)
  /-- `VIADUCT_DOWN` (R391). A flit unacknowledged 4,096 cycles takes its viaduct DOWN and resends on the others. -/
  | viaductDown (link : Nat)
  /-- `REPLAY_WINDOW_EXCEEDED` (R394). A flit unacknowledged for a replay window takes the port DOWN. -/
  | replayWindowExceeded (port : Nat)
  /-- `SAMPLE_WINDOW` (R395). A wavelength sample window ends and weak wavelengths request a swap. -/
  | sampleWindow (port fibre wl : Nat) (cerr : BitVec 32) (eye : BitVec 16)
  /-- `WAVELENGTH_SWAP_REQUEST` (R395). A swap request message is acknowledged by the sending end. -/
  | wavelengthSwapRequest (port fibre wl seq : Nat) (fromPkg : SwapFrom)
  /-- `QUIET_POINT` (R395). The quiet-point flit is reached and the spare takes the weak wavelength's share. -/
  | quietPoint (port fibre : Nat)
  /-- `LOSS_OF_LIGHT` (R398). A port loses light and goes DOWN or DARK. -/
  | lossOfLight (port : Nat)
  /-- `LIGHT_PRESENT` (R398). Light arrives at a port and it starts LOCKING. -/
  | lightPresent (port : Nat)
  /-- `LINK_LOCKED` (R398). Training agrees rate, keys and incarnations and the port is LOCKED. -/
  | linkLocked (port : Nat) (pkg : BitVec 10) (inc : BitVec 8) (rate : BitVec 2)
  /-- `TRAINING_FAILED` (R398). A third failed training takes the port DOWN. -/
  | trainingFailed (port : Nat)
  /-- `DRAIN_ACK` (R398). The far end acknowledges a drain marker and the port is DRAINED. -/
  | drainAck (port : Nat)
  /-- `TICK` (R3). One tick of the 1.2 GHz reference clock advances CYCLE and the per-cycle counters. -/
  | tick
  /-- `DRAIN_TIMEOUT` (R321). No drain-marker acknowledgement within 2^20 cycles ends DRAIN with status 3, naming the ports that did not answer. -/
  | drainTimeout (who : Agent)
  /-- `PREVIOUS_KEY_EXPIRY` (R394). Two replay windows after the first flit under a new key arrives, the receiver drops the previous UALinkSec key. -/
  | previousKeyExpiry (port : Nat)
  /-- `ENABLE` (R398). A write of 1 to LNKCTL ENABLE while light is present moves an OFF link to LOCKING. -/
  | enable (core : Nat)
  /-- `ETHERNET_PORT_DOWN` (R399). An Ethernet port loses its link and goes DOWN, and the transport engine moves its traffic to the destination's other ports. -/
  | ethernetPortDown (port : Nat)
  deriving DecidableEq, Repr

end Sys2Proof
end

