-- ==== Sys2Proof/WellFormed.lean ====
section
/-! DEFINITION. WellFormed.lean: the limits that the entries put on an instruction's field values (07: R181, R182; each entry of 09-13). -/

namespace Sys2Proof

/-- Type set I: the integer codes 0 to 7 (11: R254). -/
def tyI (t : Nat) : Bool := t ≤ 7

/-- Type set F: bf16, f16, f32 (11: R254). -/
def tyF (t : Nat) : Bool := 10 ≤ t && t ≤ 12

/-- Type sets I and F. -/
def tyIF (t : Nat) : Bool := tyI t || tyF t

/-- Type set W: every code from 0 to 12 (11: R254). -/
def tyW (t : Nat) : Bool := t ≤ 12

/-- Element width in bits (07: R182, 11: R254). -/
def tyWidth (t : Nat) : Nat :=
  if t ≤ 1 || t == 8 || t == 9 then 8
  else if t ≤ 3 || t == 10 || t == 11 then 16
  else if t ≤ 5 || t == 12 then 32
  else 64

/-- Element count n(T) of a v register (11: R254). -/
def tyCount (t : Nat) : Nat := 1024 / tyWidth t

/-- `FCVT`: codes 4 to 12, different, at least one a float, t6 or t8 (09: R223). -/
def fcvtTypesOk (src dst : Nat) : Bool :=
  4 ≤ src && src ≤ 12 && 4 ≤ dst && dst ≤ 12 && src != dst && (8 ≤ src || 8 ≤ dst)

/-- `VCVT`: codes 0 to 12, different, and `PART` below the ratio of the widths (11: R267). -/
def vcvtOk (src dst part : Nat) : Bool :=
  tyW src && tyW dst && src != dst &&
  part < Nat.max (tyWidth src / tyWidth dst) (Nat.max (tyWidth dst / tyWidth src) 1)

/-- `VKMOV`: the operation, and a k field in bits [2:0] of its field; k0 is no destination (11: R262, 07: R181). -/
def vkmovOk (d a op : Nat) : Bool :=
  op ≤ 6 && (!(op ≤ 1) || 1 ≤ d && d ≤ 7) && (op == 1 || a ≤ 7)

/-- `SKINIT`: the values listed for each kind (12: R295). -/
def skinitOk (ty size coin b c : Nat) : Bool :=
  ty == 1 && size ≤ 2 && coin ≤ 2 ||
  ty == 2 && size ≤ 1 && coin == 0 && b == 0 && c == 0 ||
  ty == 3 && size == 0 && coin == 0 && c == 0


/-- Every field holds a value that the instruction's entry lists; any other gives ILLEGAL_FORM (07: R181). Module steps
have no encoding and no limit. -/
def Instr.wf : Instr → Bool
  | .nop => true
  | .br _ => true
  | .brReg _ => true
  | .brz _ _ => true
  | .brnz _ _ => true
  | .brbq _ => true
  | .brbqZ _ => true
  | .call _ _ => true
  | .callReg _ _ => true
  | .ret _ => true
  | .loopb d _ => d != 0#5
  | .pushbq _ => true
  | .pushbqNz _ => true
  | .yield => true
  | .sleepc _ => true
  | .sleepcRel _ => true
  | .traps _ => true
  | .brk _ => true
  | .ill _ => true
  | .add _ _ _ => true
  | .sub _ _ _ => true
  | .mul _ _ _ => true
  | .mulh _ _ _ => true
  | .mulhn _ _ _ => true
  | .div _ _ _ => true
  | .divn _ _ _ => true
  | .rem _ _ _ => true
  | .remn _ _ _ => true
  | .and _ _ _ => true
  | .or _ _ _ => true
  | .xor _ _ _ => true
  | .andn _ _ _ => true
  | .shl _ _ _ => true
  | .shr _ _ _ => true
  | .sar _ _ _ => true
  | .ror _ _ _ => true
  | .min _ _ _ => true
  | .max _ _ _ => true
  | .minn _ _ _ => true
  | .maxn _ _ _ => true
  | .cmp _ cc _ _ => cc.toNat ≤ 9
  | .sel _ _ _ _ => true
  | .clz _ _ => true
  | .popc _ _ => true
  | .bext _ _ lo len => len.toNat != 0 && lo.toNat + len.toNat ≤ 64
  | .bextS _ _ lo len => len.toNat != 0 && lo.toNat + len.toNat ≤ 64
  | .bins _ _ lo len => len.toNat != 0 && lo.toNat + len.toNat ≤ 64
  | .exts _ _ _ => true
  | .addi _ _ _ => true
  | .andi _ _ _ => true
  | .ori _ _ _ => true
  | .xori _ _ _ => true
  | .shli _ _ _ => true
  | .shri _ _ _ => true
  | .sari _ _ _ => true
  | .cmpi _ cc _ _ => cc.toNat ≤ 9
  | .li _ _ => true
  | .lil _ _ => true
  | .mov _ _ => true
  | .addsat _ _ _ => true
  | .addsatN _ _ _ => true
  | .madd _ _ _ _ => true
  | .lea _ _ _ => true
  | .leaLabel _ _ => true
  | .fadd _ _ _ => true
  | .fsub _ _ _ => true
  | .fmul _ _ _ => true
  | .ffma _ _ _ _ => true
  | .fdiv _ _ _ => true
  | .fsqrt _ _ => true
  | .fmin _ _ _ => true
  | .fmax _ _ _ => true
  | .fcmp _ cc _ _ => cc.toNat ≤ 6
  | .fcvt _ _ src dst _ => fcvtTypesOk src.toNat dst.toNat
  | .fclass _ _ => true
  | .fsgn _ op _ _ => op.toNat ≤ 2
  | .wcfg _ w _ => w != 0#3
  | .wgo _ w => w != 0#3
  | .whalt w => w != 0#3
  | .wstat _ _ selx => selx.toNat ≤ 2
  | .widx _ w lvl _ => w != 0#3 && lvl.toNat ≤ 3
  | .ld _ _ _ => true
  | .ldSized _ _ sz _ => sz.toNat ≤ 5
  | .st _ _ _ => true
  | .stSized _ _ sz _ => sz == 1#3 || sz == 3#3 || sz == 5#3
  | .ldv q _ _ => q.toNat ≤ 3
  | .stv q _ _ => 4 ≤ q.toNat
  | .febClr _ _ => true
  | .febSet _ _ => true
  | .waitf _ _ => true
  | .aadd _ _ _ _ ord scope _ => scope.toNat ≤ 5 && (ord != 0#2 || scope == 0#3)
  | .amin _ _ _ _ ord scope _ => scope.toNat ≤ 5 && (ord != 0#2 || scope == 0#3)
  | .amax _ _ _ _ ord scope _ => scope.toNat ≤ 5 && (ord != 0#2 || scope == 0#3)
  | .aminn _ _ _ _ ord scope _ => scope.toNat ≤ 5 && (ord != 0#2 || scope == 0#3)
  | .amaxn _ _ _ _ ord scope _ => scope.toNat ≤ 5 && (ord != 0#2 || scope == 0#3)
  | .aand _ _ _ _ ord scope _ => scope.toNat ≤ 5 && (ord != 0#2 || scope == 0#3)
  | .aor _ _ _ _ ord scope _ => scope.toNat ≤ 5 && (ord != 0#2 || scope == 0#3)
  | .axor _ _ _ _ ord scope _ => scope.toNat ≤ 5 && (ord != 0#2 || scope == 0#3)
  | .aswp _ _ _ _ ord scope _ => scope.toNat ≤ 5 && (ord != 0#2 || scope == 0#3)
  | .acas _ _ _ _ _ ord scope _ => scope.toNat ≤ 5 && (ord != 0#2 || scope == 0#3)
  | .aincb _ _ _ _ ord scope _ => scope.toNat ≤ 5 && (ord != 0#2 || scope == 0#3)
  | .afadd _ _ _ ord scope _ => scope.toNat ≤ 5 && (ord != 0#2 || scope == 0#3)
  | .ldacq _ _ _ scope => scope.toNat ≤ 5
  | .strel _ _ _ scope => scope.toNat ≤ 5
  | .fence kind scope => kind != 3#2 && scope.toNat ≤ 5
  | .cpy _ _ _ => true
  | .cpym _ _ _ => true
  | .cpyw _ => true
  | .cpyq _ _ _ q => q.toNat ≤ 3
  | .cpyc _ _ _ _ => true
  | .qpush _ _ => true
  | .qpop _ _ => true
  | .bqpop _ => true
  | .sems _ => true
  | .semsRemote _ _ => true
  | .semw _ => true
  | .barh _ _ _ => true
  | .barw _ => true
  | .cyc _ => true
  | .csend _ _ => true
  | .crecv _ _ => true
  | .crecvS _ _ _ => true
  | .cpeek _ _ _ => true
  | .cmark => true
  | .cwaitm => true
  | .cclose _ => true
  | .cstat _ _ selx => selx.toNat ≤ 2
  | .cerr _ _ => true
  | .pld _ _ _ _ _ => true
  | .pst _ _ _ _ _ => true
  | .patom _ w _ _ _ e aop ord scope _ => scope.toNat ≤ 5 && (ord != 0#2 || scope == 0#3) && aop.toNat ≤ 11 && (aop == 9#4 || e == 0#5) && (aop != 11#4 || w == 0#1)
  | .drain _ _ => true
  | .xpost _ _ _ => true
  | .xcq _ _ => true
  | .xcqW _ _ => true
  | .xcong _ _ _ => true
  | .tret => true
  | .tretSkip => true
  | .tdec _ _ => true
  | .tdecSkip _ _ => true
  | .tinst _ _ _ _ => true
  | .tbind _ _ _ _ => true
  | .tseal _ => true
  | .recput _ _ _ => true
  | .recseal _ => true
  | .tstat _ _ w => w.toNat ≤ 15
  | .tparm _ _ _ => true
  | .tfree _ => true
  | .vadd _ _ _ ty _ sat => tyIF ty.toNat && (sat == 0#1 || tyI ty.toNat)
  | .vaddS _ _ _ ty _ sat => tyIF ty.toNat && (sat == 0#1 || tyI ty.toNat)
  | .vsub _ _ _ ty _ sat => tyIF ty.toNat && (sat == 0#1 || tyI ty.toNat)
  | .vsubS _ _ _ ty _ sat => tyIF ty.toNat && (sat == 0#1 || tyI ty.toNat)
  | .vmul _ _ _ ty _ => tyIF ty.toNat
  | .vmulS _ _ _ ty _ => tyIF ty.toNat
  | .vfma _ _ _ _ ty _ => tyIF ty.toNat
  | .vfms _ _ _ _ ty _ => tyIF ty.toNat
  | .vmin _ _ _ ty _ => tyIF ty.toNat
  | .vminS _ _ _ ty _ => tyIF ty.toNat
  | .vmax _ _ _ ty _ => tyIF ty.toNat
  | .vmaxS _ _ _ ty _ => tyIF ty.toNat
  | .vabs _ _ ty _ => tyIF ty.toNat
  | .vneg _ _ ty _ => tyIF ty.toNat
  | .vand _ _ _ ty _ => tyW ty.toNat
  | .vandS _ _ _ ty _ => tyW ty.toNat
  | .vor _ _ _ ty _ => tyW ty.toNat
  | .vorS _ _ _ ty _ => tyW ty.toNat
  | .vxor _ _ _ ty _ => tyW ty.toNat
  | .vxorS _ _ _ ty _ => tyW ty.toNat
  | .vshl _ _ _ ty _ => tyI ty.toNat
  | .vshlS _ _ _ ty _ => tyI ty.toNat
  | .vshr _ _ _ ty _ => tyI ty.toNat
  | .vshrS _ _ _ ty _ => tyI ty.toNat
  | .vsar _ _ _ ty _ => tyI ty.toNat
  | .vsarS _ _ _ ty _ => tyI ty.toNat
  | .vcmp kd cc _ _ ty _ => kd != 0#3 && (tyI ty.toNat && cc.toNat ≤ 9 || tyF ty.toNat && cc.toNat ≤ 6)
  | .vcmpS kd cc _ _ ty _ => kd != 0#3 && (tyI ty.toNat && cc.toNat ≤ 9 || tyF ty.toNat && cc.toNat ≤ 6)
  | .vsel _ _ _ ty _ => tyW ty.toNat
  | .vperm _ _ _ ty _ => tyW ty.toNat
  | .vperm2 _ _ _ _ ty _ => tyW ty.toNat
  | .vbcast _ _ ty _ => tyW ty.toNat
  | .vbcastElem _ _ i ty _ => tyW ty.toNat && i.toNat < tyCount ty.toNat
  | .vmov _ _ ty _ => tyW ty.toNat
  | .vli _ _ => true
  | .vext _ _ i ty => tyW ty.toNat && i.toNat < tyCount ty.toNat
  | .vextReg _ _ _ ty => tyW ty.toNat
  | .vins _ _ i ty => tyW ty.toNat && i.toNat < tyCount ty.toNat
  | .vinsReg _ _ _ ty => tyW ty.toNat
  | .vqin _ q => q.toNat ≤ 3
  | .vqout q _ => 4 ≤ q.toNat
  | .vcvt _ _ dst src _ part _ => vcvtOk src.toNat dst.toNat part.toNat
  | .vred _ _ op ty _ => tyIF ty.toNat && op.toNat ≤ 5 && (op.toNat ≤ 2 || tyI ty.toNat)
  | .vscan _ _ op ty _ => tyIF ty.toNat && op.toNat ≤ 5 && (op.toNat ≤ 2 || tyI ty.toNat)
  | .vlut _ _ _ _ _ => true
  | .vsf _ _ fn _ => fn.toNat ≤ 10
  | .vdiv _ _ _ ty _ rm => tyIF ty.toNat && (rm == 0#1 || tyI ty.toNat)
  | .vsqrt _ _ ty _ => tyF ty.toNat
  | .vchain _ _ _ _ => true
  | .vrun qd qa _ _ => 4 ≤ qd.toNat && qa.toNat ≤ 3
  | .vrunVec _ _ _ _ => true
  | .vkop kd _ kb op => kd != 0#3 && op.toNat ≤ 4 && (op != 4#10 || kb == 0#3)
  | .vkmov d a op => vkmovOk d.toNat a.toNat op.toNat
  | .vclip _ _ _ _ ty _ => tyIF ty.toNat
  | .vclipS _ _ _ _ ty _ => tyIF ty.toNat
  | .vscale _ _ _ ty _ => tyF ty.toNat
  | .vscaleS _ _ _ ty _ => tyF ty.toNat
  | .vmaxe _ _ _ => true
  | .vmaxeAcc _ _ _ => true
  | .vqnt _ _ _ _ => true
  | .vqntCls _ _ _ _ => true
  | .vdqnt _ _ _ part ty _ => ty == 6#4 || ty == 4#4 && part == 0#1
  | .vhash _ _ _ ty _ => tyW ty.toNat && ty != 8#4
  | .vsort _ _ _ ty _ => tyW ty.toNat
  | .vsortD _ _ _ ty _ => tyW ty.toNat
  | .vcompr _ _ ty _ => tyW ty.toNat
  | .vexpnd _ _ ty _ => tyW ty.toNat
  | .mldb _ _ _ ty _ => 8 ≤ ty.toNat && ty.toNat ≤ 11
  | .mma _ _ _ _ ty arow n _ _ => 8 ≤ ty.toNat && ty.toNat ≤ 11 && arow.toNat + n.toNat ≤ 127
  | .mzero _ _ _ => true
  | .mscale _ which => which.toNat ≤ 2
  | .mrd _ _ _ _ _ => true
  | .mwr _ _ _ _ _ => true
  | .macp _ _ _ _ _ => true
  | .macpAdd _ _ _ _ _ => true
  | .mwait => true
  | .mwaitE _ => true
  | .mstat _ _ => true
  | .msend _ _ first n => first.toNat + n.toNat ≤ 127
  | .mradd _ _ _ _ _ => true
  | .skinit _ _ b c ty size coin => skinitOk ty.toNat size.toNat coin.toNat b.toNat c.toNat
  | .qsadd _ _ _ _ => true
  | .qsmrg _ _ _ => true
  | .qsqry _ _ _ => true
  | .qsrank _ _ _ _ => true
  | .hhadd _ _ _ ty _ => ty == 4#4 || ty == 5#4
  | .hhmrg _ _ _ => true
  | .hhtop _ _ _ => true
  | .dcadd _ _ _ ty _ => tyW ty.toNat && ty != 8#4
  | .dcmrg _ _ _ => true
  | .dcest _ _ _ => true
  | .skcoin _ _ coin => coin.toNat ≤ 2
  | .skcomp _ _ lvl => lvl.toNat ≤ 31
  | .trsput _ _ _ _ _ => true
  | .trsget _ _ => true
  | .trsgetP _ _ => true
  | .trsstat _ _ lvl => lvl.toNat ≤ 3
  | .trsack _ _ => true
  | .sysrd _ _ => true
  | .syswr _ _ => true
  | .trapret => true
  | .ctxsave _ _ => true
  | .ctxload _ _ _ => true
  | .tlbinv _ _ _ => true
  | .idle => true
  | .blockEntry => true
  | .strandUnblock _ => true
  | .sleepcWake _ => true
  | .cpywWake _ => true
  | .barTimeout _ => true
  | .wireRelease _ _ _ => true
  | .meshColumnArrival _ _ => true
  | .walkerIteration _ _ => true
  | .gatedGroupRelease _ _ => true
  | .scalarReadBufferExpiry _ _ => true
  | .copyRowWrite _ _ => true
  | .copyCompletion _ => true
  | .mldbGranuleRead _ _ => true
  | .mmaRowFire _ _ => true
  | .accumulatorUpdate _ _ => true
  | .chainResult _ _ => true
  | .summaryCompletion _ => true
  | .breakpoint _ _ => true
  | .decrementArrival _ => true
  | .lost _ => true
  | .seal _ => true
  | .dispatchDecision _ => true
  | .starvationReservation _ => true
  | .stagingComplete _ _ => true
  | .writebackDone _ _ => true
  | .taskRetirement _ => true
  | .partialRetirement _ => true
  | .stagingRetry _ _ => true
  | .scresume _ => true
  | .saveForced _ => true
  | .saveDone _ => true
  | .podRequest _ => true
  | .podReply _ _ _ => true
  | .podReplyTimeout _ => true
  | .incarnationAnnouncement _ _ => true
  | .trussPacket _ => true
  | .chunkRedo _ _ => true
  | .uePacket _ _ _ => true
  | .messageCompletion _ _ _ => true
  | .receiveMatchTimeout _ => true
  | .doorbell _ _ => true
  | .headIndexRead _ => true
  | .read _ => true
  | .write _ => true
  | .load _ => true
  | .unload _ => true
  | .launch _ => true
  | .pcreate _ => true
  | .pset _ => true
  | .pend _ => true
  | .gcreate _ => true
  | .gfree _ => true
  | .hset _ => true
  | .pin _ => true
  | .join _ => true
  | .quote _ => true
  | .power _ => true
  | .queueCreate _ => true
  | .queueDestroy _ => true
  | .partialRedispatch _ => true
  | .partialAbandon _ => true
  | .tile _ => true
  | .reservedRequest _ => true
  | .relayedRequest _ _ _ => true
  | .ingressHeader _ _ => true
  | .ingressToken _ _ => true
  | .headerHoldTimeout _ => true
  | .templateAbsent _ => true
  | .ingressTinstTimeout _ => true
  | .moduleReset _ => true
  | .powerCapRaise => true
  | .powerCapLower => true
  | .coldPlateLimit => true
  | .uncorrectableError _ => true
  | .correctedError _ => true
  | .counterWrite _ _ _ => true
  | .pimgkey _ _ => true
  | .ssmemWrite _ _ _ => true
  | .swstart _ _ => true
  | .stop _ => true
  | .resume _ => true
  | .scstep _ _ => true
  | .scdbga _ _ => true
  | .rotate _ => true
  | .retrain _ => true
  | .go _ => true
  | .rtepochWrite _ => true
  | .registerWrite _ _ _ => true
  | .flit _ _ _ => true
  | .flitResend _ _ => true
  | .viaductDown _ => true
  | .replayWindowExceeded _ => true
  | .sampleWindow _ _ _ _ _ => true
  | .wavelengthSwapRequest _ _ _ _ _ => true
  | .quietPoint _ _ => true
  | .lossOfLight _ => true
  | .lightPresent _ => true
  | .linkLocked _ _ _ _ => true
  | .trainingFailed _ => true
  | .drainAck _ => true
  | .tick => true
  | .drainTimeout _ => true
  | .previousKeyExpiry _ => true
  | .enable _ => true
  | .ethernetPortDown _ => true

end Sys2Proof
end

