-- ==== Sys2Proof/Decode.lean ====
section
/-! DEFINITION. Decode.lean: heads and tails (07: R178-R181), the decoder, total on every head and tail, and the encoder written from the same tables. -/

namespace Sys2Proof

/-- The upper `n` bits of a field of `n + m` bits. -/
def hi (n m : Nat) (x : BitVec (n + m)) : BitVec n := x.extractLsb' m n

/-- The lower `m` bits of a field of `n + m` bits. -/
def lo (n m : Nat) (x : BitVec (n + m)) : BitVec m := x.extractLsb' 0 m

theorem hi_append (n m : Nat) (x : BitVec n) (y : BitVec m) : hi n m (x ++ y) = x := by
  simp only [hi]
  apply BitVec.eq_of_getLsbD_eq
  intro i h
  simp [BitVec.getLsbD_append, h]

theorem lo_append (n m : Nat) (x : BitVec n) (y : BitVec m) : lo n m (x ++ y) = y := by
  simp only [lo]
  apply BitVec.eq_of_getLsbD_eq
  intro i h
  simp [BitVec.getLsbD_append, h]

/-- A head and its tail as one little-endian integer, zero above the tail's bytes (07: R178, R179). -/
structure Raw where
  head : BitVec 16
  tail : BitVec 64
  deriving DecidableEq, Repr

/-- Major opcode, head bits [15:8] (07: R179). -/
def Raw.opc (r : Raw) : BitVec 8 := hi 8 8 r.head
/-- Tail length code, head bits [7:6] (07: R179). -/
def Raw.tl (r : Raw) : BitVec 2 := hi 2 6 (lo 8 8 r.head)
/-- The format-dependent field F, head bits [5:0] (07: R179). -/
def Raw.f6 (r : Raw) : BitVec 6 := lo 2 6 (lo 8 8 r.head)
/-- A two-byte tail. -/
def Raw.t16 (r : Raw) : BitVec 16 := lo 48 16 r.tail
/-- A four-byte tail. -/
def Raw.t32 (r : Raw) : BitVec 32 := lo 32 32 r.tail

/-- Tail length in bytes that a TL code gives (07: R179). -/
def tailLen (tl : BitVec 2) : Nat :=
  if tl = 0#2 then 0 else if tl = 1#2 then 2 else if tl = 2#2 then 4 else 8

/-! Fields of the seven formats (07: R180). -/
def Raw.zF (r : Raw) : BitVec 6 := r.f6
def Raw.dMod (r : Raw) : BitVec 1 := hi 1 5 r.f6
def Raw.dN (r : Raw) : BitVec 5 := lo 1 5 r.f6
def Raw.rS (r : Raw) : BitVec 1 := hi 1 5 r.f6
def Raw.rD (r : Raw) : BitVec 5 := lo 1 5 r.f6
def Raw.rM (r : Raw) : BitVec 6 := hi 6 10 r.t16
def Raw.rB (r : Raw) : BitVec 5 := hi 5 5 (lo 6 10 r.t16)
def Raw.rA (r : Raw) : BitVec 5 := lo 5 5 (lo 6 10 r.t16)
def Raw.iS (r : Raw) : BitVec 1 := hi 1 5 r.f6
def Raw.iD (r : Raw) : BitVec 5 := lo 1 5 r.f6
def Raw.iImm (r : Raw) : BitVec 27 := hi 27 5 r.t32
def Raw.iA (r : Raw) : BitVec 5 := lo 27 5 r.t32
def Raw.vS (r : Raw) : BitVec 1 := hi 1 5 r.f6
def Raw.vD (r : Raw) : BitVec 5 := lo 1 5 r.f6
def Raw.vM (r : Raw) : BitVec 10 := hi 10 22 r.t32
def Raw.vT (r : Raw) : BitVec 4 := hi 4 18 (lo 10 22 r.t32)
def Raw.vP (r : Raw) : BitVec 3 := hi 3 15 (lo 4 18 (lo 10 22 r.t32))
def Raw.vC (r : Raw) : BitVec 5 := hi 5 10 (lo 3 15 (lo 4 18 (lo 10 22 r.t32)))
def Raw.vB (r : Raw) : BitVec 5 := hi 5 5 (lo 5 10 (lo 3 15 (lo 4 18 (lo 10 22 r.t32))))
def Raw.vA (r : Raw) : BitVec 5 := lo 5 5 (lo 5 10 (lo 3 15 (lo 4 18 (lo 10 22 r.t32))))
def Raw.lS (r : Raw) : BitVec 1 := hi 1 5 r.f6
def Raw.lD (r : Raw) : BitVec 5 := lo 1 5 r.f6
def Raw.lImm (r : Raw) : BitVec 64 := r.tail
def Raw.xS (r : Raw) : BitVec 1 := hi 1 5 r.f6
def Raw.xD (r : Raw) : BitVec 5 := lo 1 5 r.f6
def Raw.xTail (r : Raw) : BitVec 64 := r.tail

/-- A head from its opcode, tail length code and F (07: R179). -/
def packHead (o : BitVec 8) (tl : BitVec 2) (f : BitVec 6) : BitVec 16 := o ++ (tl ++ f)
def packZ (o : BitVec 8) (f : BitVec 6) : Raw := ⟨packHead o 0#2 f, 0#64⟩
def packD (o : BitVec 8) (m : BitVec 1) (n : BitVec 5) : Raw := ⟨packHead o 0#2 (m ++ n), 0#64⟩
def packR (o : BitVec 8) (s : BitVec 1) (d : BitVec 5) (m : BitVec 6) (b a : BitVec 5) : Raw :=
  ⟨packHead o 1#2 (s ++ d), 0#48 ++ (m ++ (b ++ a) : BitVec 16)⟩
def packI (o : BitVec 8) (s : BitVec 1) (d : BitVec 5) (imm : BitVec 27) (a : BitVec 5) : Raw :=
  ⟨packHead o 2#2 (s ++ d), 0#32 ++ (imm ++ a : BitVec 32)⟩
def packV (o : BitVec 8) (s : BitVec 1) (d : BitVec 5) (m : BitVec 10) (t : BitVec 4) (p : BitVec 3)
    (c b a : BitVec 5) : Raw :=
  ⟨packHead o 2#2 (s ++ d), 0#32 ++ (m ++ (t ++ (p ++ (c ++ (b ++ a)))) : BitVec 32)⟩
def packL (o : BitVec 8) (s : BitVec 1) (d : BitVec 5) (imm : BitVec 64) : Raw := ⟨packHead o 3#2 (s ++ d), imm⟩
def packX (o : BitVec 8) (s : BitVec 1) (d : BitVec 5) (tail : BitVec 64) : Raw := ⟨packHead o 3#2 (s ++ d), tail⟩


/-- Opcodes 0x0_ (07: R188): the instruction a head and tail hold, none where a field breaks R179 or R181. -/
def decode0 (r : Raw) : Option Instr :=
  if r.opc = 0x00#8 then
    if r.tl ≠ 0#2 then none else
    if r.zF = 0#6 then some .nop else
    none
  else
  if r.opc = 0x01#8 then
    if r.tl ≠ 2#2 then none else
    if r.iS = 0#1 ∧ r.iD = 0#5 ∧ r.iA = 0#5 then some (.br r.iImm) else
    if r.iS = 1#1 ∧ r.iD = 0#5 ∧ r.iImm = 0#27 then some (.brReg r.iA) else
    none
  else
  if r.opc = 0x02#8 then
    if r.tl ≠ 2#2 then none else
    if r.iS = 0#1 ∧ r.iD = 0#5 then some (.brz r.iA r.iImm) else
    none
  else
  if r.opc = 0x03#8 then
    if r.tl ≠ 2#2 then none else
    if r.iS = 0#1 ∧ r.iD = 0#5 then some (.brnz r.iA r.iImm) else
    none
  else
  if r.opc = 0x04#8 then
    if r.tl ≠ 2#2 then none else
    if r.iS = 0#1 ∧ r.iD = 0#5 ∧ r.iA = 0#5 then some (.brbq r.iImm) else
    if r.iS = 1#1 ∧ r.iD = 0#5 ∧ r.iA = 0#5 then some (.brbqZ r.iImm) else
    none
  else
  if r.opc = 0x05#8 then
    if r.tl ≠ 2#2 then none else
    if r.iS = 0#1 ∧ r.iA = 0#5 then some (.call r.iD r.iImm) else
    if r.iS = 1#1 ∧ r.iImm = 0#27 then some (.callReg r.iD r.iA) else
    none
  else
  if r.opc = 0x06#8 then
    if r.tl ≠ 0#2 then none else
    if r.dMod = 0#1 then some (.ret r.dN) else
    none
  else
  if r.opc = 0x07#8 then
    if r.tl ≠ 2#2 then none else
    if r.iS = 0#1 ∧ r.iA = 0#5 then some (.loopb r.iD r.iImm) else
    none
  else
  if r.opc = 0x08#8 then
    if r.tl ≠ 0#2 then none else
    if r.dMod = 0#1 then some (.pushbq r.dN) else
    if r.dMod = 1#1 then some (.pushbqNz r.dN) else
    none
  else
  if r.opc = 0x09#8 then
    if r.tl ≠ 0#2 then none else
    if r.zF = 0#6 then some .yield else
    none
  else
  if r.opc = 0x0A#8 then
    if r.tl ≠ 0#2 then none else
    if r.dMod = 0#1 then some (.sleepc r.dN) else
    if r.dMod = 1#1 then some (.sleepcRel r.dN) else
    none
  else
  if r.opc = 0x0B#8 then
    if r.tl ≠ 0#2 then none else
    if True then some (.traps r.zF) else
    none
  else
  if r.opc = 0x0C#8 then
    if r.tl ≠ 0#2 then none else
    if True then some (.brk r.zF) else
    none
  else
  if r.opc = 0x0D#8 then
    if r.tl ≠ 0#2 then none else
    if True then some (.ill r.zF) else
    none
  else
  none

/-- Opcodes 0x1_ (07: R188): the instruction a head and tail hold, none where a field breaks R179 or R181. -/
def decode1 (r : Raw) : Option Instr :=
  if r.opc = 0x10#8 then
    if r.tl ≠ 1#2 then none else
    if r.rS = 0#1 ∧ r.rM = 0#6 then some (.add r.rD r.rA r.rB) else
    none
  else
  if r.opc = 0x11#8 then
    if r.tl ≠ 1#2 then none else
    if r.rS = 0#1 ∧ r.rM = 0#6 then some (.sub r.rD r.rA r.rB) else
    none
  else
  if r.opc = 0x12#8 then
    if r.tl ≠ 1#2 then none else
    if r.rS = 0#1 ∧ r.rM = 0#6 then some (.mul r.rD r.rA r.rB) else
    none
  else
  if r.opc = 0x13#8 then
    if r.tl ≠ 1#2 then none else
    if r.rS = 0#1 ∧ r.rM = 0#6 then some (.mulh r.rD r.rA r.rB) else
    none
  else
  if r.opc = 0x14#8 then
    if r.tl ≠ 1#2 then none else
    if r.rS = 0#1 ∧ r.rM = 0#6 then some (.mulhn r.rD r.rA r.rB) else
    none
  else
  if r.opc = 0x15#8 then
    if r.tl ≠ 1#2 then none else
    if r.rS = 0#1 ∧ r.rM = 0#6 then some (.div r.rD r.rA r.rB) else
    none
  else
  if r.opc = 0x16#8 then
    if r.tl ≠ 1#2 then none else
    if r.rS = 0#1 ∧ r.rM = 0#6 then some (.divn r.rD r.rA r.rB) else
    none
  else
  if r.opc = 0x17#8 then
    if r.tl ≠ 1#2 then none else
    if r.rS = 0#1 ∧ r.rM = 0#6 then some (.rem r.rD r.rA r.rB) else
    none
  else
  if r.opc = 0x18#8 then
    if r.tl ≠ 1#2 then none else
    if r.rS = 0#1 ∧ r.rM = 0#6 then some (.remn r.rD r.rA r.rB) else
    none
  else
  if r.opc = 0x19#8 then
    if r.tl ≠ 1#2 then none else
    if r.rS = 0#1 ∧ r.rM = 0#6 then some (.and r.rD r.rA r.rB) else
    none
  else
  if r.opc = 0x1A#8 then
    if r.tl ≠ 1#2 then none else
    if r.rS = 0#1 ∧ r.rM = 0#6 then some (.or r.rD r.rA r.rB) else
    none
  else
  if r.opc = 0x1B#8 then
    if r.tl ≠ 1#2 then none else
    if r.rS = 0#1 ∧ r.rM = 0#6 then some (.xor r.rD r.rA r.rB) else
    none
  else
  if r.opc = 0x1C#8 then
    if r.tl ≠ 1#2 then none else
    if r.rS = 0#1 ∧ r.rM = 0#6 then some (.andn r.rD r.rA r.rB) else
    none
  else
  if r.opc = 0x1D#8 then
    if r.tl ≠ 1#2 then none else
    if r.rS = 0#1 ∧ r.rM = 0#6 then some (.shl r.rD r.rA r.rB) else
    none
  else
  if r.opc = 0x1E#8 then
    if r.tl ≠ 1#2 then none else
    if r.rS = 0#1 ∧ r.rM = 0#6 then some (.shr r.rD r.rA r.rB) else
    none
  else
  if r.opc = 0x1F#8 then
    if r.tl ≠ 1#2 then none else
    if r.rS = 0#1 ∧ r.rM = 0#6 then some (.sar r.rD r.rA r.rB) else
    none
  else
  none

/-- Opcodes 0x2_ (07: R188): the instruction a head and tail hold, none where a field breaks R179 or R181. -/
def decode2 (r : Raw) : Option Instr :=
  if r.opc = 0x20#8 then
    if r.tl ≠ 1#2 then none else
    if r.rS = 0#1 ∧ r.rM = 0#6 then some (.ror r.rD r.rA r.rB) else
    none
  else
  if r.opc = 0x21#8 then
    if r.tl ≠ 1#2 then none else
    if r.rS = 0#1 ∧ r.rM = 0#6 then some (.min r.rD r.rA r.rB) else
    none
  else
  if r.opc = 0x22#8 then
    if r.tl ≠ 1#2 then none else
    if r.rS = 0#1 ∧ r.rM = 0#6 then some (.max r.rD r.rA r.rB) else
    none
  else
  if r.opc = 0x23#8 then
    if r.tl ≠ 1#2 then none else
    if r.rS = 0#1 ∧ r.rM = 0#6 then some (.minn r.rD r.rA r.rB) else
    none
  else
  if r.opc = 0x24#8 then
    if r.tl ≠ 1#2 then none else
    if r.rS = 0#1 ∧ r.rM = 0#6 then some (.maxn r.rD r.rA r.rB) else
    none
  else
  if r.opc = 0x25#8 then
    if r.tl ≠ 1#2 then none else
    if r.rS = 0#1 then some (.cmp r.rD r.rM r.rA r.rB) else
    none
  else
  if r.opc = 0x26#8 then
    if r.tl ≠ 1#2 then none else
    if r.rS = 0#1 ∧ hi 1 5 r.rM = 0#1 then some (.sel r.rD r.rA r.rB (lo 1 5 r.rM)) else
    none
  else
  if r.opc = 0x27#8 then
    if r.tl ≠ 1#2 then none else
    if r.rS = 0#1 ∧ r.rM = 0#6 ∧ r.rB = 0#5 then some (.clz r.rD r.rA) else
    none
  else
  if r.opc = 0x28#8 then
    if r.tl ≠ 1#2 then none else
    if r.rS = 0#1 ∧ r.rM = 0#6 ∧ r.rB = 0#5 then some (.popc r.rD r.rA) else
    none
  else
  if r.opc = 0x29#8 then
    if r.tl ≠ 2#2 then none else
    if r.iS = 0#1 ∧ hi 14 13 r.iImm = 0#14 then some (.bext r.iD r.iA (lo 7 6 (lo 14 13 r.iImm)) (hi 7 6 (lo 14 13 r.iImm))) else
    if r.iS = 1#1 ∧ hi 14 13 r.iImm = 0#14 then some (.bextS r.iD r.iA (lo 7 6 (lo 14 13 r.iImm)) (hi 7 6 (lo 14 13 r.iImm))) else
    none
  else
  if r.opc = 0x2A#8 then
    if r.tl ≠ 2#2 then none else
    if r.iS = 0#1 ∧ hi 14 13 r.iImm = 0#14 then some (.bins r.iD r.iA (lo 7 6 (lo 14 13 r.iImm)) (hi 7 6 (lo 14 13 r.iImm))) else
    none
  else
  if r.opc = 0x2B#8 then
    if r.tl ≠ 1#2 then none else
    if r.rS = 0#1 ∧ r.rB = 0#5 then some (.exts r.rD r.rA r.rM) else
    none
  else
  if r.opc = 0x2C#8 then
    if r.tl ≠ 2#2 then none else
    if r.iS = 0#1 then some (.addi r.iD r.iA r.iImm) else
    none
  else
  if r.opc = 0x2D#8 then
    if r.tl ≠ 2#2 then none else
    if r.iS = 0#1 then some (.andi r.iD r.iA r.iImm) else
    none
  else
  if r.opc = 0x2E#8 then
    if r.tl ≠ 2#2 then none else
    if r.iS = 0#1 then some (.ori r.iD r.iA r.iImm) else
    none
  else
  if r.opc = 0x2F#8 then
    if r.tl ≠ 2#2 then none else
    if r.iS = 0#1 then some (.xori r.iD r.iA r.iImm) else
    none
  else
  none

/-- Opcodes 0x3_ (07: R188): the instruction a head and tail hold, none where a field breaks R179 or R181. -/
def decode3 (r : Raw) : Option Instr :=
  if r.opc = 0x30#8 then
    if r.tl ≠ 2#2 then none else
    if r.iS = 0#1 ∧ hi 21 6 r.iImm = 0#21 then some (.shli r.iD r.iA (lo 21 6 r.iImm)) else
    none
  else
  if r.opc = 0x31#8 then
    if r.tl ≠ 2#2 then none else
    if r.iS = 0#1 ∧ hi 21 6 r.iImm = 0#21 then some (.shri r.iD r.iA (lo 21 6 r.iImm)) else
    none
  else
  if r.opc = 0x32#8 then
    if r.tl ≠ 2#2 then none else
    if r.iS = 0#1 ∧ hi 21 6 r.iImm = 0#21 then some (.sari r.iD r.iA (lo 21 6 r.iImm)) else
    none
  else
  if r.opc = 0x33#8 then
    if r.tl ≠ 2#2 then none else
    if r.iS = 0#1 then some (.cmpi r.iD (lo 23 4 r.iImm) r.iA (hi 23 4 r.iImm)) else
    none
  else
  if r.opc = 0x34#8 then
    if r.tl ≠ 2#2 then none else
    if r.iS = 0#1 ∧ r.iA = 0#5 then some (.li r.iD r.iImm) else
    none
  else
  if r.opc = 0x35#8 then
    if r.tl ≠ 3#2 then none else
    if r.lS = 0#1 then some (.lil r.lD r.lImm) else
    none
  else
  if r.opc = 0x36#8 then
    if r.tl ≠ 1#2 then none else
    if r.rS = 0#1 ∧ r.rM = 0#6 ∧ r.rB = 0#5 then some (.mov r.rD r.rA) else
    none
  else
  if r.opc = 0x37#8 then
    if r.tl ≠ 1#2 then none else
    if r.rS = 0#1 ∧ r.rM = 0#6 then some (.addsat r.rD r.rA r.rB) else
    if r.rS = 1#1 ∧ r.rM = 0#6 then some (.addsatN r.rD r.rA r.rB) else
    none
  else
  if r.opc = 0x38#8 then
    if r.tl ≠ 1#2 then none else
    if r.rS = 0#1 ∧ hi 1 5 r.rM = 0#1 then some (.madd r.rD r.rA r.rB (lo 1 5 r.rM)) else
    none
  else
  if r.opc = 0x39#8 then
    if r.tl ≠ 2#2 then none else
    if r.iS = 0#1 then some (.lea r.iD r.iA r.iImm) else
    if r.iS = 1#1 ∧ r.iA = 0#5 then some (.leaLabel r.iD r.iImm) else
    none
  else
  none

/-- Opcodes 0x4_ (07: R188): the instruction a head and tail hold, none where a field breaks R179 or R181. -/
def decode4 (r : Raw) : Option Instr :=
  if r.opc = 0x40#8 then
    if r.tl ≠ 1#2 then none else
    if r.rS = 0#1 ∧ r.rM = 0#6 then some (.fadd r.rD r.rA r.rB) else
    none
  else
  if r.opc = 0x41#8 then
    if r.tl ≠ 1#2 then none else
    if r.rS = 0#1 ∧ r.rM = 0#6 then some (.fsub r.rD r.rA r.rB) else
    none
  else
  if r.opc = 0x42#8 then
    if r.tl ≠ 1#2 then none else
    if r.rS = 0#1 ∧ r.rM = 0#6 then some (.fmul r.rD r.rA r.rB) else
    none
  else
  if r.opc = 0x43#8 then
    if r.tl ≠ 1#2 then none else
    if r.rS = 0#1 ∧ hi 1 5 r.rM = 0#1 then some (.ffma r.rD r.rA r.rB (lo 1 5 r.rM)) else
    none
  else
  if r.opc = 0x44#8 then
    if r.tl ≠ 1#2 then none else
    if r.rS = 0#1 ∧ r.rM = 0#6 then some (.fdiv r.rD r.rA r.rB) else
    none
  else
  if r.opc = 0x45#8 then
    if r.tl ≠ 1#2 then none else
    if r.rS = 0#1 ∧ r.rM = 0#6 ∧ r.rB = 0#5 then some (.fsqrt r.rD r.rA) else
    none
  else
  if r.opc = 0x46#8 then
    if r.tl ≠ 1#2 then none else
    if r.rS = 0#1 ∧ r.rM = 0#6 then some (.fmin r.rD r.rA r.rB) else
    none
  else
  if r.opc = 0x47#8 then
    if r.tl ≠ 1#2 then none else
    if r.rS = 0#1 ∧ r.rM = 0#6 then some (.fmax r.rD r.rA r.rB) else
    none
  else
  if r.opc = 0x48#8 then
    if r.tl ≠ 1#2 then none else
    if r.rS = 0#1 then some (.fcmp r.rD r.rM r.rA r.rB) else
    none
  else
  if r.opc = 0x49#8 then
    if r.tl ≠ 1#2 then none else
    if r.rS = 0#1 then some (.fcvt r.rD r.rA r.rB (lo 2 4 r.rM) (hi 2 4 r.rM)) else
    none
  else
  if r.opc = 0x4A#8 then
    if r.tl ≠ 1#2 then none else
    if r.rS = 0#1 ∧ r.rM = 0#6 ∧ r.rB = 0#5 then some (.fclass r.rD r.rA) else
    none
  else
  if r.opc = 0x4B#8 then
    if r.tl ≠ 1#2 then none else
    if r.rS = 0#1 then some (.fsgn r.rD r.rM r.rA r.rB) else
    none
  else
  none

/-- Opcodes 0x5_ (07: R188): the instruction a head and tail hold, none where a field breaks R179 or R181. -/
def decode5 (r : Raw) : Option Instr :=
  if r.opc = 0x50#8 then
    if r.tl ≠ 1#2 then none else
    if r.rS = 0#1 ∧ hi 3 3 r.rM = 0#3 ∧ r.rB = 0#5 then some (.wcfg r.rD (lo 3 3 r.rM) r.rA) else
    none
  else
  if r.opc = 0x51#8 then
    if r.tl ≠ 1#2 then none else
    if r.rS = 0#1 ∧ hi 3 3 r.rM = 0#3 ∧ r.rB = 0#5 ∧ r.rA = 0#5 then some (.wgo r.rD (lo 3 3 r.rM)) else
    none
  else
  if r.opc = 0x52#8 then
    if r.tl ≠ 0#2 then none else
    if hi 3 3 r.zF = 0#3 then some (.whalt (lo 3 3 r.zF)) else
    none
  else
  if r.opc = 0x53#8 then
    if r.tl ≠ 1#2 then none else
    if r.rS = 0#1 ∧ hi 3 3 r.rM = 0#3 ∧ r.rA = 0#5 then some (.wstat r.rD (lo 3 3 r.rM) r.rB) else
    none
  else
  if r.opc = 0x54#8 then
    if r.tl ≠ 1#2 then none else
    if r.rS = 0#1 ∧ hi 3 3 r.rM = 0#3 then some (.widx r.rD (lo 3 3 r.rM) r.rB r.rA) else
    none
  else
  if r.opc = 0x55#8 then
    if r.tl ≠ 2#2 then none else
    if r.iS = 0#1 then some (.ld r.iD r.iA r.iImm) else
    if r.iS = 1#1 then some (.ldSized r.iD r.iA (hi 3 24 r.iImm) (lo 3 24 r.iImm)) else
    none
  else
  if r.opc = 0x56#8 then
    if r.tl ≠ 2#2 then none else
    if r.iS = 0#1 then some (.st r.iD r.iA r.iImm) else
    if r.iS = 1#1 then some (.stSized r.iD r.iA (hi 3 24 r.iImm) (lo 3 24 r.iImm)) else
    none
  else
  if r.opc = 0x57#8 then
    if r.tl ≠ 1#2 then none else
    if r.rS = 0#1 ∧ hi 2 3 r.rD = 0#2 ∧ r.rB = 0#5 then some (.ldv (lo 2 3 r.rD) r.rA r.rM) else
    none
  else
  if r.opc = 0x58#8 then
    if r.tl ≠ 1#2 then none else
    if r.rS = 0#1 ∧ hi 2 3 r.rD = 0#2 ∧ r.rB = 0#5 then some (.stv (lo 2 3 r.rD) r.rA r.rM) else
    none
  else
  if r.opc = 0x59#8 then
    if r.tl ≠ 1#2 then none else
    if r.rS = 0#1 ∧ r.rD = 0#5 ∧ r.rM = 0#6 then some (.febClr r.rA r.rB) else
    if r.rS = 0#1 ∧ r.rD = 0#5 ∧ r.rM = 1#6 then some (.febSet r.rA r.rB) else
    none
  else
  if r.opc = 0x5A#8 then
    if r.tl ≠ 1#2 then none else
    if r.rS = 0#1 ∧ r.rD = 0#5 ∧ r.rM = 0#6 then some (.waitf r.rA r.rB) else
    none
  else
  none

/-- Opcodes 0x6_ (07: R188): the instruction a head and tail hold, none where a field breaks R179 or R181. -/
def decode6 (r : Raw) : Option Instr :=
  if r.opc = 0x60#8 then
    if r.tl ≠ 3#2 then none else
    if hi 20 20 (lo 24 40 r.xTail) = 0#20 ∧ hi 5 10 (lo 2 15 (lo 3 17 (lo 20 20 (lo 24 40 r.xTail)))) = 0#5 then some (.aadd r.xD r.xS (lo 5 5 (lo 5 10 (lo 2 15 (lo 3 17 (lo 20 20 (lo 24 40 r.xTail)))))) (hi 5 5 (lo 5 10 (lo 2 15 (lo 3 17 (lo 20 20 (lo 24 40 r.xTail)))))) (hi 2 15 (lo 3 17 (lo 20 20 (lo 24 40 r.xTail)))) (hi 3 17 (lo 20 20 (lo 24 40 r.xTail))) (hi 24 40 r.xTail)) else
    none
  else
  if r.opc = 0x61#8 then
    if r.tl ≠ 3#2 then none else
    if hi 20 20 (lo 24 40 r.xTail) = 0#20 ∧ hi 5 10 (lo 2 15 (lo 3 17 (lo 20 20 (lo 24 40 r.xTail)))) = 0#5 then some (.amin r.xD r.xS (lo 5 5 (lo 5 10 (lo 2 15 (lo 3 17 (lo 20 20 (lo 24 40 r.xTail)))))) (hi 5 5 (lo 5 10 (lo 2 15 (lo 3 17 (lo 20 20 (lo 24 40 r.xTail)))))) (hi 2 15 (lo 3 17 (lo 20 20 (lo 24 40 r.xTail)))) (hi 3 17 (lo 20 20 (lo 24 40 r.xTail))) (hi 24 40 r.xTail)) else
    none
  else
  if r.opc = 0x62#8 then
    if r.tl ≠ 3#2 then none else
    if hi 20 20 (lo 24 40 r.xTail) = 0#20 ∧ hi 5 10 (lo 2 15 (lo 3 17 (lo 20 20 (lo 24 40 r.xTail)))) = 0#5 then some (.amax r.xD r.xS (lo 5 5 (lo 5 10 (lo 2 15 (lo 3 17 (lo 20 20 (lo 24 40 r.xTail)))))) (hi 5 5 (lo 5 10 (lo 2 15 (lo 3 17 (lo 20 20 (lo 24 40 r.xTail)))))) (hi 2 15 (lo 3 17 (lo 20 20 (lo 24 40 r.xTail)))) (hi 3 17 (lo 20 20 (lo 24 40 r.xTail))) (hi 24 40 r.xTail)) else
    none
  else
  if r.opc = 0x63#8 then
    if r.tl ≠ 3#2 then none else
    if hi 20 20 (lo 24 40 r.xTail) = 0#20 ∧ hi 5 10 (lo 2 15 (lo 3 17 (lo 20 20 (lo 24 40 r.xTail)))) = 0#5 then some (.aminn r.xD r.xS (lo 5 5 (lo 5 10 (lo 2 15 (lo 3 17 (lo 20 20 (lo 24 40 r.xTail)))))) (hi 5 5 (lo 5 10 (lo 2 15 (lo 3 17 (lo 20 20 (lo 24 40 r.xTail)))))) (hi 2 15 (lo 3 17 (lo 20 20 (lo 24 40 r.xTail)))) (hi 3 17 (lo 20 20 (lo 24 40 r.xTail))) (hi 24 40 r.xTail)) else
    none
  else
  if r.opc = 0x64#8 then
    if r.tl ≠ 3#2 then none else
    if hi 20 20 (lo 24 40 r.xTail) = 0#20 ∧ hi 5 10 (lo 2 15 (lo 3 17 (lo 20 20 (lo 24 40 r.xTail)))) = 0#5 then some (.amaxn r.xD r.xS (lo 5 5 (lo 5 10 (lo 2 15 (lo 3 17 (lo 20 20 (lo 24 40 r.xTail)))))) (hi 5 5 (lo 5 10 (lo 2 15 (lo 3 17 (lo 20 20 (lo 24 40 r.xTail)))))) (hi 2 15 (lo 3 17 (lo 20 20 (lo 24 40 r.xTail)))) (hi 3 17 (lo 20 20 (lo 24 40 r.xTail))) (hi 24 40 r.xTail)) else
    none
  else
  if r.opc = 0x65#8 then
    if r.tl ≠ 3#2 then none else
    if hi 20 20 (lo 24 40 r.xTail) = 0#20 ∧ hi 5 10 (lo 2 15 (lo 3 17 (lo 20 20 (lo 24 40 r.xTail)))) = 0#5 then some (.aand r.xD r.xS (lo 5 5 (lo 5 10 (lo 2 15 (lo 3 17 (lo 20 20 (lo 24 40 r.xTail)))))) (hi 5 5 (lo 5 10 (lo 2 15 (lo 3 17 (lo 20 20 (lo 24 40 r.xTail)))))) (hi 2 15 (lo 3 17 (lo 20 20 (lo 24 40 r.xTail)))) (hi 3 17 (lo 20 20 (lo 24 40 r.xTail))) (hi 24 40 r.xTail)) else
    none
  else
  if r.opc = 0x66#8 then
    if r.tl ≠ 3#2 then none else
    if hi 20 20 (lo 24 40 r.xTail) = 0#20 ∧ hi 5 10 (lo 2 15 (lo 3 17 (lo 20 20 (lo 24 40 r.xTail)))) = 0#5 then some (.aor r.xD r.xS (lo 5 5 (lo 5 10 (lo 2 15 (lo 3 17 (lo 20 20 (lo 24 40 r.xTail)))))) (hi 5 5 (lo 5 10 (lo 2 15 (lo 3 17 (lo 20 20 (lo 24 40 r.xTail)))))) (hi 2 15 (lo 3 17 (lo 20 20 (lo 24 40 r.xTail)))) (hi 3 17 (lo 20 20 (lo 24 40 r.xTail))) (hi 24 40 r.xTail)) else
    none
  else
  if r.opc = 0x67#8 then
    if r.tl ≠ 3#2 then none else
    if hi 20 20 (lo 24 40 r.xTail) = 0#20 ∧ hi 5 10 (lo 2 15 (lo 3 17 (lo 20 20 (lo 24 40 r.xTail)))) = 0#5 then some (.axor r.xD r.xS (lo 5 5 (lo 5 10 (lo 2 15 (lo 3 17 (lo 20 20 (lo 24 40 r.xTail)))))) (hi 5 5 (lo 5 10 (lo 2 15 (lo 3 17 (lo 20 20 (lo 24 40 r.xTail)))))) (hi 2 15 (lo 3 17 (lo 20 20 (lo 24 40 r.xTail)))) (hi 3 17 (lo 20 20 (lo 24 40 r.xTail))) (hi 24 40 r.xTail)) else
    none
  else
  if r.opc = 0x68#8 then
    if r.tl ≠ 3#2 then none else
    if hi 20 20 (lo 24 40 r.xTail) = 0#20 ∧ hi 5 10 (lo 2 15 (lo 3 17 (lo 20 20 (lo 24 40 r.xTail)))) = 0#5 then some (.aswp r.xD r.xS (lo 5 5 (lo 5 10 (lo 2 15 (lo 3 17 (lo 20 20 (lo 24 40 r.xTail)))))) (hi 5 5 (lo 5 10 (lo 2 15 (lo 3 17 (lo 20 20 (lo 24 40 r.xTail)))))) (hi 2 15 (lo 3 17 (lo 20 20 (lo 24 40 r.xTail)))) (hi 3 17 (lo 20 20 (lo 24 40 r.xTail))) (hi 24 40 r.xTail)) else
    none
  else
  if r.opc = 0x69#8 then
    if r.tl ≠ 3#2 then none else
    if hi 20 20 (lo 24 40 r.xTail) = 0#20 then some (.acas r.xD r.xS (lo 5 5 (lo 5 10 (lo 2 15 (lo 3 17 (lo 20 20 (lo 24 40 r.xTail)))))) (hi 5 5 (lo 5 10 (lo 2 15 (lo 3 17 (lo 20 20 (lo 24 40 r.xTail)))))) (hi 5 10 (lo 2 15 (lo 3 17 (lo 20 20 (lo 24 40 r.xTail))))) (hi 2 15 (lo 3 17 (lo 20 20 (lo 24 40 r.xTail)))) (hi 3 17 (lo 20 20 (lo 24 40 r.xTail))) (hi 24 40 r.xTail)) else
    none
  else
  if r.opc = 0x6A#8 then
    if r.tl ≠ 3#2 then none else
    if hi 20 20 (lo 24 40 r.xTail) = 0#20 ∧ hi 5 10 (lo 2 15 (lo 3 17 (lo 20 20 (lo 24 40 r.xTail)))) = 0#5 then some (.aincb r.xD r.xS (lo 5 5 (lo 5 10 (lo 2 15 (lo 3 17 (lo 20 20 (lo 24 40 r.xTail)))))) (hi 5 5 (lo 5 10 (lo 2 15 (lo 3 17 (lo 20 20 (lo 24 40 r.xTail)))))) (hi 2 15 (lo 3 17 (lo 20 20 (lo 24 40 r.xTail)))) (hi 3 17 (lo 20 20 (lo 24 40 r.xTail))) (hi 24 40 r.xTail)) else
    none
  else
  if r.opc = 0x6B#8 then
    if r.tl ≠ 3#2 then none else
    if r.xS = 0#1 ∧ hi 20 20 (lo 24 40 r.xTail) = 0#20 ∧ hi 5 10 (lo 2 15 (lo 3 17 (lo 20 20 (lo 24 40 r.xTail)))) = 0#5 then some (.afadd r.xD (lo 5 5 (lo 5 10 (lo 2 15 (lo 3 17 (lo 20 20 (lo 24 40 r.xTail)))))) (hi 5 5 (lo 5 10 (lo 2 15 (lo 3 17 (lo 20 20 (lo 24 40 r.xTail)))))) (hi 2 15 (lo 3 17 (lo 20 20 (lo 24 40 r.xTail)))) (hi 3 17 (lo 20 20 (lo 24 40 r.xTail))) (hi 24 40 r.xTail)) else
    none
  else
  if r.opc = 0x6C#8 then
    if r.tl ≠ 1#2 then none else
    if r.rS = 0#1 ∧ hi 1 5 r.rM = 0#1 ∧ r.rB = 0#5 then some (.ldacq r.rD r.rA (hi 2 3 (lo 1 5 r.rM)) (lo 2 3 (lo 1 5 r.rM))) else
    none
  else
  if r.opc = 0x6D#8 then
    if r.tl ≠ 1#2 then none else
    if r.rS = 0#1 ∧ hi 1 5 r.rM = 0#1 ∧ r.rB = 0#5 then some (.strel r.rD r.rA (hi 2 3 (lo 1 5 r.rM)) (lo 2 3 (lo 1 5 r.rM))) else
    none
  else
  if r.opc = 0x6E#8 then
    if r.tl ≠ 0#2 then none else
    if hi 1 5 r.zF = 0#1 then some (.fence (lo 3 2 (lo 1 5 r.zF)) (hi 3 2 (lo 1 5 r.zF))) else
    none
  else
  none

/-- Opcodes 0x7_ (07: R188): the instruction a head and tail hold, none where a field breaks R179 or R181. -/
def decode7 (r : Raw) : Option Instr :=
  if r.opc = 0x70#8 then
    if r.tl ≠ 3#2 then none else
    if r.xS = 0#1 ∧ hi 20 12 (lo 32 32 r.xTail) = 0#20 ∧ hi 4 8 (lo 20 12 (lo 32 32 r.xTail)) = 0#4 ∧ hi 3 5 (lo 4 8 (lo 20 12 (lo 32 32 r.xTail))) = 0#3 then some (.cpy r.xD (lo 3 5 (lo 4 8 (lo 20 12 (lo 32 32 r.xTail)))) (hi 32 32 r.xTail)) else
    none
  else
  if r.opc = 0x71#8 then
    if r.tl ≠ 3#2 then none else
    if r.xS = 0#1 ∧ hi 20 12 (lo 32 32 r.xTail) = 0#20 ∧ hi 4 8 (lo 20 12 (lo 32 32 r.xTail)) = 0#4 ∧ hi 3 5 (lo 4 8 (lo 20 12 (lo 32 32 r.xTail))) = 0#3 then some (.cpym r.xD (lo 3 5 (lo 4 8 (lo 20 12 (lo 32 32 r.xTail)))) (hi 32 32 r.xTail)) else
    none
  else
  if r.opc = 0x72#8 then
    if r.tl ≠ 0#2 then none else
    if r.dMod = 0#1 then some (.cpyw r.dN) else
    none
  else
  if r.opc = 0x73#8 then
    if r.tl ≠ 3#2 then none else
    if r.xS = 0#1 ∧ hi 20 12 (lo 32 32 r.xTail) = 0#20 ∧ hi 4 8 (lo 20 12 (lo 32 32 r.xTail)) = 0#4 then some (.cpyq r.xD (lo 3 5 (lo 4 8 (lo 20 12 (lo 32 32 r.xTail)))) (hi 32 32 r.xTail) (hi 3 5 (lo 4 8 (lo 20 12 (lo 32 32 r.xTail))))) else
    none
  else
  if r.opc = 0x74#8 then
    if r.tl ≠ 3#2 then none else
    if r.xS = 0#1 ∧ hi 20 12 (lo 32 32 r.xTail) = 0#20 ∧ hi 3 5 (lo 4 8 (lo 20 12 (lo 32 32 r.xTail))) = 0#3 then some (.cpyc r.xD (lo 3 5 (lo 4 8 (lo 20 12 (lo 32 32 r.xTail)))) (hi 32 32 r.xTail) (hi 4 8 (lo 20 12 (lo 32 32 r.xTail)))) else
    none
  else
  if r.opc = 0x75#8 then
    if r.tl ≠ 1#2 then none else
    if r.rS = 0#1 ∧ hi 2 3 r.rD = 0#2 ∧ r.rM = 0#6 ∧ r.rB = 0#5 then some (.qpush (lo 2 3 r.rD) r.rA) else
    none
  else
  if r.opc = 0x76#8 then
    if r.tl ≠ 1#2 then none else
    if r.rS = 0#1 ∧ r.rM = 0#6 ∧ r.rB = 0#5 ∧ hi 2 3 r.rA = 0#2 then some (.qpop r.rD (lo 2 3 r.rA)) else
    none
  else
  if r.opc = 0x77#8 then
    if r.tl ≠ 0#2 then none else
    if r.dMod = 0#1 then some (.bqpop r.dN) else
    none
  else
  if r.opc = 0x78#8 then
    if r.tl ≠ 1#2 then none else
    if r.rS = 0#1 ∧ hi 1 4 r.rD = 0#1 ∧ r.rM = 0#6 ∧ r.rB = 0#5 ∧ r.rA = 0#5 then some (.sems (lo 1 4 r.rD)) else
    if r.rS = 1#1 ∧ hi 1 4 r.rD = 0#1 ∧ r.rM = 0#6 ∧ r.rB = 0#5 then some (.semsRemote (lo 1 4 r.rD) r.rA) else
    none
  else
  if r.opc = 0x79#8 then
    if r.tl ≠ 0#2 then none else
    if hi 2 4 r.zF = 0#2 then some (.semw (lo 2 4 r.zF)) else
    none
  else
  if r.opc = 0x7A#8 then
    if r.tl ≠ 1#2 then none else
    if r.rS = 0#1 ∧ r.rM = 0#6 then some (.barh r.rD r.rA r.rB) else
    none
  else
  if r.opc = 0x7B#8 then
    if r.tl ≠ 1#2 then none else
    if r.rS = 0#1 ∧ r.rD = 0#5 ∧ r.rM = 0#6 ∧ r.rB = 0#5 then some (.barw r.rA) else
    none
  else
  if r.opc = 0x7C#8 then
    if r.tl ≠ 0#2 then none else
    if r.dMod = 0#1 then some (.cyc r.dN) else
    none
  else
  none

/-- Opcodes 0x8_ (07: R188): the instruction a head and tail hold, none where a field breaks R179 or R181. -/
def decode8 (r : Raw) : Option Instr :=
  if r.opc = 0x80#8 then
    if r.tl ≠ 1#2 then none else
    if r.rS = 0#1 ∧ hi 2 3 r.rD = 0#2 ∧ r.rM = 0#6 ∧ r.rB = 0#5 then some (.csend (lo 2 3 r.rD) r.rA) else
    none
  else
  if r.opc = 0x81#8 then
    if r.tl ≠ 1#2 then none else
    if r.rS = 0#1 ∧ r.rM = 0#6 ∧ r.rB = 0#5 ∧ hi 2 3 r.rA = 0#2 then some (.crecv r.rD (lo 2 3 r.rA)) else
    if r.rS = 1#1 ∧ r.rM = 0#6 ∧ hi 2 3 r.rA = 0#2 then some (.crecvS r.rD (lo 2 3 r.rA) r.rB) else
    none
  else
  if r.opc = 0x82#8 then
    if r.tl ≠ 1#2 then none else
    if r.rS = 0#1 ∧ r.rM = 0#6 ∧ hi 2 3 r.rA = 0#2 then some (.cpeek r.rD (lo 2 3 r.rA) r.rB) else
    none
  else
  if r.opc = 0x83#8 then
    if r.tl ≠ 0#2 then none else
    if r.zF = 0#6 then some .cmark else
    none
  else
  if r.opc = 0x84#8 then
    if r.tl ≠ 0#2 then none else
    if r.zF = 0#6 then some .cwaitm else
    none
  else
  if r.opc = 0x85#8 then
    if r.tl ≠ 0#2 then none else
    if hi 3 3 r.zF = 0#3 then some (.cclose (lo 3 3 r.zF)) else
    none
  else
  if r.opc = 0x86#8 then
    if r.tl ≠ 1#2 then none else
    if r.rS = 0#1 ∧ r.rB = 0#5 ∧ hi 2 3 r.rA = 0#2 then some (.cstat r.rD (lo 2 3 r.rA) r.rM) else
    none
  else
  if r.opc = 0x87#8 then
    if r.tl ≠ 1#2 then none else
    if r.rS = 0#1 ∧ r.rM = 0#6 ∧ r.rB = 0#5 ∧ hi 2 3 r.rA = 0#2 then some (.cerr r.rD (lo 2 3 r.rA)) else
    none
  else
  if r.opc = 0x88#8 then
    if r.tl ≠ 3#2 then none else
    if r.xS = 0#1 ∧ hi 9 31 (lo 24 40 r.xTail) = 0#9 ∧ hi 3 28 (lo 9 31 (lo 24 40 r.xTail)) = 0#3 ∧ hi 2 26 (lo 3 28 (lo 9 31 (lo 24 40 r.xTail))) = 0#2 ∧ hi 4 20 (lo 2 24 (lo 2 26 (lo 3 28 (lo 9 31 (lo 24 40 r.xTail))))) = 0#4 ∧ hi 5 15 (lo 4 20 (lo 2 24 (lo 2 26 (lo 3 28 (lo 9 31 (lo 24 40 r.xTail)))))) = 0#5 ∧ hi 5 10 (lo 5 15 (lo 4 20 (lo 2 24 (lo 2 26 (lo 3 28 (lo 9 31 (lo 24 40 r.xTail))))))) = 0#5 then some (.pld r.xD (hi 5 5 (lo 5 10 (lo 5 15 (lo 4 20 (lo 2 24 (lo 2 26 (lo 3 28 (lo 9 31 (lo 24 40 r.xTail))))))))) (lo 5 5 (lo 5 10 (lo 5 15 (lo 4 20 (lo 2 24 (lo 2 26 (lo 3 28 (lo 9 31 (lo 24 40 r.xTail))))))))) (hi 2 24 (lo 2 26 (lo 3 28 (lo 9 31 (lo 24 40 r.xTail))))) (hi 24 40 r.xTail)) else
    none
  else
  if r.opc = 0x89#8 then
    if r.tl ≠ 3#2 then none else
    if r.xS = 0#1 ∧ r.xD = 0#5 ∧ hi 9 31 (lo 24 40 r.xTail) = 0#9 ∧ hi 3 28 (lo 9 31 (lo 24 40 r.xTail)) = 0#3 ∧ hi 2 26 (lo 3 28 (lo 9 31 (lo 24 40 r.xTail))) = 0#2 ∧ hi 4 20 (lo 2 24 (lo 2 26 (lo 3 28 (lo 9 31 (lo 24 40 r.xTail))))) = 0#4 ∧ hi 5 15 (lo 4 20 (lo 2 24 (lo 2 26 (lo 3 28 (lo 9 31 (lo 24 40 r.xTail)))))) = 0#5 then some (.pst (hi 5 5 (lo 5 10 (lo 5 15 (lo 4 20 (lo 2 24 (lo 2 26 (lo 3 28 (lo 9 31 (lo 24 40 r.xTail))))))))) (lo 5 5 (lo 5 10 (lo 5 15 (lo 4 20 (lo 2 24 (lo 2 26 (lo 3 28 (lo 9 31 (lo 24 40 r.xTail))))))))) (hi 5 10 (lo 5 15 (lo 4 20 (lo 2 24 (lo 2 26 (lo 3 28 (lo 9 31 (lo 24 40 r.xTail)))))))) (hi 2 24 (lo 2 26 (lo 3 28 (lo 9 31 (lo 24 40 r.xTail))))) (hi 24 40 r.xTail)) else
    none
  else
  if r.opc = 0x8A#8 then
    if r.tl ≠ 3#2 then none else
    if hi 9 31 (lo 24 40 r.xTail) = 0#9 ∧ hi 2 24 (lo 2 26 (lo 3 28 (lo 9 31 (lo 24 40 r.xTail)))) = 0#2 then some (.patom r.xD r.xS (hi 5 5 (lo 5 10 (lo 5 15 (lo 4 20 (lo 2 24 (lo 2 26 (lo 3 28 (lo 9 31 (lo 24 40 r.xTail))))))))) (lo 5 5 (lo 5 10 (lo 5 15 (lo 4 20 (lo 2 24 (lo 2 26 (lo 3 28 (lo 9 31 (lo 24 40 r.xTail))))))))) (hi 5 10 (lo 5 15 (lo 4 20 (lo 2 24 (lo 2 26 (lo 3 28 (lo 9 31 (lo 24 40 r.xTail)))))))) (hi 5 15 (lo 4 20 (lo 2 24 (lo 2 26 (lo 3 28 (lo 9 31 (lo 24 40 r.xTail))))))) (hi 4 20 (lo 2 24 (lo 2 26 (lo 3 28 (lo 9 31 (lo 24 40 r.xTail)))))) (hi 2 26 (lo 3 28 (lo 9 31 (lo 24 40 r.xTail)))) (hi 3 28 (lo 9 31 (lo 24 40 r.xTail))) (hi 24 40 r.xTail)) else
    none
  else
  if r.opc = 0x8B#8 then
    if r.tl ≠ 1#2 then none else
    if r.rS = 0#1 ∧ r.rM = 0#6 ∧ r.rB = 0#5 then some (.drain r.rD r.rA) else
    none
  else
  if r.opc = 0x8C#8 then
    if r.tl ≠ 3#2 then none else
    if r.xS = 0#1 ∧ hi 27 5 (lo 32 32 r.xTail) = 0#27 then some (.xpost r.xD (lo 27 5 (lo 32 32 r.xTail)) (hi 32 32 r.xTail)) else
    none
  else
  if r.opc = 0x8D#8 then
    if r.tl ≠ 1#2 then none else
    if r.rS = 0#1 ∧ r.rM = 0#6 ∧ r.rB = 0#5 then some (.xcq r.rD r.rA) else
    if r.rS = 1#1 ∧ r.rM = 0#6 ∧ r.rB = 0#5 then some (.xcqW r.rD r.rA) else
    none
  else
  if r.opc = 0x8E#8 then
    if r.tl ≠ 1#2 then none else
    if r.rS = 0#1 ∧ hi 1 5 r.rM = 0#1 ∧ r.rB = 0#5 then some (.xcong r.rD (lo 1 5 r.rM) r.rA) else
    none
  else
  none

/-- Opcodes 0x9_ (07: R188): the instruction a head and tail hold, none where a field breaks R179 or R181. -/
def decode9 (r : Raw) : Option Instr :=
  if r.opc = 0x90#8 then
    if r.tl ≠ 0#2 then none else
    if r.zF = 0#6 then some .tret else
    if r.zF = 1#6 then some .tretSkip else
    none
  else
  if r.opc = 0x91#8 then
    if r.tl ≠ 1#2 then none else
    if r.rS = 0#1 ∧ r.rD = 0#5 ∧ r.rB = 0#5 then some (.tdec r.rA r.rM) else
    if r.rS = 1#1 ∧ r.rD = 0#5 ∧ r.rB = 0#5 then some (.tdecSkip r.rA r.rM) else
    none
  else
  if r.opc = 0x92#8 then
    if r.tl ≠ 1#2 then none else
    if r.rS = 0#1 ∧ hi 1 5 r.rM = 0#1 then some (.tinst r.rD r.rA r.rB (lo 1 5 r.rM)) else
    none
  else
  if r.opc = 0x93#8 then
    if r.tl ≠ 1#2 then none else
    if r.rS = 0#1 ∧ hi 1 5 r.rM = 0#1 then some (.tbind r.rD r.rA r.rB (lo 1 5 r.rM)) else
    none
  else
  if r.opc = 0x94#8 then
    if r.tl ≠ 0#2 then none else
    if r.dMod = 0#1 then some (.tseal r.dN) else
    none
  else
  if r.opc = 0x95#8 then
    if r.tl ≠ 1#2 then none else
    if r.rS = 0#1 ∧ r.rM = 0#6 then some (.recput r.rD r.rA r.rB) else
    none
  else
  if r.opc = 0x96#8 then
    if r.tl ≠ 0#2 then none else
    if r.dMod = 0#1 then some (.recseal r.dN) else
    none
  else
  if r.opc = 0x97#8 then
    if r.tl ≠ 1#2 then none else
    if r.rS = 0#1 ∧ r.rB = 0#5 then some (.tstat r.rD r.rA r.rM) else
    none
  else
  if r.opc = 0x98#8 then
    if r.tl ≠ 1#2 then none else
    if r.rS = 0#1 ∧ r.rM = 0#6 then some (.tparm r.rD r.rA r.rB) else
    none
  else
  if r.opc = 0x99#8 then
    if r.tl ≠ 0#2 then none else
    if r.dMod = 0#1 then some (.tfree r.dN) else
    none
  else
  none

/-- Opcodes 0xA_ (07: R188): the instruction a head and tail hold, none where a field breaks R179 or R181. -/
def decodeA (r : Raw) : Option Instr :=
  if r.opc = 0xA0#8 then
    if r.tl ≠ 2#2 then none else
    if r.vS = 0#1 ∧ hi 9 1 r.vM = 0#9 ∧ r.vC = 0#5 then some (.vadd r.vD r.vA r.vB r.vT r.vP (lo 9 1 r.vM)) else
    if r.vS = 1#1 ∧ hi 9 1 r.vM = 0#9 ∧ r.vC = 0#5 then some (.vaddS r.vD r.vA r.vB r.vT r.vP (lo 9 1 r.vM)) else
    none
  else
  if r.opc = 0xA1#8 then
    if r.tl ≠ 2#2 then none else
    if r.vS = 0#1 ∧ hi 9 1 r.vM = 0#9 ∧ r.vC = 0#5 then some (.vsub r.vD r.vA r.vB r.vT r.vP (lo 9 1 r.vM)) else
    if r.vS = 1#1 ∧ hi 9 1 r.vM = 0#9 ∧ r.vC = 0#5 then some (.vsubS r.vD r.vA r.vB r.vT r.vP (lo 9 1 r.vM)) else
    none
  else
  if r.opc = 0xA2#8 then
    if r.tl ≠ 2#2 then none else
    if r.vS = 0#1 ∧ r.vM = 0#10 ∧ r.vC = 0#5 then some (.vmul r.vD r.vA r.vB r.vT r.vP) else
    if r.vS = 1#1 ∧ r.vM = 0#10 ∧ r.vC = 0#5 then some (.vmulS r.vD r.vA r.vB r.vT r.vP) else
    none
  else
  if r.opc = 0xA3#8 then
    if r.tl ≠ 2#2 then none else
    if r.vS = 0#1 ∧ r.vM = 0#10 then some (.vfma r.vD r.vA r.vB r.vC r.vT r.vP) else
    none
  else
  if r.opc = 0xA4#8 then
    if r.tl ≠ 2#2 then none else
    if r.vS = 0#1 ∧ r.vM = 0#10 then some (.vfms r.vD r.vA r.vB r.vC r.vT r.vP) else
    none
  else
  if r.opc = 0xA5#8 then
    if r.tl ≠ 2#2 then none else
    if r.vS = 0#1 ∧ r.vM = 0#10 ∧ r.vC = 0#5 then some (.vmin r.vD r.vA r.vB r.vT r.vP) else
    if r.vS = 1#1 ∧ r.vM = 0#10 ∧ r.vC = 0#5 then some (.vminS r.vD r.vA r.vB r.vT r.vP) else
    none
  else
  if r.opc = 0xA6#8 then
    if r.tl ≠ 2#2 then none else
    if r.vS = 0#1 ∧ r.vM = 0#10 ∧ r.vC = 0#5 then some (.vmax r.vD r.vA r.vB r.vT r.vP) else
    if r.vS = 1#1 ∧ r.vM = 0#10 ∧ r.vC = 0#5 then some (.vmaxS r.vD r.vA r.vB r.vT r.vP) else
    none
  else
  if r.opc = 0xA7#8 then
    if r.tl ≠ 2#2 then none else
    if r.vS = 0#1 ∧ r.vM = 0#10 ∧ r.vC = 0#5 ∧ r.vB = 0#5 then some (.vabs r.vD r.vA r.vT r.vP) else
    none
  else
  if r.opc = 0xA8#8 then
    if r.tl ≠ 2#2 then none else
    if r.vS = 0#1 ∧ r.vM = 0#10 ∧ r.vC = 0#5 ∧ r.vB = 0#5 then some (.vneg r.vD r.vA r.vT r.vP) else
    none
  else
  if r.opc = 0xA9#8 then
    if r.tl ≠ 2#2 then none else
    if r.vS = 0#1 ∧ r.vM = 0#10 ∧ r.vC = 0#5 then some (.vand r.vD r.vA r.vB r.vT r.vP) else
    if r.vS = 1#1 ∧ r.vM = 0#10 ∧ r.vC = 0#5 then some (.vandS r.vD r.vA r.vB r.vT r.vP) else
    none
  else
  if r.opc = 0xAA#8 then
    if r.tl ≠ 2#2 then none else
    if r.vS = 0#1 ∧ r.vM = 0#10 ∧ r.vC = 0#5 then some (.vor r.vD r.vA r.vB r.vT r.vP) else
    if r.vS = 1#1 ∧ r.vM = 0#10 ∧ r.vC = 0#5 then some (.vorS r.vD r.vA r.vB r.vT r.vP) else
    none
  else
  if r.opc = 0xAB#8 then
    if r.tl ≠ 2#2 then none else
    if r.vS = 0#1 ∧ r.vM = 0#10 ∧ r.vC = 0#5 then some (.vxor r.vD r.vA r.vB r.vT r.vP) else
    if r.vS = 1#1 ∧ r.vM = 0#10 ∧ r.vC = 0#5 then some (.vxorS r.vD r.vA r.vB r.vT r.vP) else
    none
  else
  if r.opc = 0xAC#8 then
    if r.tl ≠ 2#2 then none else
    if r.vS = 0#1 ∧ r.vM = 0#10 ∧ r.vC = 0#5 then some (.vshl r.vD r.vA r.vB r.vT r.vP) else
    if r.vS = 1#1 ∧ r.vM = 0#10 ∧ r.vC = 0#5 then some (.vshlS r.vD r.vA r.vB r.vT r.vP) else
    none
  else
  if r.opc = 0xAD#8 then
    if r.tl ≠ 2#2 then none else
    if r.vS = 0#1 ∧ r.vM = 0#10 ∧ r.vC = 0#5 then some (.vshr r.vD r.vA r.vB r.vT r.vP) else
    if r.vS = 1#1 ∧ r.vM = 0#10 ∧ r.vC = 0#5 then some (.vshrS r.vD r.vA r.vB r.vT r.vP) else
    none
  else
  if r.opc = 0xAE#8 then
    if r.tl ≠ 2#2 then none else
    if r.vS = 0#1 ∧ r.vM = 0#10 ∧ r.vC = 0#5 then some (.vsar r.vD r.vA r.vB r.vT r.vP) else
    if r.vS = 1#1 ∧ r.vM = 0#10 ∧ r.vC = 0#5 then some (.vsarS r.vD r.vA r.vB r.vT r.vP) else
    none
  else
  if r.opc = 0xAF#8 then
    if r.tl ≠ 2#2 then none else
    if r.vS = 0#1 ∧ hi 2 3 r.vD = 0#2 ∧ hi 6 4 r.vM = 0#6 ∧ r.vC = 0#5 then some (.vcmp (lo 2 3 r.vD) (lo 6 4 r.vM) r.vA r.vB r.vT r.vP) else
    if r.vS = 1#1 ∧ hi 2 3 r.vD = 0#2 ∧ hi 6 4 r.vM = 0#6 ∧ r.vC = 0#5 then some (.vcmpS (lo 2 3 r.vD) (lo 6 4 r.vM) r.vA r.vB r.vT r.vP) else
    none
  else
  none

/-- Opcodes 0xB_ (07: R188): the instruction a head and tail hold, none where a field breaks R179 or R181. -/
def decodeB (r : Raw) : Option Instr :=
  if r.opc = 0xB0#8 then
    if r.tl ≠ 2#2 then none else
    if r.vS = 0#1 ∧ r.vM = 0#10 ∧ r.vC = 0#5 then some (.vsel r.vD r.vA r.vB r.vT r.vP) else
    none
  else
  if r.opc = 0xB1#8 then
    if r.tl ≠ 2#2 then none else
    if r.vS = 0#1 ∧ hi 1 9 r.vM = 0#1 ∧ r.vC = 0#5 ∧ r.vB = 0#5 then some (.vcvt r.vD r.vA r.vT (lo 2 4 (lo 3 6 (lo 1 9 r.vM))) (hi 2 4 (lo 3 6 (lo 1 9 r.vM))) (hi 3 6 (lo 1 9 r.vM)) r.vP) else
    none
  else
  if r.opc = 0xB2#8 then
    if r.tl ≠ 2#2 then none else
    if r.vS = 0#1 ∧ r.vC = 0#5 ∧ r.vB = 0#5 then some (.vred r.vD r.vA r.vM r.vT r.vP) else
    none
  else
  if r.opc = 0xB3#8 then
    if r.tl ≠ 2#2 then none else
    if r.vS = 0#1 ∧ r.vC = 0#5 ∧ r.vB = 0#5 then some (.vscan r.vD r.vA r.vM r.vT r.vP) else
    none
  else
  if r.opc = 0xB4#8 then
    if r.tl ≠ 2#2 then none else
    if r.vS = 0#1 ∧ r.vM = 0#10 ∧ r.vC = 0#5 then some (.vperm r.vD r.vA r.vB r.vT r.vP) else
    if r.vS = 1#1 ∧ r.vM = 0#10 then some (.vperm2 r.vD r.vA r.vB r.vC r.vT r.vP) else
    none
  else
  if r.opc = 0xB5#8 then
    if r.tl ≠ 2#2 then none else
    if r.vS = 0#1 ∧ r.vM = 0#10 ∧ r.vC = 0#5 ∧ r.vB = 0#5 then some (.vbcast r.vD r.vA r.vT r.vP) else
    if r.vS = 1#1 ∧ r.vC = 0#5 ∧ r.vB = 0#5 then some (.vbcastElem r.vD r.vA r.vM r.vT r.vP) else
    none
  else
  if r.opc = 0xB6#8 then
    if r.tl ≠ 2#2 then none else
    if r.vS = 0#1 ∧ r.vM = 0#10 ∧ r.vC = 0#5 ∧ r.vB = 0#5 then some (.vmov r.vD r.vA r.vT r.vP) else
    none
  else
  if r.opc = 0xB7#8 then
    if r.tl ≠ 3#2 then none else
    if r.lS = 0#1 then some (.vli r.lD r.lImm) else
    none
  else
  if r.opc = 0xB8#8 then
    if r.tl ≠ 2#2 then none else
    if r.vS = 0#1 ∧ r.vP = 0#3 ∧ r.vC = 0#5 ∧ r.vB = 0#5 then some (.vext r.vD r.vA r.vM r.vT) else
    if r.vS = 1#1 ∧ r.vM = 0#10 ∧ r.vP = 0#3 ∧ r.vC = 0#5 then some (.vextReg r.vD r.vA r.vB r.vT) else
    none
  else
  if r.opc = 0xB9#8 then
    if r.tl ≠ 2#2 then none else
    if r.vS = 0#1 ∧ r.vP = 0#3 ∧ r.vC = 0#5 ∧ r.vB = 0#5 then some (.vins r.vD r.vA r.vM r.vT) else
    if r.vS = 1#1 ∧ r.vM = 0#10 ∧ r.vP = 0#3 ∧ r.vC = 0#5 then some (.vinsReg r.vD r.vA r.vB r.vT) else
    none
  else
  if r.opc = 0xBA#8 then
    if r.tl ≠ 2#2 then none else
    if r.vS = 0#1 ∧ r.vM = 0#10 ∧ r.vT = 0#4 ∧ r.vP = 0#3 ∧ r.vC = 0#5 ∧ r.vB = 0#5 ∧ hi 2 3 r.vA = 0#2 then some (.vqin r.vD (lo 2 3 r.vA)) else
    none
  else
  if r.opc = 0xBB#8 then
    if r.tl ≠ 2#2 then none else
    if r.vS = 0#1 ∧ hi 2 3 r.vD = 0#2 ∧ r.vM = 0#10 ∧ r.vT = 0#4 ∧ r.vP = 0#3 ∧ r.vC = 0#5 ∧ r.vB = 0#5 then some (.vqout (lo 2 3 r.vD) r.vA) else
    none
  else
  if r.opc = 0xBC#8 then
    if r.tl ≠ 2#2 then none else
    if r.vS = 0#1 ∧ hi 6 4 r.vM = 0#6 ∧ r.vT = 12#4 ∧ r.vC = 0#5 ∧ r.vB = 0#5 then some (.vlut r.vD r.vA (hi 2 2 (lo 6 4 r.vM)) (lo 2 2 (lo 6 4 r.vM)) r.vP) else
    none
  else
  if r.opc = 0xBD#8 then
    if r.tl ≠ 2#2 then none else
    if r.vS = 0#1 ∧ r.vT = 12#4 ∧ r.vC = 0#5 ∧ r.vB = 0#5 then some (.vsf r.vD r.vA r.vM r.vP) else
    none
  else
  if r.opc = 0xBE#8 then
    if r.tl ≠ 2#2 then none else
    if r.vS = 0#1 ∧ hi 9 1 r.vM = 0#9 ∧ r.vC = 0#5 then some (.vdiv r.vD r.vA r.vB r.vT r.vP (lo 9 1 r.vM)) else
    none
  else
  if r.opc = 0xBF#8 then
    if r.tl ≠ 2#2 then none else
    if r.vS = 0#1 ∧ r.vM = 0#10 ∧ r.vC = 0#5 ∧ r.vB = 0#5 then some (.vsqrt r.vD r.vA r.vT r.vP) else
    none
  else
  none

/-- Opcodes 0xC_ (07: R188): the instruction a head and tail hold, none where a field breaks R179 or R181. -/
def decodeC (r : Raw) : Option Instr :=
  if r.opc = 0xC0#8 then
    if r.tl ≠ 3#2 then none else
    if r.xS = 0#1 ∧ hi 25 7 (lo 32 32 r.xTail) = 0#25 then some (.vchain r.xD (hi 2 5 (lo 25 7 (lo 32 32 r.xTail))) (lo 2 5 (lo 25 7 (lo 32 32 r.xTail))) (hi 32 32 r.xTail)) else
    none
  else
  if r.opc = 0xC1#8 then
    if r.tl ≠ 2#2 then none else
    if r.vS = 0#1 ∧ hi 2 3 r.vD = 0#2 ∧ hi 8 2 r.vM = 0#8 ∧ r.vT = 12#4 ∧ r.vP = 0#3 ∧ r.vC = 0#5 ∧ hi 2 3 r.vA = 0#2 then some (.vrun (lo 2 3 r.vD) (lo 2 3 r.vA) r.vB (lo 8 2 r.vM)) else
    if r.vS = 1#1 ∧ hi 8 2 r.vM = 0#8 ∧ r.vT = 12#4 ∧ r.vC = 0#5 ∧ r.vB = 0#5 then some (.vrunVec r.vD r.vA (lo 8 2 r.vM) r.vP) else
    none
  else
  if r.opc = 0xC2#8 then
    if r.tl ≠ 2#2 then none else
    if r.vS = 0#1 ∧ hi 2 3 r.vD = 0#2 ∧ r.vT = 0#4 ∧ r.vP = 0#3 ∧ r.vC = 0#5 ∧ hi 2 3 r.vB = 0#2 ∧ hi 2 3 r.vA = 0#2 then some (.vkop (lo 2 3 r.vD) (lo 2 3 r.vA) (lo 2 3 r.vB) r.vM) else
    none
  else
  if r.opc = 0xC3#8 then
    if r.tl ≠ 2#2 then none else
    if r.vS = 0#1 ∧ r.vT = 0#4 ∧ r.vP = 0#3 ∧ r.vC = 0#5 ∧ r.vB = 0#5 then some (.vkmov r.vD r.vA r.vM) else
    none
  else
  if r.opc = 0xC4#8 then
    if r.tl ≠ 2#2 then none else
    if r.vS = 0#1 ∧ r.vM = 0#10 then some (.vclip r.vD r.vA r.vB r.vC r.vT r.vP) else
    if r.vS = 1#1 ∧ r.vM = 0#10 then some (.vclipS r.vD r.vA r.vB r.vC r.vT r.vP) else
    none
  else
  if r.opc = 0xC5#8 then
    if r.tl ≠ 2#2 then none else
    if r.vS = 0#1 ∧ r.vM = 0#10 ∧ r.vC = 0#5 then some (.vscale r.vD r.vA r.vB r.vT r.vP) else
    if r.vS = 1#1 ∧ r.vM = 0#10 ∧ r.vC = 0#5 then some (.vscaleS r.vD r.vA r.vB r.vT r.vP) else
    none
  else
  if r.opc = 0xC6#8 then
    if r.tl ≠ 2#2 then none else
    if r.vS = 0#1 ∧ r.vM = 0#10 ∧ r.vT = 12#4 ∧ r.vC = 0#5 ∧ r.vB = 0#5 then some (.vmaxe r.vD r.vA r.vP) else
    if r.vS = 1#1 ∧ r.vM = 0#10 ∧ r.vT = 12#4 ∧ r.vC = 0#5 ∧ r.vB = 0#5 then some (.vmaxeAcc r.vD r.vA r.vP) else
    none
  else
  if r.opc = 0xC7#8 then
    if r.tl ≠ 2#2 then none else
    if r.vS = 0#1 ∧ r.vM = 0#10 ∧ r.vT = 12#4 ∧ r.vC = 0#5 then some (.vqnt r.vD r.vA r.vB r.vP) else
    if r.vS = 1#1 ∧ r.vM = 0#10 ∧ r.vT = 12#4 ∧ r.vC = 0#5 then some (.vqntCls r.vD r.vA r.vB r.vP) else
    none
  else
  if r.opc = 0xC8#8 then
    if r.tl ≠ 2#2 then none else
    if r.vM = 0#10 ∧ r.vC = 0#5 then some (.vdqnt r.vD r.vA r.vB r.vS r.vT r.vP) else
    none
  else
  if r.opc = 0xC9#8 then
    if r.tl ≠ 2#2 then none else
    if r.vS = 0#1 ∧ r.vM = 0#10 ∧ r.vC = 0#5 then some (.vhash r.vD r.vA r.vB r.vT r.vP) else
    none
  else
  if r.opc = 0xCA#8 then
    if r.tl ≠ 2#2 then none else
    if r.vS = 0#1 ∧ hi 9 1 r.vM = 0#9 ∧ r.vC = 0#5 ∧ r.vB = 0#5 then some (.vsort r.vD r.vA (lo 9 1 r.vM) r.vT r.vP) else
    if r.vS = 1#1 ∧ hi 9 1 r.vM = 0#9 ∧ r.vC = 0#5 ∧ r.vB = 0#5 then some (.vsortD r.vD r.vA (lo 9 1 r.vM) r.vT r.vP) else
    none
  else
  if r.opc = 0xCB#8 then
    if r.tl ≠ 2#2 then none else
    if r.vS = 0#1 ∧ r.vM = 0#10 ∧ r.vC = 0#5 ∧ r.vB = 0#5 then some (.vcompr r.vD r.vA r.vT r.vP) else
    none
  else
  if r.opc = 0xCC#8 then
    if r.tl ≠ 2#2 then none else
    if r.vS = 0#1 ∧ r.vM = 0#10 ∧ r.vC = 0#5 ∧ r.vB = 0#5 then some (.vexpnd r.vD r.vA r.vT r.vP) else
    none
  else
  none

/-- Opcodes 0xD_ (07: R188): the instruction a head and tail hold, none where a field breaks R179 or R181. -/
def decodeD (r : Raw) : Option Instr :=
  if r.opc = 0xD0#8 then
    if r.tl ≠ 3#2 then none else
    if r.xS = 0#1 ∧ hi 22 10 (lo 32 32 r.xTail) = 0#22 then some (.mldb r.xD (hi 1 9 (lo 22 10 (lo 32 32 r.xTail))) (lo 4 5 (lo 1 9 (lo 22 10 (lo 32 32 r.xTail)))) (hi 4 5 (lo 1 9 (lo 22 10 (lo 32 32 r.xTail)))) (hi 32 32 r.xTail)) else
    none
  else
  if r.opc = 0xD1#8 then
    if r.tl ≠ 3#2 then none else
    if r.xS = 0#1 ∧ hi 8 56 r.xTail = 0#8 ∧ hi 1 25 (lo 16 26 (lo 14 42 (lo 8 56 r.xTail))) = 0#1 then some (.mma r.xD (hi 1 10 (lo 7 11 (lo 7 18 (lo 1 25 (lo 16 26 (lo 14 42 (lo 8 56 r.xTail))))))) (hi 1 9 (lo 1 10 (lo 7 11 (lo 7 18 (lo 1 25 (lo 16 26 (lo 14 42 (lo 8 56 r.xTail)))))))) (lo 4 5 (lo 1 9 (lo 1 10 (lo 7 11 (lo 7 18 (lo 1 25 (lo 16 26 (lo 14 42 (lo 8 56 r.xTail))))))))) (hi 4 5 (lo 1 9 (lo 1 10 (lo 7 11 (lo 7 18 (lo 1 25 (lo 16 26 (lo 14 42 (lo 8 56 r.xTail))))))))) (hi 7 11 (lo 7 18 (lo 1 25 (lo 16 26 (lo 14 42 (lo 8 56 r.xTail)))))) (hi 7 18 (lo 1 25 (lo 16 26 (lo 14 42 (lo 8 56 r.xTail))))) (hi 16 26 (lo 14 42 (lo 8 56 r.xTail))) (hi 14 42 (lo 8 56 r.xTail))) else
    none
  else
  if r.opc = 0xD2#8 then
    if r.tl ≠ 1#2 then none else
    if r.rS = 0#1 ∧ hi 4 1 r.rD = 0#4 ∧ r.rM = 0#6 then some (.mzero (lo 4 1 r.rD) r.rA r.rB) else
    none
  else
  if r.opc = 0xD3#8 then
    if r.tl ≠ 1#2 then none else
    if r.rS = 0#1 ∧ r.rD = 0#5 ∧ r.rB = 0#5 then some (.mscale r.rA r.rM) else
    none
  else
  if r.opc = 0xD4#8 then
    if r.tl ≠ 2#2 then none else
    if r.vS = 0#1 ∧ hi 7 3 r.vM = 0#7 ∧ r.vT = 12#4 ∧ r.vC = 0#5 ∧ r.vB = 0#5 then some (.mrd r.vD (lo 2 1 (lo 7 3 r.vM)) r.vA (hi 2 1 (lo 7 3 r.vM)) r.vP) else
    none
  else
  if r.opc = 0xD5#8 then
    if r.tl ≠ 2#2 then none else
    if r.vS = 0#1 ∧ r.vD = 0#5 ∧ hi 7 3 r.vM = 0#7 ∧ r.vT = 12#4 ∧ r.vC = 0#5 then some (.mwr (lo 2 1 (lo 7 3 r.vM)) r.vA (hi 2 1 (lo 7 3 r.vM)) r.vB r.vP) else
    none
  else
  if r.opc = 0xD6#8 then
    if r.tl ≠ 1#2 then none else
    if r.rS = 0#1 ∧ hi 3 2 r.rD = 0#3 then some (.macp (hi 1 1 (lo 3 2 r.rD)) (lo 1 1 (lo 3 2 r.rD)) r.rA r.rB r.rM) else
    if r.rS = 1#1 ∧ hi 3 2 r.rD = 0#3 then some (.macpAdd (hi 1 1 (lo 3 2 r.rD)) (lo 1 1 (lo 3 2 r.rD)) r.rA r.rB r.rM) else
    none
  else
  if r.opc = 0xD7#8 then
    if r.tl ≠ 0#2 then none else
    if r.dMod = 0#1 ∧ r.dN = 0#5 then some .mwait else
    if r.dMod = 1#1 then some (.mwaitE r.dN) else
    none
  else
  if r.opc = 0xD8#8 then
    if r.tl ≠ 1#2 then none else
    if r.rS = 0#1 ∧ r.rM = 0#6 ∧ r.rB = 0#5 then some (.mstat r.rD r.rA) else
    none
  else
  if r.opc = 0xD9#8 then
    if r.tl ≠ 3#2 then none else
    if r.xS = 0#1 ∧ r.xD = 0#5 ∧ hi 46 18 r.xTail = 0#46 then some (.msend (lo 1 3 (lo 7 4 (lo 7 11 (lo 46 18 r.xTail)))) (hi 1 3 (lo 7 4 (lo 7 11 (lo 46 18 r.xTail)))) (hi 7 4 (lo 7 11 (lo 46 18 r.xTail))) (hi 7 11 (lo 46 18 r.xTail))) else
    none
  else
  if r.opc = 0xDA#8 then
    if r.tl ≠ 2#2 then none else
    if r.vS = 0#1 ∧ r.vD = 0#5 ∧ hi 7 3 r.vM = 0#7 ∧ r.vT = 12#4 ∧ r.vC = 0#5 then some (.mradd (lo 2 1 (lo 7 3 r.vM)) r.vA (hi 2 1 (lo 7 3 r.vM)) r.vB r.vP) else
    none
  else
  none

/-- Opcodes 0xE_ (07: R188): the instruction a head and tail hold, none where a field breaks R179 or R181. -/
def decodeE (r : Raw) : Option Instr :=
  if r.opc = 0xE0#8 then
    if r.tl ≠ 3#2 then none else
    if r.xS = 0#1 ∧ hi 43 21 r.xTail = 0#43 then some (.skinit r.xD (lo 5 5 (lo 5 10 (lo 2 15 (lo 2 17 (lo 2 19 (lo 43 21 r.xTail)))))) (hi 5 5 (lo 5 10 (lo 2 15 (lo 2 17 (lo 2 19 (lo 43 21 r.xTail)))))) (hi 5 10 (lo 2 15 (lo 2 17 (lo 2 19 (lo 43 21 r.xTail))))) (hi 2 15 (lo 2 17 (lo 2 19 (lo 43 21 r.xTail)))) (hi 2 17 (lo 2 19 (lo 43 21 r.xTail))) (hi 2 19 (lo 43 21 r.xTail))) else
    none
  else
  if r.opc = 0xE1#8 then
    if r.tl ≠ 2#2 then none else
    if r.vS = 0#1 ∧ r.vM = 0#10 ∧ r.vT = 12#4 ∧ r.vC = 0#5 then some (.qsadd r.vD r.vA r.vB r.vP) else
    none
  else
  if r.opc = 0xE2#8 then
    if r.tl ≠ 1#2 then none else
    if r.rS = 0#1 ∧ r.rM = 0#6 then some (.qsmrg r.rD r.rA r.rB) else
    none
  else
  if r.opc = 0xE3#8 then
    if r.tl ≠ 1#2 then none else
    if r.rS = 0#1 ∧ r.rM = 0#6 then some (.qsqry r.rD r.rA r.rB) else
    none
  else
  if r.opc = 0xE4#8 then
    if r.tl ≠ 1#2 then none else
    if r.rS = 0#1 ∧ hi 1 5 r.rM = 0#1 then some (.qsrank r.rD (lo 1 5 r.rM) r.rA r.rB) else
    none
  else
  if r.opc = 0xE5#8 then
    if r.tl ≠ 2#2 then none else
    if r.vS = 0#1 ∧ r.vM = 0#10 ∧ r.vC = 0#5 then some (.hhadd r.vD r.vA r.vB r.vT r.vP) else
    none
  else
  if r.opc = 0xE6#8 then
    if r.tl ≠ 1#2 then none else
    if r.rS = 0#1 ∧ r.rM = 0#6 then some (.hhmrg r.rD r.rA r.rB) else
    none
  else
  if r.opc = 0xE7#8 then
    if r.tl ≠ 1#2 then none else
    if r.rS = 0#1 ∧ r.rM = 0#6 then some (.hhtop r.rD r.rA r.rB) else
    none
  else
  if r.opc = 0xE8#8 then
    if r.tl ≠ 2#2 then none else
    if r.vS = 0#1 ∧ r.vM = 0#10 ∧ r.vC = 0#5 then some (.dcadd r.vD r.vA r.vB r.vT r.vP) else
    none
  else
  if r.opc = 0xE9#8 then
    if r.tl ≠ 1#2 then none else
    if r.rS = 0#1 ∧ r.rM = 0#6 then some (.dcmrg r.rD r.rA r.rB) else
    none
  else
  if r.opc = 0xEA#8 then
    if r.tl ≠ 1#2 then none else
    if r.rS = 0#1 ∧ hi 1 5 r.rM = 0#1 ∧ r.rB = 0#5 then some (.dcest r.rD (lo 1 5 r.rM) r.rA) else
    none
  else
  if r.opc = 0xEB#8 then
    if r.tl ≠ 1#2 then none else
    if r.rS = 0#1 ∧ r.rB = 0#5 then some (.skcoin r.rD r.rA r.rM) else
    none
  else
  if r.opc = 0xEC#8 then
    if r.tl ≠ 1#2 then none else
    if r.rS = 0#1 ∧ r.rB = 0#5 then some (.skcomp r.rD r.rA r.rM) else
    none
  else
  none

/-- Opcodes 0xF_ (07: R188): the instruction a head and tail hold, none where a field breaks R179 or R181. -/
def decodeF (r : Raw) : Option Instr :=
  if r.opc = 0xF0#8 then
    if r.tl ≠ 3#2 then none else
    if r.xS = 0#1 ∧ hi 39 25 r.xTail = 0#39 then some (.trsput r.xD (hi 10 15 (lo 39 25 r.xTail)) (lo 5 5 (lo 5 10 (lo 10 15 (lo 39 25 r.xTail)))) (hi 5 5 (lo 5 10 (lo 10 15 (lo 39 25 r.xTail)))) (hi 5 10 (lo 10 15 (lo 39 25 r.xTail)))) else
    none
  else
  if r.opc = 0xF1#8 then
    if r.tl ≠ 3#2 then none else
    if r.xS = 0#1 ∧ hi 54 10 r.xTail = 0#54 then some (.trsget r.xD (lo 54 10 r.xTail)) else
    if r.xS = 1#1 ∧ hi 54 10 r.xTail = 0#54 then some (.trsgetP r.xD (lo 54 10 r.xTail)) else
    none
  else
  if r.opc = 0xF2#8 then
    if r.tl ≠ 1#2 then none else
    if r.rS = 0#1 ∧ r.rB = 0#5 then some (.trsstat r.rD r.rA r.rM) else
    none
  else
  if r.opc = 0xF3#8 then
    if r.tl ≠ 1#2 then none else
    if r.rS = 0#1 ∧ r.rM = 0#6 ∧ r.rB = 0#5 then some (.trsack r.rD r.rA) else
    none
  else
  if r.opc = 0xF8#8 then
    if r.tl ≠ 2#2 then none else
    if r.iS = 0#1 ∧ hi 15 12 r.iImm = 0#15 ∧ r.iA = 0#5 then some (.sysrd r.iD (lo 15 12 r.iImm)) else
    none
  else
  if r.opc = 0xF9#8 then
    if r.tl ≠ 2#2 then none else
    if r.iS = 0#1 ∧ r.iD = 0#5 ∧ hi 15 12 r.iImm = 0#15 then some (.syswr r.iA (lo 15 12 r.iImm)) else
    none
  else
  if r.opc = 0xFA#8 then
    if r.tl ≠ 0#2 then none else
    if r.zF = 0#6 then some .trapret else
    none
  else
  if r.opc = 0xFB#8 then
    if r.tl ≠ 1#2 then none else
    if r.rS = 0#1 ∧ r.rM = 0#6 ∧ r.rB = 0#5 then some (.ctxsave r.rD r.rA) else
    none
  else
  if r.opc = 0xFC#8 then
    if r.tl ≠ 1#2 then none else
    if r.rS = 0#1 ∧ r.rM = 0#6 then some (.ctxload r.rD r.rA r.rB) else
    none
  else
  if r.opc = 0xFD#8 then
    if r.tl ≠ 1#2 then none else
    if r.rS = 0#1 ∧ r.rM = 0#6 then some (.tlbinv r.rD r.rA r.rB) else
    none
  else
  if r.opc = 0xFE#8 then
    if r.tl ≠ 0#2 then none else
    if r.zF = 0#6 then some .idle else
    none
  else
  none

/-- The instruction that a head and its tail hold, by the opcode's high digit (07: R188); its field values are not yet
checked against its entry. -/
def Raw.fields (r : Raw) : Option Instr :=
  if hi 4 4 r.opc = 0x0#4 then decode0 r else
  if hi 4 4 r.opc = 0x1#4 then decode1 r else
  if hi 4 4 r.opc = 0x2#4 then decode2 r else
  if hi 4 4 r.opc = 0x3#4 then decode3 r else
  if hi 4 4 r.opc = 0x4#4 then decode4 r else
  if hi 4 4 r.opc = 0x5#4 then decode5 r else
  if hi 4 4 r.opc = 0x6#4 then decode6 r else
  if hi 4 4 r.opc = 0x7#4 then decode7 r else
  if hi 4 4 r.opc = 0x8#4 then decode8 r else
  if hi 4 4 r.opc = 0x9#4 then decode9 r else
  if hi 4 4 r.opc = 0xA#4 then decodeA r else
  if hi 4 4 r.opc = 0xB#4 then decodeB r else
  if hi 4 4 r.opc = 0xC#4 then decodeC r else
  if hi 4 4 r.opc = 0xD#4 then decodeD r else
  if hi 4 4 r.opc = 0xE#4 then decodeE r else
  if hi 4 4 r.opc = 0xF#4 then decodeF r else
  none

/-- A major opcode that the map assigns (07: R188). -/
def opcAssigned (o : BitVec 8) : Bool :=
  let n := o.toNat
  n ≤ 0x0D || 0x10 ≤ n && n ≤ 0x39 || 0x40 ≤ n && n ≤ 0x4B || 0x50 ≤ n && n ≤ 0x5A || 0x60 ≤ n && n ≤ 0x6E ||
  0x70 ≤ n && n ≤ 0x7C || 0x80 ≤ n && n ≤ 0x8E || 0x90 ≤ n && n ≤ 0x99 || 0xA0 ≤ n && n ≤ 0xCC || 0xD0 ≤ n && n ≤ 0xDA ||
  0xE0 ≤ n && n ≤ 0xEC || 0xF0 ≤ n && n ≤ 0xF3 || 0xF8 ≤ n && n ≤ 0xFE

/-- What is wrong with a head by itself (07: R188, R190). -/
inductive DecodeError where
  | illegalOp   -- a reserved opcode or 0xFF
  | illegalForm -- R179, R181 or R182 broken
  deriving DecidableEq, Repr

/-- The decoder: total on every head and tail, rejecting by name (07: R188, R181). -/
def decode (r : Raw) : Except DecodeError Instr :=
  if opcAssigned r.opc then
    match r.fields with
    | some i => if i.wf then .ok i else .error .illegalForm
    | none => .error .illegalForm
  else .error .illegalOp

/-- The decoder's answer without its reason. -/
def decode? (r : Raw) : Option Instr :=
  match decode r with
  | .ok i => some i
  | .error _ => none

/-- The head and tail of an instruction, from its entry's encoding; a module step has none. -/
def encode : Instr → Option Raw
  | .nop => some (packZ 0x00#8 0#6)
  | .br imm => some (packI 0x01#8 0#1 0#5 imm 0#5)
  | .brReg a => some (packI 0x01#8 1#1 0#5 0#27 a)
  | .brz a imm => some (packI 0x02#8 0#1 0#5 imm a)
  | .brnz a imm => some (packI 0x03#8 0#1 0#5 imm a)
  | .brbq imm => some (packI 0x04#8 0#1 0#5 imm 0#5)
  | .brbqZ imm => some (packI 0x04#8 1#1 0#5 imm 0#5)
  | .call d imm => some (packI 0x05#8 0#1 d imm 0#5)
  | .callReg d a => some (packI 0x05#8 1#1 d 0#27 a)
  | .ret n => some (packD 0x06#8 0#1 n)
  | .loopb d imm => some (packI 0x07#8 0#1 d imm 0#5)
  | .pushbq n => some (packD 0x08#8 0#1 n)
  | .pushbqNz n => some (packD 0x08#8 1#1 n)
  | .yield => some (packZ 0x09#8 0#6)
  | .sleepc n => some (packD 0x0A#8 0#1 n)
  | .sleepcRel n => some (packD 0x0A#8 1#1 n)
  | .traps n => some (packZ 0x0B#8 n)
  | .brk n => some (packZ 0x0C#8 n)
  | .ill n => some (packZ 0x0D#8 n)
  | .add d a b => some (packR 0x10#8 0#1 d 0#6 b a)
  | .sub d a b => some (packR 0x11#8 0#1 d 0#6 b a)
  | .mul d a b => some (packR 0x12#8 0#1 d 0#6 b a)
  | .mulh d a b => some (packR 0x13#8 0#1 d 0#6 b a)
  | .mulhn d a b => some (packR 0x14#8 0#1 d 0#6 b a)
  | .div d a b => some (packR 0x15#8 0#1 d 0#6 b a)
  | .divn d a b => some (packR 0x16#8 0#1 d 0#6 b a)
  | .rem d a b => some (packR 0x17#8 0#1 d 0#6 b a)
  | .remn d a b => some (packR 0x18#8 0#1 d 0#6 b a)
  | .and d a b => some (packR 0x19#8 0#1 d 0#6 b a)
  | .or d a b => some (packR 0x1A#8 0#1 d 0#6 b a)
  | .xor d a b => some (packR 0x1B#8 0#1 d 0#6 b a)
  | .andn d a b => some (packR 0x1C#8 0#1 d 0#6 b a)
  | .shl d a b => some (packR 0x1D#8 0#1 d 0#6 b a)
  | .shr d a b => some (packR 0x1E#8 0#1 d 0#6 b a)
  | .sar d a b => some (packR 0x1F#8 0#1 d 0#6 b a)
  | .ror d a b => some (packR 0x20#8 0#1 d 0#6 b a)
  | .min d a b => some (packR 0x21#8 0#1 d 0#6 b a)
  | .max d a b => some (packR 0x22#8 0#1 d 0#6 b a)
  | .minn d a b => some (packR 0x23#8 0#1 d 0#6 b a)
  | .maxn d a b => some (packR 0x24#8 0#1 d 0#6 b a)
  | .cmp d cc a b => some (packR 0x25#8 0#1 d cc b a)
  | .sel d a b c => some (packR 0x26#8 0#1 d (0#1 ++ c) b a)
  | .clz d a => some (packR 0x27#8 0#1 d 0#6 0#5 a)
  | .popc d a => some (packR 0x28#8 0#1 d 0#6 0#5 a)
  | .bext d a lo len => some (packI 0x29#8 0#1 d (0#14 ++ (len ++ lo)) a)
  | .bextS d a lo len => some (packI 0x29#8 1#1 d (0#14 ++ (len ++ lo)) a)
  | .bins d a lo len => some (packI 0x2A#8 0#1 d (0#14 ++ (len ++ lo)) a)
  | .exts d a n => some (packR 0x2B#8 0#1 d n 0#5 a)
  | .addi d a imm => some (packI 0x2C#8 0#1 d imm a)
  | .andi d a imm => some (packI 0x2D#8 0#1 d imm a)
  | .ori d a imm => some (packI 0x2E#8 0#1 d imm a)
  | .xori d a imm => some (packI 0x2F#8 0#1 d imm a)
  | .shli d a n => some (packI 0x30#8 0#1 d (0#21 ++ n) a)
  | .shri d a n => some (packI 0x31#8 0#1 d (0#21 ++ n) a)
  | .sari d a n => some (packI 0x32#8 0#1 d (0#21 ++ n) a)
  | .cmpi d cc a imm => some (packI 0x33#8 0#1 d (imm ++ cc) a)
  | .li d imm => some (packI 0x34#8 0#1 d imm 0#5)
  | .lil d imm => some (packL 0x35#8 0#1 d imm)
  | .mov d a => some (packR 0x36#8 0#1 d 0#6 0#5 a)
  | .addsat d a b => some (packR 0x37#8 0#1 d 0#6 b a)
  | .addsatN d a b => some (packR 0x37#8 1#1 d 0#6 b a)
  | .madd d a b c => some (packR 0x38#8 0#1 d (0#1 ++ c) b a)
  | .lea d a imm => some (packI 0x39#8 0#1 d imm a)
  | .leaLabel d imm => some (packI 0x39#8 1#1 d imm 0#5)
  | .fadd d a b => some (packR 0x40#8 0#1 d 0#6 b a)
  | .fsub d a b => some (packR 0x41#8 0#1 d 0#6 b a)
  | .fmul d a b => some (packR 0x42#8 0#1 d 0#6 b a)
  | .ffma d a b c => some (packR 0x43#8 0#1 d (0#1 ++ c) b a)
  | .fdiv d a b => some (packR 0x44#8 0#1 d 0#6 b a)
  | .fsqrt d a => some (packR 0x45#8 0#1 d 0#6 0#5 a)
  | .fmin d a b => some (packR 0x46#8 0#1 d 0#6 b a)
  | .fmax d a b => some (packR 0x47#8 0#1 d 0#6 b a)
  | .fcmp d cc a b => some (packR 0x48#8 0#1 d cc b a)
  | .fcvt d a src dst mode => some (packR 0x49#8 0#1 d (mode ++ dst) src a)
  | .fclass d a => some (packR 0x4A#8 0#1 d 0#6 0#5 a)
  | .fsgn d op a b => some (packR 0x4B#8 0#1 d op b a)
  | .wcfg d w a => some (packR 0x50#8 0#1 d (0#3 ++ w) 0#5 a)
  | .wgo d w => some (packR 0x51#8 0#1 d (0#3 ++ w) 0#5 0#5)
  | .whalt w => some (packZ 0x52#8 (0#3 ++ w))
  | .wstat d w selx => some (packR 0x53#8 0#1 d (0#3 ++ w) selx 0#5)
  | .widx d w lvl a => some (packR 0x54#8 0#1 d (0#3 ++ w) lvl a)
  | .ld d a imm => some (packI 0x55#8 0#1 d imm a)
  | .ldSized d a sz disp => some (packI 0x55#8 1#1 d (sz ++ disp) a)
  | .st d a imm => some (packI 0x56#8 0#1 d imm a)
  | .stSized d a sz disp => some (packI 0x56#8 1#1 d (sz ++ disp) a)
  | .ldv q a disp => some (packR 0x57#8 0#1 (0#2 ++ q) disp 0#5 a)
  | .stv q a disp => some (packR 0x58#8 0#1 (0#2 ++ q) disp 0#5 a)
  | .febClr a b => some (packR 0x59#8 0#1 0#5 0#6 b a)
  | .febSet a b => some (packR 0x59#8 0#1 0#5 1#6 b a)
  | .waitf a b => some (packR 0x5A#8 0#1 0#5 0#6 b a)
  | .aadd d w a b ord scope disp => some (packX 0x60#8 w d (disp ++ (0#20 ++ (scope ++ (ord ++ (0#5 ++ (b ++ a)))))))
  | .amin d w a b ord scope disp => some (packX 0x61#8 w d (disp ++ (0#20 ++ (scope ++ (ord ++ (0#5 ++ (b ++ a)))))))
  | .amax d w a b ord scope disp => some (packX 0x62#8 w d (disp ++ (0#20 ++ (scope ++ (ord ++ (0#5 ++ (b ++ a)))))))
  | .aminn d w a b ord scope disp => some (packX 0x63#8 w d (disp ++ (0#20 ++ (scope ++ (ord ++ (0#5 ++ (b ++ a)))))))
  | .amaxn d w a b ord scope disp => some (packX 0x64#8 w d (disp ++ (0#20 ++ (scope ++ (ord ++ (0#5 ++ (b ++ a)))))))
  | .aand d w a b ord scope disp => some (packX 0x65#8 w d (disp ++ (0#20 ++ (scope ++ (ord ++ (0#5 ++ (b ++ a)))))))
  | .aor d w a b ord scope disp => some (packX 0x66#8 w d (disp ++ (0#20 ++ (scope ++ (ord ++ (0#5 ++ (b ++ a)))))))
  | .axor d w a b ord scope disp => some (packX 0x67#8 w d (disp ++ (0#20 ++ (scope ++ (ord ++ (0#5 ++ (b ++ a)))))))
  | .aswp d w a b ord scope disp => some (packX 0x68#8 w d (disp ++ (0#20 ++ (scope ++ (ord ++ (0#5 ++ (b ++ a)))))))
  | .acas d w a b c ord scope disp => some (packX 0x69#8 w d (disp ++ (0#20 ++ (scope ++ (ord ++ (c ++ (b ++ a)))))))
  | .aincb d w a b ord scope disp => some (packX 0x6A#8 w d (disp ++ (0#20 ++ (scope ++ (ord ++ (0#5 ++ (b ++ a)))))))
  | .afadd d a b ord scope disp => some (packX 0x6B#8 0#1 d (disp ++ (0#20 ++ (scope ++ (ord ++ (0#5 ++ (b ++ a)))))))
  | .ldacq d a sz scope => some (packR 0x6C#8 0#1 d (0#1 ++ (sz ++ scope)) 0#5 a)
  | .strel d a sz scope => some (packR 0x6D#8 0#1 d (0#1 ++ (sz ++ scope)) 0#5 a)
  | .fence kind scope => some (packZ 0x6E#8 (0#1 ++ (scope ++ kind)))
  | .cpy d a disp => some (packX 0x70#8 0#1 d (disp ++ (0#20 ++ (0#4 ++ (0#3 ++ a)))))
  | .cpym d a disp => some (packX 0x71#8 0#1 d (disp ++ (0#20 ++ (0#4 ++ (0#3 ++ a)))))
  | .cpyw n => some (packD 0x72#8 0#1 n)
  | .cpyq d a disp q => some (packX 0x73#8 0#1 d (disp ++ (0#20 ++ (0#4 ++ (q ++ a)))))
  | .cpyc d a disp h => some (packX 0x74#8 0#1 d (disp ++ (0#20 ++ (h ++ (0#3 ++ a)))))
  | .qpush q a => some (packR 0x75#8 0#1 (0#2 ++ q) 0#6 0#5 a)
  | .qpop d q => some (packR 0x76#8 0#1 d 0#6 0#5 (0#2 ++ q))
  | .bqpop n => some (packD 0x77#8 0#1 n)
  | .sems h => some (packR 0x78#8 0#1 (0#1 ++ h) 0#6 0#5 0#5)
  | .semsRemote h a => some (packR 0x78#8 1#1 (0#1 ++ h) 0#6 0#5 a)
  | .semw h => some (packZ 0x79#8 (0#2 ++ h))
  | .barh d a b => some (packR 0x7A#8 0#1 d 0#6 b a)
  | .barw a => some (packR 0x7B#8 0#1 0#5 0#6 0#5 a)
  | .cyc n => some (packD 0x7C#8 0#1 n)
  | .csend c va => some (packR 0x80#8 0#1 (0#2 ++ c) 0#6 0#5 va)
  | .crecv vd c => some (packR 0x81#8 0#1 vd 0#6 0#5 (0#2 ++ c))
  | .crecvS vd c b => some (packR 0x81#8 1#1 vd 0#6 b (0#2 ++ c))
  | .cpeek vd c b => some (packR 0x82#8 0#1 vd 0#6 b (0#2 ++ c))
  | .cmark => some (packZ 0x83#8 0#6)
  | .cwaitm => some (packZ 0x84#8 0#6)
  | .cclose c => some (packZ 0x85#8 (0#3 ++ c))
  | .cstat d c selx => some (packR 0x86#8 0#1 d selx 0#5 (0#2 ++ c))
  | .cerr d c => some (packR 0x87#8 0#1 d 0#6 0#5 (0#2 ++ c))
  | .pld d b a sz disp => some (packX 0x88#8 0#1 d (disp ++ (0#9 ++ (0#3 ++ (0#2 ++ (sz ++ (0#4 ++ (0#5 ++ (0#5 ++ (b ++ a))))))))))
  | .pst b a c sz disp => some (packX 0x89#8 0#1 0#5 (disp ++ (0#9 ++ (0#3 ++ (0#2 ++ (sz ++ (0#4 ++ (0#5 ++ (c ++ (b ++ a))))))))))
  | .patom d w b a c e aop ord scope disp => some (packX 0x8A#8 w d (disp ++ (0#9 ++ (scope ++ (ord ++ (0#2 ++ (aop ++ (e ++ (c ++ (b ++ a))))))))))
  | .drain d a => some (packR 0x8B#8 0#1 d 0#6 0#5 a)
  | .xpost d a disp => some (packX 0x8C#8 0#1 d (disp ++ (0#27 ++ a)))
  | .xcq d a => some (packR 0x8D#8 0#1 d 0#6 0#5 a)
  | .xcqW d a => some (packR 0x8D#8 1#1 d 0#6 0#5 a)
  | .xcong d c a => some (packR 0x8E#8 0#1 d (0#1 ++ c) 0#5 a)
  | .tret => some (packZ 0x90#8 0#6)
  | .tretSkip => some (packZ 0x90#8 1#6)
  | .tdec a amt => some (packR 0x91#8 0#1 0#5 amt 0#5 a)
  | .tdecSkip a amt => some (packR 0x91#8 1#1 0#5 amt 0#5 a)
  | .tinst d a b c => some (packR 0x92#8 0#1 d (0#1 ++ c) b a)
  | .tbind d a b c => some (packR 0x93#8 0#1 d (0#1 ++ c) b a)
  | .tseal n => some (packD 0x94#8 0#1 n)
  | .recput d a b => some (packR 0x95#8 0#1 d 0#6 b a)
  | .recseal n => some (packD 0x96#8 0#1 n)
  | .tstat d a w => some (packR 0x97#8 0#1 d w 0#5 a)
  | .tparm d a b => some (packR 0x98#8 0#1 d 0#6 b a)
  | .tfree n => some (packD 0x99#8 0#1 n)
  | .vadd vd va vb ty p sat => some (packV 0xA0#8 0#1 vd (0#9 ++ sat) ty p 0#5 vb va)
  | .vaddS vd va gb ty p sat => some (packV 0xA0#8 1#1 vd (0#9 ++ sat) ty p 0#5 gb va)
  | .vsub vd va vb ty p sat => some (packV 0xA1#8 0#1 vd (0#9 ++ sat) ty p 0#5 vb va)
  | .vsubS vd va gb ty p sat => some (packV 0xA1#8 1#1 vd (0#9 ++ sat) ty p 0#5 gb va)
  | .vmul vd va vb ty p => some (packV 0xA2#8 0#1 vd 0#10 ty p 0#5 vb va)
  | .vmulS vd va gb ty p => some (packV 0xA2#8 1#1 vd 0#10 ty p 0#5 gb va)
  | .vfma vd va vb vc ty p => some (packV 0xA3#8 0#1 vd 0#10 ty p vc vb va)
  | .vfms vd va vb vc ty p => some (packV 0xA4#8 0#1 vd 0#10 ty p vc vb va)
  | .vmin vd va vb ty p => some (packV 0xA5#8 0#1 vd 0#10 ty p 0#5 vb va)
  | .vminS vd va gb ty p => some (packV 0xA5#8 1#1 vd 0#10 ty p 0#5 gb va)
  | .vmax vd va vb ty p => some (packV 0xA6#8 0#1 vd 0#10 ty p 0#5 vb va)
  | .vmaxS vd va gb ty p => some (packV 0xA6#8 1#1 vd 0#10 ty p 0#5 gb va)
  | .vabs vd va ty p => some (packV 0xA7#8 0#1 vd 0#10 ty p 0#5 0#5 va)
  | .vneg vd va ty p => some (packV 0xA8#8 0#1 vd 0#10 ty p 0#5 0#5 va)
  | .vand vd va vb ty p => some (packV 0xA9#8 0#1 vd 0#10 ty p 0#5 vb va)
  | .vandS vd va gb ty p => some (packV 0xA9#8 1#1 vd 0#10 ty p 0#5 gb va)
  | .vor vd va vb ty p => some (packV 0xAA#8 0#1 vd 0#10 ty p 0#5 vb va)
  | .vorS vd va gb ty p => some (packV 0xAA#8 1#1 vd 0#10 ty p 0#5 gb va)
  | .vxor vd va vb ty p => some (packV 0xAB#8 0#1 vd 0#10 ty p 0#5 vb va)
  | .vxorS vd va gb ty p => some (packV 0xAB#8 1#1 vd 0#10 ty p 0#5 gb va)
  | .vshl vd va vb ty p => some (packV 0xAC#8 0#1 vd 0#10 ty p 0#5 vb va)
  | .vshlS vd va gb ty p => some (packV 0xAC#8 1#1 vd 0#10 ty p 0#5 gb va)
  | .vshr vd va vb ty p => some (packV 0xAD#8 0#1 vd 0#10 ty p 0#5 vb va)
  | .vshrS vd va gb ty p => some (packV 0xAD#8 1#1 vd 0#10 ty p 0#5 gb va)
  | .vsar vd va vb ty p => some (packV 0xAE#8 0#1 vd 0#10 ty p 0#5 vb va)
  | .vsarS vd va gb ty p => some (packV 0xAE#8 1#1 vd 0#10 ty p 0#5 gb va)
  | .vcmp kd cc va vb ty p => some (packV 0xAF#8 0#1 (0#2 ++ kd) (0#6 ++ cc) ty p 0#5 vb va)
  | .vcmpS kd cc va gb ty p => some (packV 0xAF#8 1#1 (0#2 ++ kd) (0#6 ++ cc) ty p 0#5 gb va)
  | .vsel vd va vb ty p => some (packV 0xB0#8 0#1 vd 0#10 ty p 0#5 vb va)
  | .vperm vd va vb ty p => some (packV 0xB4#8 0#1 vd 0#10 ty p 0#5 vb va)
  | .vperm2 vd va vb vc ty p => some (packV 0xB4#8 1#1 vd 0#10 ty p vc vb va)
  | .vbcast vd ga ty p => some (packV 0xB5#8 0#1 vd 0#10 ty p 0#5 0#5 ga)
  | .vbcastElem vd va i ty p => some (packV 0xB5#8 1#1 vd i ty p 0#5 0#5 va)
  | .vmov vd va ty p => some (packV 0xB6#8 0#1 vd 0#10 ty p 0#5 0#5 va)
  | .vli vd imm => some (packL 0xB7#8 0#1 vd imm)
  | .vext gd va i ty => some (packV 0xB8#8 0#1 gd i ty 0#3 0#5 0#5 va)
  | .vextReg gd va gb ty => some (packV 0xB8#8 1#1 gd 0#10 ty 0#3 0#5 gb va)
  | .vins vd ga i ty => some (packV 0xB9#8 0#1 vd i ty 0#3 0#5 0#5 ga)
  | .vinsReg vd ga gb ty => some (packV 0xB9#8 1#1 vd 0#10 ty 0#3 0#5 gb ga)
  | .vqin vd q => some (packV 0xBA#8 0#1 vd 0#10 0#4 0#3 0#5 0#5 (0#2 ++ q))
  | .vqout q va => some (packV 0xBB#8 0#1 (0#2 ++ q) 0#10 0#4 0#3 0#5 0#5 va)
  | .vcvt vd va dst src mode part p => some (packV 0xB1#8 0#1 vd (0#1 ++ (part ++ (mode ++ src))) dst p 0#5 0#5 va)
  | .vred gd va op ty p => some (packV 0xB2#8 0#1 gd op ty p 0#5 0#5 va)
  | .vscan vd va op ty p => some (packV 0xB3#8 0#1 vd op ty p 0#5 0#5 va)
  | .vlut vd va ch slot p => some (packV 0xBC#8 0#1 vd (0#6 ++ (ch ++ slot)) 12#4 p 0#5 0#5 va)
  | .vsf vd va fn p => some (packV 0xBD#8 0#1 vd fn 12#4 p 0#5 0#5 va)
  | .vdiv vd va vb ty p rm => some (packV 0xBE#8 0#1 vd (0#9 ++ rm) ty p 0#5 vb va)
  | .vsqrt vd va ty p => some (packV 0xBF#8 0#1 vd 0#10 ty p 0#5 0#5 va)
  | .vchain d ch a o => some (packX 0xC0#8 0#1 d (o ++ (0#25 ++ (ch ++ a))))
  | .vrun qd qa gb ch => some (packV 0xC1#8 0#1 (0#2 ++ qd) (0#8 ++ ch) 12#4 0#3 0#5 gb (0#2 ++ qa))
  | .vrunVec vd va ch p => some (packV 0xC1#8 1#1 vd (0#8 ++ ch) 12#4 p 0#5 0#5 va)
  | .vkop kd ka kb op => some (packV 0xC2#8 0#1 (0#2 ++ kd) op 0#4 0#3 0#5 (0#2 ++ kb) (0#2 ++ ka))
  | .vkmov d a op => some (packV 0xC3#8 0#1 d op 0#4 0#3 0#5 0#5 a)
  | .vclip vd va vb vc ty p => some (packV 0xC4#8 0#1 vd 0#10 ty p vc vb va)
  | .vclipS vd va gb gc ty p => some (packV 0xC4#8 1#1 vd 0#10 ty p gc gb va)
  | .vscale vd va vb ty p => some (packV 0xC5#8 0#1 vd 0#10 ty p 0#5 vb va)
  | .vscaleS vd va gb ty p => some (packV 0xC5#8 1#1 vd 0#10 ty p 0#5 gb va)
  | .vmaxe vd va p => some (packV 0xC6#8 0#1 vd 0#10 12#4 p 0#5 0#5 va)
  | .vmaxeAcc vd va p => some (packV 0xC6#8 1#1 vd 0#10 12#4 p 0#5 0#5 va)
  | .vqnt vd va vb p => some (packV 0xC7#8 0#1 vd 0#10 12#4 p 0#5 vb va)
  | .vqntCls vd va vb p => some (packV 0xC7#8 1#1 vd 0#10 12#4 p 0#5 vb va)
  | .vdqnt vd va vb part ty p => some (packV 0xC8#8 part vd 0#10 ty p 0#5 vb va)
  | .vhash vd va gb ty p => some (packV 0xC9#8 0#1 vd 0#10 ty p 0#5 gb va)
  | .vsort vd va idx ty p => some (packV 0xCA#8 0#1 vd (0#9 ++ idx) ty p 0#5 0#5 va)
  | .vsortD vd va idx ty p => some (packV 0xCA#8 1#1 vd (0#9 ++ idx) ty p 0#5 0#5 va)
  | .vcompr vd va ty p => some (packV 0xCB#8 0#1 vd 0#10 ty p 0#5 0#5 va)
  | .vexpnd vd va ty p => some (packV 0xCC#8 0#1 vd 0#10 ty p 0#5 0#5 va)
  | .mldb d pb a ty stride => some (packX 0xD0#8 0#1 d (stride ++ (0#22 ++ (pb ++ (ty ++ a)))))
  | .mma d ab pb a ty arow n astride kblk => some (packX 0xD1#8 0#1 d (0#8 ++ (kblk ++ (astride ++ (0#1 ++ (n ++ (arow ++ (ab ++ (pb ++ (ty ++ a))))))))))
  | .mzero ab a b => some (packR 0xD2#8 0#1 (0#4 ++ ab) 0#6 b a)
  | .mscale va which => some (packR 0xD3#8 0#1 0#5 which 0#5 va)
  | .mrd vd ab ga q p => some (packV 0xD4#8 0#1 vd (0#7 ++ (q ++ ab)) 12#4 p 0#5 0#5 ga)
  | .mwr ab ga q vb p => some (packV 0xD5#8 0#1 0#5 (0#7 ++ (q ++ ab)) 12#4 p 0#5 vb ga)
  | .macp src dst a b n => some (packR 0xD6#8 0#1 (0#3 ++ (src ++ dst)) n b a)
  | .macpAdd src dst a b n => some (packR 0xD6#8 1#1 (0#3 ++ (src ++ dst)) n b a)
  | .mwait => some (packD 0xD7#8 0#1 0#5)
  | .mwaitE n => some (packD 0xD7#8 1#1 n)
  | .mstat d a => some (packR 0xD8#8 0#1 d 0#6 0#5 a)
  | .msend c ab first n => some (packX 0xD9#8 0#1 0#5 (0#46 ++ (n ++ (first ++ (ab ++ c)))))
  | .mradd ab ga q vb p => some (packV 0xDA#8 0#1 0#5 (0#7 ++ (q ++ ab)) 12#4 p 0#5 vb ga)
  | .skinit d a b c ty size coin => some (packX 0xE0#8 0#1 d (0#43 ++ (coin ++ (size ++ (ty ++ (c ++ (b ++ a)))))))
  | .qsadd d ga vb p => some (packV 0xE1#8 0#1 d 0#10 12#4 p 0#5 vb ga)
  | .qsmrg d a b => some (packR 0xE2#8 0#1 d 0#6 b a)
  | .qsqry d a b => some (packR 0xE3#8 0#1 d 0#6 b a)
  | .qsrank d c a b => some (packR 0xE4#8 0#1 d (0#1 ++ c) b a)
  | .hhadd d ga vb ty p => some (packV 0xE5#8 0#1 d 0#10 ty p 0#5 vb ga)
  | .hhmrg d a b => some (packR 0xE6#8 0#1 d 0#6 b a)
  | .hhtop d a b => some (packR 0xE7#8 0#1 d 0#6 b a)
  | .dcadd d ga vb ty p => some (packV 0xE8#8 0#1 d 0#10 ty p 0#5 vb ga)
  | .dcmrg d a b => some (packR 0xE9#8 0#1 d 0#6 b a)
  | .dcest d c a => some (packR 0xEA#8 0#1 d (0#1 ++ c) 0#5 a)
  | .skcoin d a coin => some (packR 0xEB#8 0#1 d coin 0#5 a)
  | .skcomp d a lvl => some (packR 0xEC#8 0#1 d lvl 0#5 a)
  | .trsput d gid a b c => some (packX 0xF0#8 0#1 d (0#39 ++ (gid ++ (c ++ (b ++ a)))))
  | .trsget d gid => some (packX 0xF1#8 0#1 d (0#54 ++ gid))
  | .trsgetP d gid => some (packX 0xF1#8 1#1 d (0#54 ++ gid))
  | .trsstat d a lvl => some (packR 0xF2#8 0#1 d lvl 0#5 a)
  | .trsack d a => some (packR 0xF3#8 0#1 d 0#6 0#5 a)
  | .sysrd d reg => some (packI 0xF8#8 0#1 d (0#15 ++ reg) 0#5)
  | .syswr a reg => some (packI 0xF9#8 0#1 0#5 (0#15 ++ reg) a)
  | .trapret => some (packZ 0xFA#8 0#6)
  | .ctxsave d a => some (packR 0xFB#8 0#1 d 0#6 0#5 a)
  | .ctxload d a b => some (packR 0xFC#8 0#1 d 0#6 b a)
  | .tlbinv d a b => some (packR 0xFD#8 0#1 d 0#6 b a)
  | .idle => some (packZ 0xFE#8 0#6)
  | .blockEntry => none
  | .strandUnblock _ => none
  | .sleepcWake _ => none
  | .cpywWake _ => none
  | .barTimeout _ => none
  | .wireRelease _ _ _ => none
  | .meshColumnArrival _ _ => none
  | .walkerIteration _ _ => none
  | .gatedGroupRelease _ _ => none
  | .scalarReadBufferExpiry _ _ => none
  | .copyRowWrite _ _ => none
  | .copyCompletion _ => none
  | .mldbGranuleRead _ _ => none
  | .mmaRowFire _ _ => none
  | .accumulatorUpdate _ _ => none
  | .chainResult _ _ => none
  | .summaryCompletion _ => none
  | .breakpoint _ _ => none
  | .decrementArrival _ => none
  | .lost _ => none
  | .seal _ => none
  | .dispatchDecision _ => none
  | .starvationReservation _ => none
  | .stagingComplete _ _ => none
  | .writebackDone _ _ => none
  | .taskRetirement _ => none
  | .partialRetirement _ => none
  | .stagingRetry _ _ => none
  | .scresume _ => none
  | .saveForced _ => none
  | .saveDone _ => none
  | .podRequest _ => none
  | .podReply _ _ _ => none
  | .podReplyTimeout _ => none
  | .incarnationAnnouncement _ _ => none
  | .trussPacket _ => none
  | .chunkRedo _ _ => none
  | .uePacket _ _ _ => none
  | .messageCompletion _ _ _ => none
  | .receiveMatchTimeout _ => none
  | .doorbell _ _ => none
  | .headIndexRead _ => none
  | .read _ => none
  | .write _ => none
  | .load _ => none
  | .unload _ => none
  | .launch _ => none
  | .pcreate _ => none
  | .pset _ => none
  | .pend _ => none
  | .gcreate _ => none
  | .gfree _ => none
  | .hset _ => none
  | .pin _ => none
  | .join _ => none
  | .quote _ => none
  | .power _ => none
  | .queueCreate _ => none
  | .queueDestroy _ => none
  | .partialRedispatch _ => none
  | .partialAbandon _ => none
  | .tile _ => none
  | .reservedRequest _ => none
  | .relayedRequest _ _ _ => none
  | .ingressHeader _ _ => none
  | .ingressToken _ _ => none
  | .headerHoldTimeout _ => none
  | .templateAbsent _ => none
  | .ingressTinstTimeout _ => none
  | .moduleReset _ => none
  | .powerCapRaise => none
  | .powerCapLower => none
  | .coldPlateLimit => none
  | .uncorrectableError _ => none
  | .correctedError _ => none
  | .counterWrite _ _ _ => none
  | .pimgkey _ _ => none
  | .ssmemWrite _ _ _ => none
  | .swstart _ _ => none
  | .stop _ => none
  | .resume _ => none
  | .scstep _ _ => none
  | .scdbga _ _ => none
  | .rotate _ => none
  | .retrain _ => none
  | .go _ => none
  | .rtepochWrite _ => none
  | .registerWrite _ _ _ => none
  | .flit _ _ _ => none
  | .flitResend _ _ => none
  | .viaductDown _ => none
  | .replayWindowExceeded _ => none
  | .sampleWindow _ _ _ _ _ => none
  | .wavelengthSwapRequest _ _ _ _ _ => none
  | .quietPoint _ _ => none
  | .lossOfLight _ => none
  | .lightPresent _ => none
  | .linkLocked _ _ _ _ => none
  | .trainingFailed _ => none
  | .drainAck _ => none
  | .tick => none
  | .drainTimeout _ => none
  | .previousKeyExpiry _ => none
  | .enable _ => none
  | .ethernetPortDown _ => none

/-- The instruction read from `w` of `nbits` bits as the opcode table numbers them: the head in the high half-word,
its tail below it; a tail of which the table gives no bits is zero. -/
def rawOfTableWord (nbits w : Nat) : Raw :=
  ⟨BitVec.ofNat 16 (w / 2 ^ (nbits - 16)), BitVec.ofNat 64 (w % 2 ^ (nbits - 16))⟩

/-- The decoder's answer for a word of the opcode table. -/
def decodeTableWord (nbits w : Nat) : Option Instr := decode? (rawOfTableWord nbits w)

/-! Opcode classes of a decoded instruction, for the block checks that follow the field checks (07: R185, R189). -/

/-- A control transfer: a block holds at most one (07: R185). -/
def opcTransfer (o : BitVec 8) : Bool := 1 ≤ o.toNat && o.toNat ≤ 7

/-- Service-core opcodes (07: R189). -/
def opcCore (o : BitVec 8) : Bool := 0xFB ≤ o.toNat && o.toNat ≤ 0xFE

/-- Opcodes that run on the A sequencer only (07: R189). -/
def opcAOnly (o : BitVec 8) : Bool :=
  let n := o.toNat
  0x50 ≤ n && n ≤ 0x5A || 0x60 ≤ n && n ≤ 0x6E || 0x70 ≤ n && n ≤ 0x74 || 0x88 ≤ n && n ≤ 0x8E

/-- Opcodes that run on the E sequencer only (07: R189). -/
def opcEOnly (o : BitVec 8) : Bool :=
  let n := o.toNat
  0x40 ≤ n && n ≤ 0x4B || 0x80 ≤ n && n ≤ 0x82 || 0xA0 ≤ n && n ≤ 0xCC || 0xD0 ≤ n && n ≤ 0xDA ||
  0xE0 ≤ n && n ≤ 0xEC || 0xF0 ≤ n && n ≤ 0xF3


end Sys2Proof
end

