-- ==== Sys2Proof/Machine/State.lean ====
section
/-! DEFINITION. State.lean: everything the spec gives the machine to hold, as plain data, and the state after reset. -/

namespace Sys2Proof.Machine

/-- A finite table: (key, value) pairs, keys rising; a key that is not listed has the reader's default. -/
abbrev Tbl (α : Type) := List (Nat × α)

/-- Why the machine stops. No rule of the spec stops it: a trap, a fault record or an error response is a next state, and every
access has an outcome. So there is no constructor. -/
inductive Fault where
  deriving DecidableEq, Repr

/-- Why a step has no meaning. -/
inductive Refusal where
  /-- An arm of `exec` that has no meaning yet. Safe. -/
  | notModelled (mnemonic : String)
  deriving DecidableEq, Repr

/-! ## Strand state (02: R57) -/

/-- One fetched instruction: its head and tail, the line that holds it and its head index there (07: R178). -/
structure Ins where
  raw  : Raw
  line : Word
  head : Nat
  deriving DecidableEq, Repr

/-- What a blocked instruction waits for (02: R54), with the data that a resumed or saved instruction keeps (18: R382). -/
inductive Wait where
  | sleep (w : Word)              -- SLEEPC until CYCLE reaches w (09: R211)
  | ticket (t w : Word)           -- CPYW with ticket t until CYCLE[55:0] reaches w (10: R244)
  | queueFull (q : Nat)           -- push to a full queue (02: R60)
  | queueEmpty (q : Nat)          -- pop from an empty queue
  | bqFull | bqEmpty              -- branch-outcome queue (02: R61)
  | sem (h : Nat)                 -- SEMW (10: R246)
  | bar (deadline : Option Word)  -- BARW; none when BARTIMEO is 0 (10: R251)
  | fullBits (lo n : Nat)         -- WAITF, granules lo .. lo+n-1 of the tile (10: R235)
  | whalt (w : Nat)               -- WHALT (10: R230)
  | copySlot                      -- all 16 copy slots busy (10: R243)
  | fence                         -- FENCE, DRAIN and releases: accesses not yet performed (03: R102)
  | claim                         -- matrix claim held by another strand (02: R56)
  | claiming (till : Nat)         -- the 128 cycles of a claim, as `prog` (02: R56)
  | table                         -- a ninth in-flight operation, or a panel in use (02: R74, R76)
  | mwait                         -- MWAIT, and MRADD on an owned row: E is held (12: R289, R291)
  | chain (ch : Nat)              -- busy chain (11: R274)
  | stream (ch : BitVec 2) (qd qa : BitVec 3) (gb : BitVec 5) -- a VRUN stream in progress (11: R275)
  | summary (named : List (Nat × Nat)) -- the ranges a summary instruction names; one is still being written (05: R157)
  | chan (c tok : Nat) (offer : Option Nat) (imb : Option Word)
    -- channel end c full or empty, or (offer) its zero-slot token number not yet taken (13: R308); tokens MSEND has sent;
    -- a rate trap to take when the instruction is done (20: R413)
  | accRow (tok : Nat)            -- MSEND: the accumulator row of its next token is not written (12: R290)
  | wave (tok : Nat) (imb : Option Word) -- ConsumeWave: not aligned, or no room for a marker (13: R314)
  | waveOut (tok : Nat) (imb : Option Word) -- the wave has passed; a marker of it has no room yet (13: R308)
  | podReply (id : Nat)           -- PLD, PATOM (06: R170)
  | drain (deadline : Word)       -- DRAIN (13: R321)
  | xcq                           -- XCQ.W (13: R323)
  | coll                          -- collectives (12: R305, R306)
  | trget (gid : Nat)             -- TRSGET (12: R305)
  | idle                          -- IDLE (13: R335)
  | tret (stage : Nat)            -- TRET: 0 walkers, 1 in-flight entries (02: R62, 13: R326)
  | tlbinv                        -- TLBINV (13: R335)
  | recput (rec : Option (List Byte)) -- RECPUT: the tile record as read at issue, none where its address is refused (13: R330)
  | seal (inst : BitVec 32)       -- TSEAL: seals not yet applied (01: R17)
  | saved (w : Word)              -- restored: the wake cycle, ticket or token count of its image (18: R386)
  deriving DecidableEq, Repr

/-- One sequencer of a strand (02: R54, R57, R82; 09: R207, R213; 13: R333). A service core has one (17: R353). -/
structure Seq where
  g        : Vector Word 32       -- g0 is never read nor written
  res      : Vector (BitVec 4) 32 -- residue bits, value modulo 15 (02: R59)
  pc       : Word                 -- BlockStart, bits [5:0] zero (07: R183)
  fetched  : Bool                 -- the block below has passed its checks (07: R184)
  block    : List Ins
  next     : Word                 -- NextLine
  idx      : Nat                  -- Idx
  pending  : Option Word          -- Pending (09: R207)
  wait     : Option Wait          -- the instruction at idx is blocked
  woken    : Bool                 -- its condition holds; it may issue again
  waitAt   : Word                 -- cycle in which it blocked (20: R420)
  exited   : Bool                 -- TRET executed (02: R62)
  back     : Bool                 -- the block that is due is the one that TRAPRET returns to (13: R334)
  trapVec  : Word
  tcause   : Word                 -- [7:0] cause, [8] in handler
  targ     : Word
  trline   : Word
  tridx    : Word
  trpend   : Word
  tscr0    : Word
  tscr1    : Word
  deriving DecidableEq, Repr

/-- A queue entry: 128 bytes and an error bit (02: R60); a ticket that `CPYQ` pushed acquires when it is popped (10: R242). -/
structure QEntry where
  v   : VWord
  err : Bool
  acq : Bool
  deriving DecidableEq, Repr

/-- Ordering kind of an access (03: R94). -/
inductive Ord3 where
  | release | strict | loose
  deriving DecidableEq, Repr

/-- A contiguous run of bytes an access touches: place, length, kind, and the key slot of its leaf. -/
structure Part where
  key  : Nat
  len  : Nat
  ord  : Ord3
  slot : Option (BitVec 12)       -- none for scratchpad
  deriving DecidableEq, Repr

inductive WState where
  | idle | configured | running | faulted | halted | done
  deriving DecidableEq, Repr

/-- A row in a gate buffer (02: R68): its address, its bytes, whether it is the last of its group, and its iteration. -/
structure GateRow where
  addr : Word
  v    : VWord
  last : Bool
  cnt  : Vector (BitVec 32) 4
  deriving DecidableEq, Repr

/-- A walker w0-w7 (02: R63-R71). -/
structure Walker where
  desc : BitVec 512
  st   : WState
  cnt  : Vector (BitVec 32) 4     -- next iteration; for an indexed walker cnt[0] counts the indices taken
  gate : List GateRow             -- gate buffer, oldest first (02: R68)
  go   : Nat                      -- rows of a committed group still to be written
  req  : Option Word              -- since when the oldest group is complete and wants its bit (02: R68)
  fin  : Bool                     -- every iteration is done; gated groups remain
  buf  : List QEntry              -- entries of the current row on their way (02: R66)
  addr : Word                     -- address of that row
  rd   : List Part                -- a load row that has issued and is still to be read (03: R96, R99)
  mid  : Bool                     -- a row is under way
  bad  : Bool                     -- that row is an error token (02: R67)
  offer : Option Nat              -- its token offered on a zero-slot channel
  stop : Bool                     -- WHALT asks it to stop between iterations (10: R230)
  brk  : Bool                     -- FAULTED by a breakpoint (20: R423)
  deriving DecidableEq, Repr

/-- A lookup table of a chain slot (02: R80). -/
structure LTable where
  lo  : BitVec 32
  hi  : BitVec 32
  ent : List (BitVec 32 × BitVec 32) -- slope, intercept; 256 entries
  deriving DecidableEq, Repr

/-- A strand's configuration of one vector chain (11: R271-R274). -/
structure Chain where
  stages : Vector Word 6
  tables : Vector (Option LTable) 4
  deriving DecidableEq, Repr

/-- One of the 16 copy slots of a strand (10: R243). -/
structure CpSlot where
  gen  : BitVec 4
  prom : BitVec 56
  copy : Option Nat               -- the copy that holds the slot
  deriving DecidableEq, Repr

/-- One end of a channel (13: R308-R318; 20: R419). -/
structure ChEnd where
  dir     : BitVec 2              -- 0 unbound, 1 send, 2 receive
  chan    : Nat                   -- the channel, a key of State.chans
  slots   : BitVec 8
  mperiod : BitVec 32
  ratio   : BitVec 16
  closed  : Bool                  -- send end closed
  sent    : Nat                   -- data tokens since strand start, for periodic emission (13: R315)
  tail    : Nat                   -- strand end: 0 nothing sent, 1 error token sent, 2 end token sent
  span    : BitVec 32             -- data tokens moved in the current span
  total   : BitVec 32             -- since strand start, saturating
  marks   : BitVec 32
  errs    : BitVec 32             -- error-marked data tokens received
  reason  : BitVec 8
  cFull   : BitVec 49             -- counters of 20: R417, R419
  cEmpty  : BitVec 49
  cMove   : BitVec 49
  moved   : Bool                  -- a token passed the end in this cycle
  deriving DecidableEq, Repr

/-- What a context image and a snapshot hold of a strand (18: R385; 20: R408). -/
structure StrandCore where
  a       : Seq
  e       : Seq
  v       : Vector VWord 32
  k       : Vector (BitVec 128) 8 -- k0 is never read
  w       : Vector Walker 8
  q       : Vector (List QEntry) 8 -- oldest first
  bqAE    : List Bool
  bqEA    : List Bool
  h       : Vector (BitVec 16) 16
  etc     : BitVec 32
  spanno  : BitVec 32
  c       : Vector ChEnd 8
  chains  : Vector Chain 4
  cps     : Vector CpSlot 16
  heldRst : Option Word           -- held PEER_RESET and its first failing address (06: R172)
  heldUnr : Option Word           -- held PEER_UNREACHABLE
  deriving DecidableEq, Repr

/-- Where the value of a load goes: a register of A, extended by sign or with zeros, or a queue. -/
inductive LoadTo where
  | reg (d : BitVec 5) (signed : Bool)
  | queue (q : BitVec 3)
  deriving DecidableEq, Repr

/-- A load issued and not yet performed (03: R96; 10: R233). -/
structure PLoad where
  dst   : LoadTo
  va    : Word
  parts : List Part
  deriving DecidableEq, Repr

/-- A store issued and not yet performed (03: R95-R97, R99), or held for its span (20: R409). -/
structure PStore where
  cells : List (Nat × Byte)
  ord   : Ord3
  span  : BitVec 32
  held  : Bool
  clears : List Nat               -- poisoned lines that the store writes whole (20: R403)
  deriving DecidableEq, Repr

/-! ## What accesses know of each other (03: R98-R112) -/

/-- An agent whose reads and writes are ordered: a strand by its slot (a service core is strand 4096+n), a copy, the truss network; the
retirement of a record, which releases what its strands and copies did; an agent that is no more. -/
inductive Party where
  | strand (sid : Nat)
  | copy (id : Nat)
  | truss
  | task (rk : Nat)
  | past
  deriving DecidableEq, Repr

/-- An agent and where it counts as being (03: R98): its tile, its invocation and its die, where it has them. -/
structure Who where
  party : Party
  tile  : Option Nat
  inv   : Option (Nat × Nat)
  die   : Option Nat
  deriving DecidableEq, Repr

/-- A release that covers a write (03: R100): by whom, at which scope, and whether `LOOSE` accesses are covered. -/
structure Rel where
  who   : Who
  scope : Nat
  all   : Bool
  deriving DecidableEq, Repr

/-- A write to one single-copy atomic unit on its way to its home slice or scratchpad, with the bytes it replaces there: an agent that the
write does not happen before reads them until it is performed (03: R101, R112; log 16). -/
structure OldVal where
  cells  : List (Nat × Byte)      -- what the unit held before
  loose  : Bool                   -- the write was a `LOOSE` access
  who    : Who                    -- the writer
  known  : List Party             -- agents that no longer may read the old bytes
  strong : List Party             -- of them, those that no longer may by a `LOOSE` load either
  rels   : List Rel
  deriving DecidableEq, Repr

/-- Why a strand is parked, for its resume (18: R381; 20: R422-R424). -/
inductive Park where
  | none
  | w0                            -- a w0 fault: the instruction executes again
  | trap (cause : BitVec 8)       -- TakeTrap redirected (13: R334)
  | debug                         -- stop or breakpoint
  | brk                           -- routed BRK
  deriving DecidableEq, Repr

/-- State of an in-flight table entry (02: R76, 12: R292). -/
inductive FState where
  | free | wait | firing | done
  deriving DecidableEq, Repr

/-- An entry of the in-flight table: one MMA or MLDB (02: R75, R76; 12: R281-R285). -/
structure FEntry where
  st     : FState
  sid    : Nat
  isMma  : Bool
  pb     : BitVec 1
  ab     : BitVec 1
  arow   : Nat
  rows   : Nat
  fired  : Nat                    -- rows fired; for MLDB, panel rows read
  gran   : Nat                    -- granules read by an MLDB
  last   : Nat                    -- arithmetic clock edge of the last firing or granule read
  sa     : BitVec 1024            -- snapshot of SA and of SB of its panel (12: R285)
  sb     : BitVec 1024
  ty     : BitVec 4
  addr   : Nat                    -- scratchpad offset of A row 0 or of panel row 0
  stride : Nat
  kblk   : Nat
  issued : Word
  seqNo  : Nat                    -- issue order
  upd    : List (Nat × Nat × List Byte) -- rows fired and not yet written, oldest first: row, `prog` at the write, bytes of the A row
  deriving DecidableEq, Repr

/-- The matrix engine and accumulators of an M-tile (02: R56, R74-R77; 12: R281). -/
structure Matrix where
  owner  : Option Nat             -- the strand with the claim
  acc    : Tbl (BitVec 32)        -- key bank * 16384 + row * 128 + column; unlisted is +0
  panel  : Vector (Tbl Byte) 2    -- bytes of each panel: byte j of row k at k * 256 + j
  pty    : Vector (BitVec 4) 2
  loaded : Vector Bool 2
  sa     : BitVec 1024            -- 128 E8M0-style scales of A (12: R286)
  sb     : Vector (BitVec 1024) 2
  ent    : Vector FEntry 8
  seqNo  : Nat
  portFree : Nat                  -- first arithmetic clock edge at which the row port is free
  deriving DecidableEq, Repr

/-- A summary instruction in the tile's summary engine, in issue order (05: R156): the object it writes, by scratchpad key, and
what its completion writes (05: R157, 12: R294). -/
structure SumOp where
  sid  : Nat
  lo   : Nat                      -- the bytes still being written: [lo, hi)
  hi   : Nat
  cells : List (Nat × Byte)
  regs : List (BitVec 5 × Word)
  due  : Nat                      -- `prog` at its completion
  deriving DecidableEq, Repr

/-- A rollback snapshot (20: R408). -/
structure Snapshot where
  wave  : BitVec 32
  core  : StrandCore
  mx    : Option Matrix           -- the matrix state, when the strand holds the claim
  full  : List Nat                -- granules of the allocation whose full bit is set
  sums  : List SumOp              -- its summary instructions that have not completed
  deriving DecidableEq, Repr

/-- A strand: its image state, its identity and what the tile keeps for it. Service core `n` is strand 4096+n, with the
sequencer A only (17: R353). -/
structure Strand where
  core    : StrandCore
  scstate : BitVec 3              -- 18: R380
  park    : Park
  tref    : Word                  -- AMT = 0
  ptag    : BitVec 12
  rk      : Nat                   -- die * 32768 + record index
  inv     : Nat
  ctile   : Nat                   -- camp tile index
  campW   : Nat
  campH   : Nat
  base    : Nat                   -- B, offset in the scratchpad
  size    : Nat                   -- S
  startedAt : Word                -- for deficits and pre-emption (01: R46, R48)
  level   : Nat                   -- effective level at start
  pend    : List PStore           -- oldest first
  loads   : List PLoad            -- oldest first
  saveReq : Option Word           -- cycle of the save request (18: R382)
  saveForced : Bool
  saveCore : Option Nat           -- the service core that asked
  withdrawn : Bool                -- a save withdrew a wire arrival (10: R252)
  pendCause : BitVec 8            -- pending fault of a save (18: R383)
  pendArg : Word
  pendWho : BitVec 8
  stopFlag : Bool                 -- a stop wave is due (20: R422)
  stepA   : Bool                  -- single step (20: R424)
  stepE   : Bool
  bpSeen  : List (Nat × Nat)      -- breakpoints that have fired: register, token
  snaps   : List Snapshot         -- newest first, at most four (20: R408)
  spanBad : List (BitVec 32)      -- spans that are not rollback-capable (20: R410, R411)
  buffer  : Bool                  -- holds the tile's span store buffer (20: R409)
  undo    : List (BitVec 32 × Nat × List Byte) -- span, granule, prior bytes; newest first
  outside : List (BitVec 32 × Nat × Token)     -- outside tokens taken: span, channel, token; newest first
  scdbga  : Word                  -- 20: R425
  deriving DecidableEq, Repr

/-! ## Tile state -/

/-- One scratchpad allocation (01: R40, R41). -/
structure Alloc where
  base : Nat
  size : Nat
  ptag : BitVec 12
  rk   : Nat
  inv  : Nat
  ctile : Nat
  deriving DecidableEq, Repr

/-- A line of the scalar read buffer (03: R90). -/
structure SrbLine where
  line : Nat
  ptag : BitVec 12
  fill : Word
  data : List Byte
  deriving DecidableEq, Repr

structure Tile where
  rptag   : BitVec 12             -- reservation word (17: R357)
  rmode   : BitVec 2
  insvc   : Bool
  allocs  : List Alloc
  full    : List Nat              -- granules whose full bit is set, rising (02: R72)
  setNow  : List Nat              -- granules set in the current cycle (02: R73)
  newNow  : List Nat              -- of them, those that were empty (02: R75)
  feover  : BitVec 49             -- 02: R73
  mx      : Matrix
  chainOwner : Vector (Option Nat) 4   -- strand whose VRUN runs (11: R274)
  chainQ  : Vector (List Nat) 4   -- strands waiting for the chain, in issue order
  chainPipe : Vector (List (Nat × VWord × Bool)) 4 -- vectors in the chain: when they leave it, as `prog`, x0, error bit (11: R275)
  chainAt : Vector Nat 4          -- arithmetic clock edge at which the chain last moved
  sums    : List SumOp
  srb     : List SrbLine
  curA    : Nat                   -- slot that A issues from (02: R54)
  curE    : Nat
  holdA   : Bool                  -- it is inside a block
  holdE   : Bool
  usedA   : Option (Nat × Word)   -- slot and cycle of the last issue
  usedE   : Option (Nat × Word)
  cecnt   : BitVec 50             -- 20: R418; bit 49 as for `pstale`
  ceWin   : List Word             -- cycles of corrected errors within the last 2^30
  going   : Bool                  -- Casquin withdraws the tile: its strands are being saved
  deriving DecidableEq, Repr

/-! ## Tasks (01) -/

/-- Record states (01: R28); the code is `toNat`. -/
inductive RState where
  | free | building | waiting | staging | ready | running | draining | retired | parked | failed | partialRet
  deriving DecidableEq, Repr

/-- Where an invocation stands. -/
inductive IState where
  | staging                       -- camp assigned, copies in progress
  | ready                         -- 01: R41, R43
  | running
  | saving                        -- a save of one of its strands is outstanding (18: R382)
  | saved                         -- 01: R48
  | frozen                        -- a save failed (18: R388)
  | ended                         -- write-backs in progress (01: R24)
  | finished
  | lost                          -- 01: R50
  deriving DecidableEq, Repr

/-- One row of a copy with its translations (10: R242). -/
structure CpRow where
  src  : List Part                -- [] for a masked staging row: zeros (01: R24)
  dst  : List Part
  sva  : Word                     -- the addresses, for the violation log
  dva  : Word
  len  : Nat
  done : Bool
  deriving DecidableEq, Repr

/-- What a context image restores of a strand beside its allocation (18: R385, R386). -/
structure Image where
  ctile : Nat
  boff  : Nat
  core  : StrandCore
  full  : List Nat                -- granules of the allocation whose full bit is set
  mx    : Option Matrix           -- when the strand held the claim
  toks  : List (Nat × List Token) -- tokens held at each receive end
  withdrawn : Bool
  pcause : BitVec 8
  pwho  : BitVec 8
  parg  : Word
  deriving DecidableEq, Repr

structure Invocation where
  st     : IState
  die    : Nat
  xTiles : Bool                   -- placed on the X sub-grid
  tiles  : List Nat               -- tile number of each camp tile
  bases  : List Nat               -- allocation base of each
  since  : Word                   -- cycle it entered this state
  level  : Nat                    -- effective level at start
  startedAt : Word
  exits  : List Nat               -- camp tiles whose strands have ended
  savedT : List Nat               -- camp tiles whose strands are saved
  faulted : List Nat              -- descriptors (or, for a restore, camp tiles) with a faulted translation
  copies : List Nat               -- copies still in progress
  wb     : List (Nat × Nat × List CpRow) -- held write-backs: descriptor, camp tile, rows
  images : List Image             -- of a restore, as read
  restore : Bool                  -- being restored from context images
  claims : List Nat               -- camp tiles whose saved strand held the matrix claim (18: R387)
  going  : Bool                   -- the dispatcher is saving every strand of it (01: R48)
  etc    : Nat                    -- sum of the ETC of its ended strands (02: R67)
  deriving DecidableEq, Repr

/-- An access of a dispatcher that has faulted and waits for a retry (01: R432; 18: R378, R380): the translations of a record that enters
STAGING, the tile record or the slots of an invocation to place, the `DONEMAP` bit of one that has ended, a decrement to send, the `DONEMAP`
of a re-dispatch. -/
inductive HeldAcc where
  | enter | place (inv : Nat) | bit (inv : Nat) | send | redo
  deriving DecidableEq, Repr

/-- A task record (01: R21), and what its dispatcher keeps for it. -/
structure Rec where
  ptag   : BitVec 12
  fmt    : BitVec 2
  streamlink : Bool
  rollback : Bool
  idem   : Bool
  prio   : BitVec 3
  kind   : BitVec 4
  st     : RState
  count  : BitVec 32
  live   : Bool
  init   : BitVec 24
  fan    : BitVec 32
  spad   : BitVec 8
  diemask : BitVec 4
  tkind  : BitVec 2
  h      : BitVec 4               -- H - 1
  w      : BitVec 4               -- W - 1
  inst   : BitVec 32
  entryA : Word
  entryE : Word
  params : Word
  succ   : Word
  nchan  : BitVec 8
  nops   : BitVec 8
  scope  : BitVec 8
  nsucc  : BitVec 16
  ops    : Word
  chans  : Word
  recs   : Word
  donemap : Word
  save   : Word
  retired : BitVec 32
  reccount : BitVec 32
  tstart : Word
  slot   : BitVec 16
  tid    : BitVec 16
  -- kept by the dispatcher
  since  : Word                   -- cycle it entered its state (01: R45)
  listSealed : Bool               -- RECSEAL (01: R38)
  skipRet : Bool                  -- tret.skip by camp tile 0 (01: R36)
  heldTr : Bool                   -- dispatcher-held translations taken and DONEMAP cleared (01: R51, R432)
  held   : List (Nat × Bool × Nat × Nat) -- those translations: 64 KiB page, for a write, physical page, bytes of the leaf's page
  waits  : List HeldAcc           -- its dispatcher accesses that have faulted and wait for a retry (01: R432)
  opsT   : List (List Byte)       -- the operand table as read (01: R24)
  binds  : List (List Byte)       -- the channel bindings as read (01: R25)
  next   : Nat                    -- next invocation to place
  redo   : List Nat               -- re-dispatched invocations still to place, before the next one (01: R52)
  lostDies : List Nat             -- dies an R50 failure cut off
  invs   : Tbl Invocation
  sending : Option (Nat × Bool)   -- retiring: successor entries sent so far, and whether as skips
  deriving DecidableEq, Repr

/-- An entry of the template table (01: R13). Prototypes are kept per die in prototype-slot order. -/
structure Template where
  ptag  : BitVec 12
  nslots : Nat
  protos : List (Nat × Rec)       -- die, prototype; position is the prototype slot
  deriving DecidableEq, Repr

/-- An entry of a die's instance table (01: R14). -/
structure InstEntry where
  inst   : BitVec 32
  tid    : BitVec 16
  ptag   : BitVec 12
  slots  : Word
  isSealed : Bool
  count  : Nat
  recs   : List Nat               -- record keys of the instance, all dies, by prototype slot
  deriving DecidableEq, Repr

/-- A decrement or a seal on its way (01: R17, R20), and the flit that carries it between two dies (19: R390): direction and number. -/
structure DMsg where
  isSeal : Bool
  tref : Word
  amt  : Nat
  skip : Bool
  ptag : BitVec 12
  sent : Word
  src  : Nat                      -- source number of its packets (19: R396)
  die  : Nat                      -- where it is
  via  : Option (Nat × Nat)
  deriving DecidableEq, Repr

/-- Whose a copy is, and what its completion does. -/
inductive CpOwner where
  | strand (sid slot : Nat) (q : Option Nat) (h : Option Nat) (ticket : Word)
  | ended (rk inv : Nat)          -- its strand has ended; retirement waits for it (03: R108)
  | staging (rk inv ctile desc : Nat)
  | writeback (rk inv ctile desc : Nat)
  | restore (rk inv ctile : Nat)
  deriving DecidableEq, Repr

/-- What must agree for two copies to merge (01: R44). -/
structure MergeKey where
  cluster : Nat
  ptag    : BitVec 12
  src     : Word
  rows    : Nat
  rowbytes : Nat
  stride  : Word
  ety     : BitVec 8
  off     : Nat
  deriving DecidableEq, Repr

/-- A copy in progress (03: R104; 10: R241-R244). -/
structure Copy where
  owner : CpOwner
  ptag  : BitVec 12
  rows  : List CpRow
  fem   : Bool
  since : Word
  merge : Option MergeKey         -- mergeable (01: R44)
  leader : Option Nat             -- the copy it has merged with, which reads the source for both
  deriving DecidableEq, Repr

/-- A die's dispatcher (01: R45-R48). -/
structure Dispatcher where
  deficit : Tbl Int               -- key pitch * 8 + level
  last    : Vector Nat 8          -- last-served pitch per level
  decAt   : Option Word           -- cycle in which it last applied a decrement (01: R35)
  next    : Word                  -- first cycle of the next decision
  resv    : List (Nat × List Nat) -- reservations of R47: record key, tiles
  passed  : Tbl Word              -- candidates passed over at level 7: key, since
  deriving DecidableEq, Repr

/-- A pitch or shared set: the registers of 17: R354, 20: R402, R414. -/
structure Pitch where
  proot  : Word
  pctl   : Word
  pbarto : Word
  ptrsto : Word
  pcbar  : Vector Word 4
  puncl  : Word
  puncln : Word
  pstale : BitVec 50
  pexcess : BitVec 50
  ptrdrop : BitVec 50
  pevlog : Word
  pevlogn : Word
  pviol  : Word
  pvioln : Word
  ssmem0 : Word
  ssmem1 : Word
  key    : Word                   -- PIMGKEY, and the image-key block that Casquin read there (17: R365)
  keys   : List Byte
  meas   : BitVec 512             -- measurement chain (17: R371)
  deriving DecidableEq, Repr

/-- A register write that takes effect at the end of its cycle (17: R354): a service core's own, one that a `PSET` request makes, a key
block that it has read (17: R365), and the three that an `HSET` makes (17: R363). -/
inductive RegW where
  | reg (r : Nat) (v : Word)
  | pset (p r : Nat) (v : Word)
  | key (p : Nat) (v : Word) (block : List Byte)
  | hset (h : Nat) (e mask : Word)
  | finish (q status : Nat)       -- not a write: the request of a queue whose writes stand before it completes (17: R348, R351)
  deriving DecidableEq, Repr

/-- A service core beside its sequencer (17: R354, R355). -/
structure Core where
  psel    : Word
  portsel : Word
  hsel    : Word
  cesel   : Word
  evqbase : Word
  evqhead : Word
  evqtail : Word
  evqsize : Word
  regq    : List RegW             -- register writes that take effect at the end of the cycle (17: R354)
  turn    : Nat                   -- queue served last (17: R352)
  held    : List (List Byte)      -- events held at their source while the ring is full, oldest first
  relayed : Option (Nat × BitVec 32) -- queue whose request is relayed and not answered, and the circuit group's epoch then (17: R352)
  deriving DecidableEq, Repr

/-- A cached leaf translation (18: R377) of a 64 KiB page. -/
structure TlbE where
  die  : Nat
  ptag : BitVec 12
  page : Nat                      -- VA[55:16]
  size : Nat                      -- bytes of the leaf's page
  leaf : Word                     -- the leaf entry, its ADDR the base of the 64 KiB page
  deriving DecidableEq, Repr

/-- A wire: sense, open phase, positions arrived (10: R249). -/
structure Wire where
  sense : Bool
  kind  : BitVec 2
  mask  : BitVec 32               -- selector bits [39:8]
  ptag  : BitVec 12
  arrived : List (Nat × Nat)      -- position and the strand that arrived there
  toCol : List (Nat × Nat)        -- mesh: released positions that have yet to arrive on their column wires
  held  : List Nat                -- mesh: released positions that hold the row wire until their column releases
  opened : Bool
  last  : Nat                     -- `prog` at the last arrival
  deriving DecidableEq, Repr

/-- A counting barrier (10: R250). -/
structure CBar where
  armed : Bool
  n     : Nat
  count : Nat
  phase : Nat
  deriving DecidableEq, Repr

/-- A strand's last recorded arrival of a kind (10: R251): the barrier and the phase whose release it awaits. -/
structure Arrival where
  sid   : Nat
  bkind : BitVec 2
  bnum  : Nat
  die   : Nat
  wire  : Nat                     -- the awaited wire: of rows for kind 0, of cols for kinds 1 and 2
  sel   : Word
  done  : Bool                    -- released
  withdrawn : Bool
  deriving DecidableEq, Repr

/-- A channel between two ends (13: R308). -/
structure Chan where
  slots : Nat
  tokens : List Token             -- oldest first; on a zero-slot channel the tokens offered and not yet taken
  due   : List Bool               -- markers of the sender's waves that have no room yet: their stop flags (13: R308)
  put   : Nat                     -- tokens appended, and tokens taken, so far: they number the offers
  took  : Nat
  sSid  : Option Nat
  rSid  : Option Nat
  left  : Nat                     -- ends whose strands have ended
  port  : Option Nat              -- ingress port that feeds it (17: R362)
  away  : Bool                    -- the receive end is being saved, or is saved: no credit (18: R382)
  gone  : Bool                    -- a peer ended without exit (13: R309)
  deriving DecidableEq, Repr

/-- What a rule sets to a cycle (log 1): a wait that ends, a time-out, an engine's step. Each does nothing before its time. -/
inductive Due where
  | unblock (who : Agent) | sleepcWake (who : Agent) | cpywWake (who : Agent) | barTimeout (who : Agent) | drainTimeout (who : Agent)
  | saveForced (sid : Nat)
  | gatedGroup (sid w : Nat)
  | wireRelease (die wire : Nat) (col : Bool) | meshColumn (die row : Nat)
  | podReplyTimeout (id : Nat) | lost (m : Nat) | matchTimeout (post : Nat) | chunkRedo (gid chunk : Nat)
  | decision (die : Nat) | starvation (die : Nat)
  | flitResend (link seq : Nat) (back : Bool) (onto : Nat) | viaductDown (link : Nat) | replayWindow (port : Nat) | previousKey (port : Nat)
  | capRaise | portGo (port : Nat) | quietPoint (port fibre : Nat) | heldLate
  | accumulator (tile entry : Nat) | mldbGranule (tile entry : Nat) | mmaRow (tile entry : Nat) | chainResult (tile ch : Nat)
  deriving DecidableEq, Repr

/-- Who moves next (log 1). -/
inductive Move where
  | issue (who : Agent) (late : Bool) -- a sequencer enters a block or issues one instruction; a load that issues may be performed later
  | perform (sid k : Nat)         -- pending store `k` of a strand leaves for its home (03: R95-R97)
  | load (sid k : Nat)            -- pending load `k` of a strand is performed (03: R96)
  | settle (k : Nat)              -- write `k` on its way is performed (03: R112)
  | tlbFill (die : Nat) (ptag : BitVec 12) (page : Nat) -- a translation is cached (18: R377)
  | event (i : Instr) (late : Bool) -- a step of another agent or of the outside world; a load row that issues may be read later
  | due (d : Due)                 -- one that the cycle sets
  deriving DecidableEq, Repr

/-- The moves of a cycle, in their order: no rule says which of the things that may happen does, or when (log 1). -/
opaque nextMoves : Nat → List Move

/-- A message that leaves the module, kept until the end of its cycle: what it is, its package, its words. -/
structure OutMsg where
  kind : Nat                      -- 0 PLD, 1 PST, 2 PATOM, 3 reply, 4 decrement, 5 drain marker, 6 announcement, 7 truss, 8 relayed request, 9 wavelength swap, 10 transport packet, 11 head index, 12 answer to a relayed request, 13 a group of several modules
  pkg  : Nat
  ptag : BitVec 12                -- the pitch or shared set it travels for (19: R390)
  data : List Word
  deriving DecidableEq, Repr

/-- A message that waits in its source queue for a port whose send allowance is held: the port, its source number (19: R396, R398). -/
structure HeldPkt where
  port : Nat
  src  : Nat
  since : Word
  msg  : OutMsg
  deriving DecidableEq, Repr

/-! ## Pod memory and links (06: R170-R172; 17: R358; 19; 21) -/

/-- A join: accesses from a pitch of another module are translated in a local pitch. -/
structure Join where
  pkg   : BitVec 10
  pitch : BitVec 12
  ptag  : BitVec 12
  deriving DecidableEq, Repr

/-- A pod access that has no reply yet. -/
structure PodAcc where
  rk    : Nat                     -- its strand, by record, invocation and camp tile
  inv   : Nat
  ctile : Nat
  kind  : BitVec 2                -- 0 PLD, 1 PST, 2 PATOM
  pkg   : BitVec 10
  addr  : Word
  n     : Nat
  d     : BitVec 5
  val   : Word
  cmp   : Word
  aop   : BitVec 4
  acq   : Option Nat              -- scope of the acquire on its reply
  since : Word
  src   : Nat                     -- source number of its packets (19: R396)
  port  : Option Nat              -- the port it is held for; none when it has left
  dead  : Bool                    -- its strand was stopped: nobody takes the outcome
  ended : Nat                     -- outcome of a PST whose strand is saved: 0 none yet, 1 error response, 2 PEER_RESET, 3 PEER_UNREACHABLE
  deriving DecidableEq, Repr

/-- A receive fibre of a scale-up port (19: R389, R395). -/
structure Fibre where
  wlmap : BitVec 25
  spused : Bool
  worst : BitVec 5
  cerr  : BitVec 32
  eye   : BitVec 16
  win   : Nat                     -- sample window that the three fields before describe
  deriving DecidableEq, Repr

/-- A flit sent and not acknowledged (19: R390, R391, R394): sequence number, first and last transmission, key index, on a viaduct
whether it goes from the pair's higher die to its lower one, and what it carries. -/
structure Flit where
  seqNo : Nat
  first : Word
  last  : Word
  key   : BitVec 8
  back  : Bool
  msg   : OutMsg
  deriving DecidableEq, Repr

/-- A wavelength swap of a port: fibre, wavelength, quiet-point flit, whether this end asked, and when (19: R395). -/
structure Swap where
  fibre : Nat
  wl    : Nat
  seqNo : Nat
  mine  : Bool
  asked : Word
  acked : Bool                    -- the sending end has acknowledged
  deriving DecidableEq, Repr

/-- A link of 19: R389, by its LNKSEL number. The flit numbers of a pair of dies stand in its first two viaducts, one for each direction
(19: R390). -/
structure Link where
  st     : BitVec 3               -- LSTATE
  enable : Bool
  secen  : Bool
  light  : Bool
  pkg    : BitVec 10
  inc    : BitVec 8
  rate   : BitVec 2
  key    : BitVec 8               -- transmit key index
  rxKey  : BitVec 8
  prev   : Option (BitVec 8 × Word) -- previous receive key and the cycle it expires (R394)
  sec   : Bool                    -- UALinkSec runs since the last lock
  rotAt : Option Word             -- cycle of the last key switch of the transmitter
  fails  : Nat                    -- failed trainings
  rplcnt : BitVec 32
  epoch  : BitVec 32              -- RTEPOCH when the port left ACTIVE (21: R427)
  goBy   : Option Word            -- cycle by which Casquin writes GO to the LOCKED port (21: R427)
  credit : Bool                   -- the far end grants credit (21: R430)
  drained : Bool                  -- the drain marker is acknowledged
  unacked : List Flit
  txNext : Nat
  rxNext : Nat
  early  : List Nat               -- flits received ahead of their turn
  fibres : Vector Fibre 16
  swaps : List Swap               -- agreed and waiting, in the order of their service
  deriving DecidableEq, Repr

/-! ## Ultra Ethernet (06: R173-R175; 13: R322-R324) -/

/-- A transport post. -/
structure Post where
  ptag  : BitVec 12
  tile  : Nat                     -- the tile that it acts for (19: R396)
  die   : Nat
  tref  : Word
  opk   : Nat
  mode  : Nat
  dest  : Nat
  entry : List Byte               -- the destination entry as read
  parts : List Part               -- the buffer, with its held translations
  laddr : Word                    -- address of the buffer
  len   : Nat
  raddr : Word
  akind : Nat
  atgt  : Word
  tag   : Word
  since : Word
  mlen  : Option Nat              -- length of the message that a receive has matched
  moved : List (Nat × Nat)        -- bytes sent, or placed, so far: disjoint runs [lo, hi), rising
  deriving DecidableEq, Repr

/-- The transport engine's state for a destination (06: R175), and what it was within the last 1,200 cycles: until when, the two
registers' words. -/
structure Cong where
  win  : BitVec 32
  rtt  : Option (BitVec 32)       -- none before the first acknowledgement
  acks : List Bool                -- ECN marks of the last 256 acknowledgements, newest first
  was  : List (Word × BitVec 32 × Option (BitVec 32) × Nat)
  deriving DecidableEq, Repr

/-! ## Truss (06: R158-R169; 12: R302-R307) -/

/-- A strand's collective on a group, by strand and group id. -/
structure Coll where
  gen   : BitVec 4
  tile  : Nat                     -- the leaf that takes part
  ptag  : BitVec 12
  src   : Nat                     -- scratchpad keys of the two buffers
  dst   : Nat
  len   : Nat
  got   : List Nat                -- chunks whose result stands in the buffer
  acked : Bool                    -- TRSACK executed
  st    : Nat                     -- 0 in progress, 1 complete, 6 failed
  deriving DecidableEq, Repr

/-- A packet in the tree: towards the root in phases 1 and 2, from it as 3 (exponents) and 4 (result); 5 a module reports its
participants done, 6 the collective is complete. -/
structure TPkt where
  node  : Nat                     -- the node, or 1000 + a tile
  from_ : Nat                     -- the node or 1000 + tile that sent it
  gid   : Nat
  gen   : BitVec 4
  chunk : Nat
  try_  : Nat
  phase : Nat
  ptag  : BitVec 12
  pay   : TPay
  sent  : Word
  die   : Nat                     -- where it is
  via   : Option (Nat × Nat)      -- the flit that carries it between dies: direction, number
  deriving DecidableEq, Repr

/-- Partial result in a node: the contributors combined so far. -/
structure TPart where
  node  : Nat
  phase : Nat
  froms : List Nat
  pay   : TPay
  deriving DecidableEq, Repr

/-- A chunk of a collective under way, by group, generation and chunk. -/
structure TChunk where
  first : Word                    -- cycle of its first contribution
  tries : Nat
  parts : List TPart
  alts  : List (Nat × Nat)        -- alternate parent and the node that used it
  told  : List Nat                -- packages whose participants all have its result (06: R167)
  deriving DecidableEq, Repr

/-- A group as its service core made it (17: R358), and when it was freed. -/
structure Group where
  ptag  : BitVec 12
  endp  : BitVec 10
  members : List (Nat × Nat)      -- tile, package
  freed : Option Word
  remote : List Nat               -- packages whose participants have all acknowledged
  deriving DecidableEq, Repr

/-! ## Hosts, ingress, boot (17) -/

/-- A host queue (17: R348). -/
structure HostQ where
  opened : Bool
  owner  : BitVec 12
  core   : Nat
  req    : Word
  comp   : Word
  count  : Nat
  tail   : Nat                    -- as the doorbell gave it
  head   : Nat                    -- oldest request that has not completed
  compAt : Nat                    -- next completion entry
  deriving DecidableEq, Repr

/-- What the header at the front of an ingress port waits for (17: R362). -/
inductive PortState where
  | idle                          -- no header waits
  | held                          -- the entry is WRITING
  | absent                        -- the template is absent
  | full                          -- TINST is retried
  | sealing (inst : Nat) (out : Option (Nat × Nat)) -- its instance is made and not yet sealed: the record and channel of the stream
  deriving DecidableEq, Repr

/-- An ingress port (17: R359, R362). -/
structure Ingress where
  ctl   : Word
  slot  : Word
  st    : PortState
  hdr   : BitVec 1024
  ent   : Word                    -- HENT0 as read for that header
  since : Word
  waiting : Option (BitVec 1024)  -- a second header
  streams : List (Option (Nat × Nat)) -- streams whose end token has not come, oldest first: record and channel, none when discarded
  deriving DecidableEq, Repr

/-- A boot journal record (17: R370). -/
structure JRec where
  bootno : BitVec 32
  step   : BitVec 8
  phase  : BitVec 8
  detail : BitVec 16
  cycle  : Word
  deriving DecidableEq, Repr

/-- The machine. -/
structure State where
  -- the model's own fields (log 1, 2)
  agenda  : List Move
  cur     : Agent
  freeCtr : Nat
  late    : Bool                  -- a load that issues in this step is performed later
  -- module
  cycle   : Word                  -- 00: R3
  edges   : Nat                   -- arithmetic clock edges so far, quarters of one towards the next, and whether this cycle has one
  edgeAcc : Nat                   -- (00: R3, 17: R373)
  edge    : Bool
  power   : BitVec 2              -- power state, and the one that POWER asked for (17: R372)
  powerReq : BitVec 2
  pkg     : BitVec 10
  incarnation : BitVec 8          -- 06: R171
  -- memory: one space of keys (Ops.lean); canonical form `Memory.wf`
  mem     : List Host.Cell
  olds    : List OldVal           -- writes on their way to their home, newest first (03: R112)
  lineKey : Tbl (BitVec 12)       -- key slot that each written line stands under (18: R375)
  lineRes : Tbl (BitVec 12)       -- key slot under which each line was last filled into the L2 or deck (18: R375)
  poison  : List Nat              -- poisoned lines (20: R403)
  pins    : List (Nat × BitVec 12) -- pinned granules and their pitches (03: R89, 17: R358)
  tlb     : List TlbE
  -- strands and tiles
  strands : Tbl Strand
  tiles   : Tbl Tile
  chans   : Tbl Chan
  copies  : Tbl Copy
  nextId  : Nat                   -- keys of channels, copies, posts and pod accesses (model's own)
  rows    : Tbl Wire              -- row wire y of die d at d*16+y
  cols    : Tbl Wire
  cbars   : Tbl CBar              -- die*64 + number
  arrivals : List Arrival
  -- tasks
  instCtr : BitVec 32             -- 01: R15
  templates : Tbl Template
  insts   : Tbl InstEntry         -- die*8192 + entry
  recs    : Tbl Rec               -- die*32768 + index; unlisted is FREE and zero
  msgs    : List DMsg
  disp    : Tbl Dispatcher
  -- pitches and service cores
  pitches : Tbl Pitch
  cores   : Tbl Core
  -- debug and stall walker (20: R420, R421)
  dbgTref : Word
  bps     : Vector Word 4
  swbuf   : Word
  cesTh   : Word                  -- CETH (20: R418)
  -- pod, links, transport
  outbox  : List OutMsg
  heldPkts : List HeldPkt         -- oldest first
  peers   : Tbl (BitVec 8)
  joins   : List Join
  podOut  : Tbl PodAcc
  links   : Tbl Link
  lnksel  : Word
  lnkspth : Word
  announced : Bool                -- the incarnation has been announced since reset (19: R397)
  posts   : Tbl Post
  congs   : Tbl Cong              -- by destination index
  cqs     : Tbl (List (Word × List Byte)) -- completion queues, by die * 4096 + pitch: the poster of each entry, its bytes
  -- truss
  truss   : Tbl Word              -- group entries, by node * 1024 + group
  groups  : Tbl Group
  colls   : Tbl Coll              -- by strand * 1024 + group
  chunks  : Tbl TChunk            -- by (group * 16 + generation) * 1024 + chunk
  packets : Tbl TPkt
  trussBad : List Nat             -- nodes, and leaves, whose path to their parent has failed
  trussDead : List Nat            -- nodes that do not work (06: R160)
  -- host and boot
  queues  : Tbl HostQ
  ingress : Tbl Ingress
  handlers : Tbl (Word × Word)    -- HENT0, HENT1
  badTiles : List Nat             -- tiles that failed their boot test
  badGrans : List Nat
  badChans : List Nat             -- LPDDR 5X channels out of service
  copyNo   : Nat                  -- the Casquin copy of the flash that runs: 0 first, 1 second
  journal : List JRec             -- newest first, at most 8,192
  jcount  : Nat                   -- records written so far: the ring's position
  recovery : Bool
  modChain : BitVec 512
  cap     : Nat                   -- power cap in watts, 0 none
  capSince : Word                 -- since when the draw has been below the cap
  deriving DecidableEq, Repr

/-! ## Empty values and reset -/

def Seq.empty : Seq :=
  { g := Vector.replicate 32 0, res := Vector.replicate 32 0, pc := 0, fetched := false, block := [], next := 0, idx := 0,
    pending := none, wait := none, woken := false, waitAt := 0, exited := false, back := false, trapVec := 0, tcause := 0, targ := 0, trline := 0,
    tridx := 0, trpend := 0, tscr0 := 0, tscr1 := 0 }

def Walker.empty : Walker :=
  { desc := 0, st := .idle, cnt := Vector.replicate 4 0, gate := [], go := 0, req := none, fin := false, buf := [], addr := 0, rd := [],
    mid := false, bad := false, offer := none, stop := false, brk := false }

/-- An unconfigured chain: every stage PASS, every slot unloaded (11: R274). -/
def Chain.empty : Chain := { stages := Vector.replicate 6 0, tables := Vector.replicate 4 none }

def CpSlot.empty : CpSlot := { gen := 0, prom := 0, copy := none }

def ChEnd.empty : ChEnd :=
  { dir := 0, chan := 0, slots := 0, mperiod := 0, ratio := 0, closed := false, sent := 0, tail := 0, span := 0, total := 0,
    marks := 0, errs := 0, reason := 0, cFull := 0, cEmpty := 0, cMove := 0, moved := false }

/-- The registers at strand start, all zero but those of 02: R82 that the dispatcher sets. -/
def StrandCore.empty : StrandCore :=
  { a := .empty, e := .empty, v := Vector.replicate 32 0, k := Vector.replicate 8 0, w := Vector.replicate 8 .empty,
    q := Vector.replicate 8 [], bqAE := [], bqEA := [], h := Vector.replicate 16 0, etc := 0, spanno := 0,
    c := Vector.replicate 8 .empty, chains := Vector.replicate 4 .empty, cps := Vector.replicate 16 .empty,
    heldRst := none, heldUnr := none }

/-- An empty slot (18: R380, `SCSTATE` 0). -/
def Strand.empty : Strand :=
  { core := .empty, scstate := 0, park := .none, tref := 0, ptag := 0, rk := 0, inv := 0, ctile := 0, campW := 1,
    campH := 1, base := 0, size := 0, startedAt := 0, level := 0, pend := [], loads := [], saveReq := none,
    saveForced := false, saveCore := none, withdrawn := false, pendCause := 0, pendArg := 0, pendWho := 0,
    stopFlag := false, stepA := false, stepE := false, bpSeen := [], snaps := [], spanBad := [], buffer := false,
    undo := [], outside := [], scdbga := 0 }

def FEntry.empty : FEntry :=
  { st := .free, sid := 0, isMma := false, pb := 0, ab := 0, arow := 0, rows := 0, fired := 0, ty := 0, addr := 0,
    gran := 0, last := 0, sa := 0, sb := 0, stride := 0, kblk := 0, issued := 0, seqNo := 0, upd := [] }

def Matrix.empty : Matrix :=
  { owner := none, acc := [], panel := Vector.replicate 2 [], pty := Vector.replicate 2 0,
    loaded := Vector.replicate 2 false, sa := 0, sb := Vector.replicate 2 0, ent := Vector.replicate 8 .empty,
    seqNo := 0, portFree := 0 }

/-- A tile after module reset: open, in service (17: R357, R369; log 4). -/
def Tile.empty : Tile :=
  { rptag := 0, rmode := 0, insvc := true, allocs := [], full := [], setNow := [], newNow := [], feover := 0, mx := .empty,
    chainOwner := Vector.replicate 4 none, chainQ := Vector.replicate 4 [], chainPipe := Vector.replicate 4 [], chainAt := Vector.replicate 4 0,
    sums := [], srb := [], curA := 0, curE := 0, holdA := false, holdE := false, usedA := none, usedE := none,
    cecnt := 0, ceWin := [], going := false }

/-- A FREE record, every field zero (01: R21). -/
def Rec.empty : Rec :=
  { ptag := 0, fmt := 0, streamlink := false, rollback := false, idem := false, prio := 0, kind := 0, st := .free,
    count := 0, live := false, init := 0, fan := 0, spad := 0, diemask := 0, tkind := 0, h := 0, w := 0, inst := 0,
    entryA := 0, entryE := 0, params := 0, succ := 0, nchan := 0, nops := 0, scope := 0, nsucc := 0, ops := 0,
    chans := 0, recs := 0, donemap := 0, save := 0, retired := 0, reccount := 0, tstart := 0, slot := 0, tid := 0,
    since := 0, listSealed := false, skipRet := false, heldTr := false, held := [], waits := [],
    opsT := [], binds := [], next := 0, redo := [], lostDies := [], invs := [], sending := none }

/-- A dispatcher after reset. DESIGN CHOICE (log 24): deficits of 0, and pitch 0 as the last served of each level. -/
def Dispatcher.empty : Dispatcher :=
  { deficit := [], last := Vector.replicate 8 0, decAt := none, next := 0, resv := [], passed := [] }

/-- A FREE pitch with the register resets of 17: R354. -/
def Pitch.empty : Pitch :=
  { proot := 0, pctl := 0, pbarto := 65536, ptrsto := 0x100000, pcbar := Vector.replicate 4 0, puncl := 0, puncln := 0,
    pstale := 0, pexcess := 0, ptrdrop := 0, pevlog := 0, pevlogn := 0, pviol := 0, pvioln := 0, ssmem0 := 0,
    ssmem1 := 0, key := 0, keys := [], meas := 0 }

def Core.empty : Core :=
  { psel := 0, portsel := 0, hsel := 0, cesel := 0, evqbase := 0, evqhead := 0, evqtail := 0, evqsize := 6, regq := [],
    turn := 63, held := [], relayed := none }

def Wire.empty : Wire :=
  { sense := false, kind := 0, mask := 0, ptag := 0, arrived := [], toCol := [], held := [], opened := false, last := 0 }

def CBar.empty : CBar := { armed := false, n := 0, count := 0, phase := 0 }

def Fibre.empty : Fibre := { wlmap := 0, spused := false, worst := 0, cerr := 0, eye := 0, win := 0 }

/-- A link after reset: OFF (19: R389). -/
def Link.empty : Link :=
  { st := 0, enable := false, secen := false, light := false, pkg := 0, inc := 0, rate := 0, key := 0, rxKey := 0, prev := none,
    sec := false, rotAt := none, fails := 0, rplcnt := 0, epoch := 0, goBy := none, credit := false, drained := false, unacked := [], txNext := 0, rxNext := 0,
    early := [], fibres := Vector.replicate 16 .empty, swaps := [] }

def HostQ.empty : HostQ :=
  { opened := false, owner := 0, core := 0, req := 0, comp := 0, count := 0, tail := 0, head := 0, compAt := 0 }

def Ingress.empty : Ingress :=
  { ctl := 0, slot := 0, st := .idle, hdr := 0, ent := 0, since := 0, waiting := none, streams := [] }

/-- The machine right after module reset (17: R369; log 3, 4 for what the spec leaves open). -/
def State.reset : State :=
  { agenda := [], cur := ⟨4096, false⟩, freeCtr := 0, late := false, cycle := 0, edges := 0, edgeAcc := 0, edge := true, power := 0, powerReq := 0, pkg := Config.packageId, incarnation := 0,
    mem := [], olds := [], lineKey := [], lineRes := [], poison := [], pins := [], tlb := [], strands := [], tiles := [], chans := [], copies := [],
    nextId := 0, rows := [], cols := [], cbars := [], arrivals := [], instCtr := 1, templates := [], insts := [],
    recs := [], msgs := [], disp := [], pitches := [(0, { Pitch.empty with pctl := 0x3FD })], cores := [],
    dbgTref := 0, bps := Vector.replicate 4 0, swbuf := 0,
    cesTh := 4096, outbox := [], heldPkts := [], peers := [], joins := [], podOut := [], links := [], lnksel := 0,
    lnkspth := 0x0000005000000040, announced := false, posts := [], congs := [], cqs := [], truss := [], groups := [], colls := [],
    chunks := [], packets := [], trussBad := [], trussDead := [], queues := [], ingress := [], handlers := [], badTiles := [],
    badGrans := [], badChans := [], copyNo := 0, journal := [], jcount := 0, recovery := false, modChain := 0, cap := 0, capSince := 0
  }
end Sys2Proof.Machine
end

