-- ==== Sys2Proof/Machine/Ops.lean ====
section
/-! DEFINITION. Ops.lean: the named operations over tables, memory, registers, translation, logs and traps that the meanings
share. -/

namespace Sys2Proof.Machine

/-! ## Tables -/

def Tbl.find {α : Type} : Tbl α → Nat → Option α
  | [], _ => none
  | (k, v) :: r, a => if k = a then some v else Tbl.find r a

def Tbl.get {α : Type} (t : Tbl α) (a : Nat) (d : α) : α := (Tbl.find t a).getD d

def Tbl.put {α : Type} : Tbl α → Nat → α → Tbl α
  | [], a, x => [(a, x)]
  | (k, v) :: r, a, x =>
    if k = a then (a, x) :: r else if a < k then (a, x) :: (k, v) :: r else (k, v) :: Tbl.put r a x

def Tbl.del {α : Type} (t : Tbl α) (a : Nat) : Tbl α := t.filter (fun p => p.1 != a)

/-- The lowest key from `n` up that is not in use, among the first `fuel`. -/
def Tbl.fresh {α : Type} (t : Tbl α) (n : Nat) : Nat → Nat
  | 0 => n
  | f + 1 => if (Tbl.find t n).isSome then Tbl.fresh t (n + 1) f else n

/-- A list of numbers kept rising without repeats. -/
def insertNat (a : Nat) : List Nat → List Nat
  | [] => [a]
  | k :: r => if a = k then k :: r else if a < k then a :: k :: r else k :: insertNat a r

/-! ## Memory: one space of byte keys

A physical address is its own key; scratchpad byte `o` of tile `t` is `scratchKey t o`; SRAM of a service core, host memory
and the memory of other packages follow. An unlisted byte reads 0 (log 3). -/

abbrev Memory := List Host.Cell

def Memory.get : Memory → Nat → Byte
  | [], _ => 0
  | (k, b) :: r, a => if k = a then b else Memory.get r a

def Memory.put : Memory → Nat → Byte → Memory
  | [], a, b => if b = 0 then [] else [(a, b)]
  | (k, c) :: r, a, b =>
    if k = a then (if b = 0 then r else (a, b) :: r)
    else if a < k then (if b = 0 then (k, c) :: r else (a, b) :: (k, c) :: r)
    else (k, c) :: Memory.put r a b

/-- The route table (19: R396): 1,024 entries of n32. -/
def routeBase : Nat := 0xFFF3000000000
/-- The destination table (19: R400): 65,536 entries of 64 bytes. -/
def destBase : Nat := 0xFFF2000000000
/-- What a byte written to `k` becomes: bits [30:22] of a route entry are read-only and 0, a write to them is ignored (00: R9,
19: R396). -/
def roByte (k : Nat) (b : Byte) : Byte :=
  if routeBase ≤ k && k < routeBase + 4096 then
    (if k % 4 == 3 then b &&& 0x80 else if k % 4 == 2 then b &&& 0x3F else b)
  else b

def Memory.putAll (m : Memory) : List (Nat × Byte) → Memory
  | [] => m
  | (a, b) :: r => Memory.putAll (Memory.put m a (roByte a b)) r

/-- Addresses strictly rising from `lo` up, and no byte that an unlisted address would read. -/
def Memory.wfFrom : Nat → Memory → Bool
  | _, [] => true
  | lo, (k, b) :: r => decide (lo ≤ k) && b != 0 && Memory.wfFrom (k + 1) r

def Memory.wf (m : Memory) : Bool := Memory.wfFrom 0 m

def scratchKey (tile o : Nat) : Nat := 0x10000000000000 + tile * 0x400000 + o
def sramKey (core o : Nat) : Nat := 0x20000000000000 + core * 0x100000 + o
def hostKey (a : Nat) : Nat := 0x10000000000000000 + a

/-- Little-endian integer of `n` bytes from `f` at `a` (00: R7). -/
def leOf (f : Nat → Byte) (a : Nat) : Nat → Nat
  | 0 => 0
  | n + 1 => (f a).toNat + 256 * leOf f (a + 1) n

/-- The `n` bytes of `v`, little-endian (00: R7). -/
def bytesLE (v : Nat) : Nat → List Byte
  | 0 => []
  | n + 1 => BitVec.ofNat 8 v :: bytesLE (v / 256) n

/-- Little-endian integer of a list of bytes. -/
def natOfBytes : List Byte → Nat
  | [] => 0
  | b :: r => b.toNat + 256 * natOfBytes r

/-- Keys `a`, `a+1`, … paired with bytes. -/
def cellsAt (a : Nat) : List Byte → List (Nat × Byte)
  | [] => []
  | b :: r => (a, b) :: cellsAt (a + 1) r

def State.byte (s : State) (k : Nat) : Byte := Memory.get s.mem k
def State.rd (s : State) (k n : Nat) : Nat := leOf s.byte k n
def State.rdBytes (s : State) (k n : Nat) : List Byte := (List.range n).map (fun i => s.byte (k + i))
/-- It writes a byte of `ks`. -/
def OldVal.touches (o : OldVal) (ks : List Nat) : Bool := o.cells.any (fun c => ks.contains c.1)

/-- Writes on their way, newest first, without those that `hit` selects and the older ones to a byte of one that goes: these are
performed (03: R101). `gone` holds the bytes of those that have gone. -/
def settleOlds (hit : OldVal → Bool) : List Nat → List OldVal → List OldVal
  | _, [] => []
  | gone, o :: r =>
    if hit o || o.touches gone then settleOlds hit (o.cells.map (·.1) ++ gone) r else o :: settleOlds hit gone r

/-- A new write to bytes at their home: the earlier ones to them are performed. -/
def forgetCells (c : List (Nat × Byte)) (l : List OldVal) : List OldVal := settleOlds (fun o => o.touches (c.map (·.1))) [] l
/-- Bytes written; every agent sees them from now on. -/
def State.putCells (s : State) (c : List (Nat × Byte)) : State :=
  { s with mem := Memory.putAll s.mem c, olds := forgetCells c s.olds }
def State.wrBytes (s : State) (k : Nat) (b : List Byte) : State := s.putCells (cellsAt k b)
def State.wr (s : State) (k n v : Nat) : State := s.wrBytes k (bytesLE v n)

/-! ## Bit fields -/

/-- Bits [lo+n-1 : lo] as a number. -/
def bitsOf {w : Nat} (x : BitVec w) (lo n : Nat) : Nat := (x.toNat >>> lo) % 2 ^ n

/-- `x` with bits [lo+n-1 : lo] replaced by `v`. -/
def setBits {w : Nat} (x : BitVec w) (lo n v : Nat) : BitVec w :=
  (x &&& ~~~(BitVec.ofNat w ((2 ^ n - 1) <<< lo))) ||| BitVec.ofNat w ((v % 2 ^ n) <<< lo)

/-- `SignExtend` of the low `n` bits (00: R11). -/
def sxt (x n : Nat) : Int := if n = 0 then 0 else
  let y := x % 2 ^ n
  if y < 2 ^ (n - 1) then y else (y : Int) - 2 ^ n

/-- `Wrap64` (00: R11). -/
def wrap64 (v : Int) : Word := BitVec.ofInt 64 v

/-! ## The home of a line (03: R88) -/

/-- `h` of a physical address: die in bits [7:6], slice in bits [5:0]. -/
def homeHash (pa : Nat) : Nat :=
  let l := pa / 128
  l % 256 ^^^ l / 2 ^ 8 % 256 ^^^ l / 2 ^ 16 % 256 ^^^ l / 2 ^ 24 % 256 ^^^ l / 2 ^ 32 % 256 ^^^ l / 2 ^ 40 % 32
def homeDie (pa : Nat) : Nat := homeHash pa / 64
def homeSlice (pa : Nat) : Nat := homeHash pa % 64
/-- The tile where the home slice of a physical address sits: tile 4s of its die. -/
def homeTile (pa : Nat) : Nat := homeDie pa * 256 + 4 * homeSlice pa

/-- A tick of CYCLE on the arithmetic clock: an edge in every tick, in three of four at 0.9 GHz, in one of two at 0.6 GHz (00: R3). -/
def State.clockTick (s : State) : State :=
  let a := s.edgeAcc + (if s.power == 0 then 4 else if s.power == 1 then 3 else 2)
  { s with edges := s.edges + a / 4, edgeAcc := a % 4, edge := 4 ≤ a }

/-- The arithmetic clock in quarters of an edge: a tick of CYCLE adds 4, 3 or 2 of them, so `n` edges take `n`, 4/3 or 2 times as many
ticks, rounded up, whatever the power state does meanwhile (17: R373). -/
def State.prog (s : State) : Nat := 4 * s.edges + s.edgeAcc
/-- What `prog` has reached `n` edges from now. -/
def State.engAfter (s : State) (n : Nat) : Nat := s.prog + 4 * n

/-! ## Free values (log 2) -/

def State.free (s : State) (k : Nat) : Word := Config.free s.freeCtr k
def State.freeBit (s : State) (k : Nat) : Bool := (s.free k).getLsbD 0

/-! ## Strands, tiles and the agent that moves -/

def State.strand (s : State) (sid : Nat) : Strand := Tbl.get s.strands sid .empty
def State.setStrand (s : State) (sid : Nat) (x : Strand) : State := { s with strands := Tbl.put s.strands sid x }
def State.updStrand (s : State) (sid : Nat) (f : Strand → Strand) : State := s.setStrand sid (f (s.strand sid))
def State.tile (s : State) (t : Nat) : Tile := Tbl.get s.tiles t .empty
def State.setTile (s : State) (t : Nat) (x : Tile) : State := { s with tiles := Tbl.put s.tiles t x }
def State.updTile (s : State) (t : Nat) (f : Tile → Tile) : State := s.setTile t (f (s.tile t))

/-- A service core's agent (17: R353). -/
def isCore (a : Agent) : Bool := 4096 ≤ a.sid
def coreNo (a : Agent) : Nat := a.sid - 4096
/-- Tile number of a strand (18: R379 `TILE`). -/
def sidTile (sid : Nat) : Nat := sid % 1024
def sidSlot (sid : Nat) : Nat := sid / 1024 % 4
/-- The die of a strand, or of a service core. -/
def sidDie (sid : Nat) : Nat := if 4096 ≤ sid then (sid - 4096) / 4 else sidTile sid / 256
def tileX (t : Nat) : Nat := t % 16
def tileY (t : Nat) : Nat := t / 16 % 16
/-- Columns 3, 7, 11 and 15 hold X-tiles (00: R4). -/
def isXTile (t : Nat) : Bool := tileX t % 4 == 3
/-- Scratchpad bytes: 1 MiB or 3 MiB (02: R53). -/
def spadBytes (t : Nat) : Nat := if isXTile t then 0x300000 else 0x100000
/-- Service core of the tile's quadrant (00: R4). -/
def quadCore (t : Nat) : Nat := t / 256 * 4 + 2 * (if 8 ≤ tileY t then 1 else 0) + (if 8 ≤ tileX t then 1 else 0)
/-- Cluster of the tile within the module (00: R4). -/
def clusterOf (t : Nat) : Nat := t / 256 * 16 + 4 * (tileY t / 4) + tileX t / 4

/-- The strand, or service core, whose instruction executes. -/
def State.sid (s : State) : Nat := s.cur.sid
def State.me (s : State) : Strand := s.strand s.cur.sid
def State.updMe (s : State) (f : Strand → Strand) : State := s.updStrand s.cur.sid f
def State.core (s : State) : StrandCore := s.me.core
def State.updCore (s : State) (f : StrandCore → StrandCore) : State := s.updMe (fun x => { x with core := f x.core })
def State.updCoreOf (s : State) (sid : Nat) (f : StrandCore → StrandCore) : State :=
  s.updStrand sid (fun x => { x with core := f x.core })

def StrandCore.seq (c : StrandCore) (e : Bool) : Seq := if e then c.e else c.a
def StrandCore.setSeq (c : StrandCore) (e : Bool) (q : Seq) : StrandCore := if e then { c with e := q } else { c with a := q }
/-- The sequencer that executes. -/
def State.seq (s : State) : Seq := s.core.seq s.cur.e
def State.setSeq (s : State) (q : Seq) : State := s.updCore (fun c => c.setSeq s.cur.e q)
def State.updSeq (s : State) (f : Seq → Seq) : State := s.setSeq (f s.seq)
def State.updSeqOf (s : State) (a : Agent) (f : Seq → Seq) : State :=
  s.updCoreOf a.sid (fun c => c.setSeq a.e (f (c.seq a.e)))

/-- A pod access is that of strand `t`. -/
def PodAcc.of (a : PodAcc) (t : Strand) : Bool := !a.dead && a.rk == t.rk && a.inv == t.inv && a.ctile == t.ctile

/-! ## Registers (02: R57-R59) -/

/-- Residue of a value: the value modulo 15 (02: R59). -/
def residue (v : Word) : BitVec 4 := BitVec.ofNat 4 (v.toNat % 15)

def Seq.gGet (q : Seq) (r : BitVec 5) : Word := if r = 0 then 0 else q.g.get r.toFin
def Seq.gPut (q : Seq) (r : BitVec 5) (v : Word) : Seq :=
  if r = 0 then q else { q with g := q.g.set r.toNat v r.isLt, res := q.res.set r.toNat (residue v) r.isLt }
/-- The register's residue bits agree with its value. -/
def Seq.resOk (q : Seq) (r : BitVec 5) : Bool := r == 0 || q.res.get r.toFin == residue (q.g.get r.toFin)

/-- g register of the executing sequencer; g0 reads 0 (02: R57). -/
def State.g (s : State) (r : BitVec 5) : Word := s.seq.gGet r
/-- Write to it; a write to g0 is discarded. The residue bits are those of the value (09: R205). -/
def State.gPut (s : State) (r : BitVec 5) (v : Word) : State := s.updSeq (fun q => q.gPut r v)

def State.v (s : State) (r : BitVec 5) : VWord := s.core.v.get r.toFin
def State.vPut (s : State) (r : BitVec 5) (x : VWord) : State :=
  s.updCore (fun c => { c with v := c.v.set r.toNat x r.isLt })
/-- k register; k0 reads all ones (02: R57). -/
def State.k (s : State) (r : BitVec 3) : BitVec 128 := if r = 0 then BitVec.allOnes 128 else s.core.k.get r.toFin
def State.kPut (s : State) (r : BitVec 3) (x : BitVec 128) : State :=
  if r = 0 then s else s.updCore (fun c => { c with k := c.k.set r.toNat x r.isLt })

/-- `ETC` saturates (02: R57). -/
def satInc32 (x : BitVec 32) : BitVec 32 := if x = BitVec.allOnes 32 then x else x + 1
def State.etcInc (s : State) (sid : Nat) : State := s.updCoreOf sid (fun c => { c with etc := satInc32 c.etc })

/-- A 48-bit counter with its `OVF` flag in bit 48, and, where it is 50 bits wide, the model's note in bit 49 that it wrapped in
this cycle (20: R417). -/
def ctrAdd {w : Nat} (c : BitVec w) (n : Nat) : BitVec w :=
  let v := bitsOf c 0 48 + n
  BitVec.ofNat w ((if 2 ^ 48 ≤ v then 2 ^ 49 else bitsOf c 49 1 * 2 ^ 49) + (if 2 ^ 48 ≤ v || c.getLsbD 48 then 2 ^ 48 else 0) + v % 2 ^ 48)
/-- A write to a writable one, after the increments of its cycle. -/
def ctrWrite (c : BitVec 50) (x : Word) : BitVec 50 :=
  BitVec.ofNat 50 (bitsOf c 49 1 * 2 ^ 49 + (if c.getLsbD 48 && !(x.getLsbD 48 && !c.getLsbD 49) then 2 ^ 48 else 0) + bitsOf x 0 48)
/-- The next cycle: no wrap yet. -/
def ctrTick (c : BitVec 50) : BitVec 50 := setBits c 49 1 0
/-- What a read returns. -/
def ctrRead {w : Nat} (c : BitVec w) : Word := BitVec.ofNat 64 (bitsOf c 0 49)

/-! ## Pitches -/

def State.pitch (s : State) (p : Nat) : Pitch := Tbl.get s.pitches p .empty
def State.updPitch (s : State) (p : Nat) (f : Pitch → Pitch) : State :=
  { s with pitches := Tbl.put s.pitches p (f (s.pitch p)) }
/-- `PSTATE`: 0 FREE, 1 ACTIVE, 2 ENDING, 3 SET (17: R354, 20: R401). -/
def State.pstate (s : State) (p : Nat) : Nat := bitsOf (s.pitch p).pctl 0 2
/-- Member `m` of a set, when its valid bit is set (20: R402). -/
def Pitch.member (x : Pitch) (m : Nat) : Option Nat :=
  let r := if m < 4 then x.ssmem0 else x.ssmem1
  if r.getLsbD (m % 4) then some (bitsOf r (12 * (m % 4) + 12) 12) else none
def State.setMembers (s : State) (t : Nat) : List Nat := (List.range 8).filterMap (s.pitch t).member
/-- Whether pitch `p` is `t`, or a valid member of the set `t` (20: R402). -/
def State.tagAdmits (s : State) (t p : Nat) : Bool := t == p || (s.pstate t == 3 && (s.setMembers t).contains p)

/-! ## Translation (18: R374-R377) -/

/-- Cause codes (07: R193). -/
abbrev Cause := BitVec 8
def cXlateMiss : Cause := 0x10
def cXlatePerm : Cause := 0x11
def cPtagViolation : Cause := 0x12
def cPeerUnreachable : Cause := 0x13
def cPeerReset : Cause := 0x14
def cBounds : Cause := 0x15
def cAlign : Cause := 0x08
def cPromiseMiss : Cause := 0x20
def cAccBusy : Cause := 0x21
def cBarTimeout : Cause := 0x22
def cChanError : Cause := 0x23
def cSwTrap : Cause := 0x30
def cBreak : Cause := 0x31
def cStep : Cause := 0x38
def cPreempt : Cause := 0x40
def cUncorrectable : Cause := 0x41
def cRate : Cause := 0x42
def cResidue : Cause := 0x43

/-- What an access needs of a leaf (18: R375). -/
structure Need where
  r : Bool
  w : Bool
  x : Bool
  deriving DecidableEq, Repr
def Need.load : Need := ⟨true, false, false⟩
def Need.store : Need := ⟨false, true, false⟩
def Need.atomic : Need := ⟨true, true, false⟩
def Need.fetch : Need := ⟨false, false, true⟩

/-- The strand control window: 1,024 tiles of 4 KiB (18: R380). -/
def scwBase : Nat := 0xFFF0000000000
def scwEnd : Nat := scwBase + 1024 * 4096

/-- `KeyUsable` (18: R375). -/
def State.keyUsable (s : State) (p k : Nat) : Bool := k == p || p == 0 || (s.pstate k == 3 && (s.setMembers k).contains p)

/-- An entry as the page-walk engine loads it: a poisoned line delivers zeros (03: R86, 20: R403). -/
def State.tableWord (s : State) (a : Nat) : Word := if s.poison.contains (a / 128) then 0 else BitVec.ofNat 64 (s.rd a 8)

/-- The walk of 18: R375 from level `l` with table `t`: the leaf's base, size and entry, or the fault. -/
def State.walk (s : State) (va t l : Nat) : Nat → Except Cause (Nat × Nat × Word)
  | 0 => .error cXlatePerm
  | fuel + 1 =>
    let e := s.tableWord (t + 8 * ((va >>> (46 - 10 * (l - 1))) % 1024))
    if !e.getLsbD 0 then .error cXlateMiss
    else if bitsOf e 8 5 != 0 || bitsOf e 4 2 == 3 then .error cXlatePerm
    else if bitsOf e 1 3 == 0 then
      if l == 4 then .error cXlatePerm else s.walk va (bitsOf e 13 39 * 8192) (l + 1) fuel
    else
      let size := 2 ^ (16 + 10 * (4 - l))
      let base := bitsOf e 13 39 * 8192
      if l == 1 || base % size != 0 then .error cXlatePerm else .ok (base, size, e)

/-- The entry of a poisoned line that the walk meets. -/
def State.walkPoison (s : State) (va t l : Nat) : Nat → Option Nat
  | 0 => none
  | fuel + 1 =>
    let a := t + 8 * ((va >>> (46 - 10 * (l - 1))) % 1024)
    if s.poison.contains (a / 128) then some a
    else
      let e := s.tableWord a
      if e.getLsbD 0 && bitsOf e 1 3 == 0 && l < 4 then s.walkPoison va (bitsOf e 13 39 * 8192) (l + 1) fuel else none

/-- The pages at which Casquin maps the route table with `RTEPOCH`, and the destination table, for pitch 0: at their own addresses, readable and
writable, whatever pitch 0's tables say (19: R396, R400; 21: R427; log 73). -/
def ownPage (p va : Nat) : Option (Word × Nat × Nat) :=
  if p == 0 && (va / 65536 == routeBase / 65536 || (destBase ≤ va && va < destBase + 0x400000)) then
    some (BitVec.ofNat 64 (va / 65536 * 65536 + 7), va / 65536 * 65536, 65536)
  else none

/-- The leaf for `va`, as an entry whose ADDR is the base of the 64 KiB page that holds it, from the tables. -/
def State.leafNow (s : State) (p va : Nat) : Except Cause (Word × Nat × Nat) :=
  let root := (s.pitch p).proot.toNat
  if let some l := ownPage p va then .ok l
  else if root == 0 then .error cXlateMiss
  else match s.walk va root 1 4 with
    | .error c => .error c
    | .ok (base, size, e) => .ok (setBits e 13 39 ((base + va % size / 65536 * 65536) / 8192), base, size)

/-- The leaf an access uses: the tables', or an older cached one that no TLBINV has dropped; which of the two is not promised
(18: R376), so a free bit chooses. -/
def State.leaf (s : State) (die p va : Nat) : Except Cause (Word × Nat × Nat) :=
  let now := s.leafNow p va
  match s.tlb.find? (fun t => t.die == die && t.ptag.toNat == p && t.page == va / 65536) with
  | none => now
  | some t =>
    let old : Except Cause (Word × Nat × Nat) :=
      .ok (t.leaf, bitsOf t.leaf 13 39 * 8192 - va % t.size / 65536 * 65536, t.size)
    if s.freeBit (va / 65536) then old else now

/-- `Translate` (18: R375): physical address, leaf. -/
def State.translate (s : State) (die p va : Nat) (n : Need) : Except Cause (Nat × Word) :=
  match s.leaf die p va with
  | .error c => .error c
  | .ok (e, base, size) =>
    let r := e.getLsbD 1; let w := e.getLsbD 2; let x := e.getLsbD 3
    if w && !r || n.r && !r || n.w && !w || n.x && !x then .error cXlatePerm
    else if e.getLsbD 7 && !(s.pins.any (fun g => g.1 == base / 0x10000000)) then .error cXlatePerm
    else if !s.keyUsable p (bitsOf e 52 12) then .error cPtagViolation
    else if base < scwEnd && scwBase < base + size then .error cXlatePerm
    else .ok (bitsOf e 13 39 * 8192 + va % 65536, e)

def ordOfLeaf (e : Word) : Ord3 := if bitsOf e 4 2 == 1 then .strict else if bitsOf e 4 2 == 2 then .loose else .release

/-- The parts of `[va, va+n)`, split at page boundaries (03: R93); the first fault in ascending address otherwise. -/
def State.globalParts (s : State) (die p : Nat) (nd : Need) (va n : Nat) : Nat → Except (Cause × Word) (List Part)
  | 0 => .ok []
  | fuel + 1 =>
    if n == 0 then .ok [] else
    match s.translate die p va nd with
    | .error c => .error (c, BitVec.ofNat 64 va)
    | .ok (pa, e) =>
      let m := min n (65536 - va % 65536)
      match s.globalParts die p nd (va + m) (n - m) fuel with
      | .error x => .error x
      | .ok r => .ok (⟨pa, m, ordOfLeaf e, some (BitVec.ofNat 12 (bitsOf e 52 12))⟩ :: r)

/-- What becomes of an address range (03: R83-R87). -/
inductive Res where
  | ok (parts : List Part)
  | bad                       -- error response (03: R86)
  | fault (c : Cause) (addr : Word)
  deriving DecidableEq, Repr

def spaceOf (va : Word) : Nat := bitsOf va 56 8
def offOf (va : Word) : Nat := bitsOf va 0 56

/-- The space check of 03: R87: a BOUNDS fault of a walker, or of a service core (17: R353). -/
def State.spaceFault (_s : State) (sid : Nat) (va : Word) (n : Nat) : Bool :=
  if 4096 ≤ sid then
    if spaceOf va == 0 then 0x10000000000000 < offOf va + n
    else spaceOf va != 0xFE || 0x100000 < offOf va + n
  else
    if spaceOf va == 0 then 0x100000000000000 < offOf va + n else spaceOf va != 0xFE && spaceOf va != 0xFD

/-- Local validity (03: R84). -/
def Strand.localOk (t : Strand) (o n : Nat) : Bool := t.base ≤ o && o + n ≤ t.base + t.size

/-- The tile and allocation base of camp tile `c` of a strand's invocation (03: R85). -/
def State.campTile (s : State) (t : Strand) (c : Nat) : Option (Nat × Nat) :=
  match (Tbl.get s.recs t.rk .empty).invs |>.find? (fun p => p.1 == t.inv) with
  | none => none
  | some (_, i) =>
    match i.tiles[c]?, i.bases[c]? with
    | some a, some b => some (a, b)
    | _, _ => none

/-- Resolution of `n` bytes at `va` for a strand or service core, after the space check (10: R226). -/
def State.resolve (s : State) (sid : Nat) (va : Word) (n : Nat) (nd : Need) : Res :=
  let t := s.strand sid
  if s.spaceFault sid va n then .fault cBounds va
  else if 4096 ≤ sid then
    if spaceOf va == 0 then .ok [⟨offOf va, n, .release, some 0⟩]
    else .ok [⟨sramKey (sid - 4096) (offOf va), n, .release, none⟩]
  else if spaceOf va == 0 then
    match s.globalParts (sidDie sid) t.ptag.toNat nd (offOf va) n (n / 65536 + 2) with
    | .error (c, a) => .fault c a
    | .ok p => .ok p
  else if spaceOf va == 0xFE then
    if t.localOk (offOf va) n then .ok [⟨scratchKey (sidTile sid) (offOf va), n, .release, none⟩] else .bad
  else
    let c := bitsOf va 24 8
    let o := bitsOf va 0 24
    if bitsOf va 32 24 != 0 || t.campW * t.campH ≤ c || t.size < o + n then .bad
    else if c == t.ctile then .ok [⟨scratchKey (sidTile sid) (t.base + o), n, .release, none⟩]
    else match s.campTile t c with
      | some (tile, b) => .ok [⟨scratchKey tile (b + o), n, .release, none⟩]
      | none => .bad

/-- Physical lines of a part. -/
def Part.lines (p : Part) : List Nat :=
  match p.slot with
  | none => []
  | some _ => (List.range ((p.key % 128 + p.len + 127) / 128)).map (fun i => p.key / 128 + i)

/-- Line `l` stands in the L2 or deck under another key slot than `k`. -/
def State.otherKey (s : State) (l : Nat) (k : BitVec 12) : Bool :=
  match Tbl.find s.lineRes l with
  | some k' => k != k'
  | none => false

/-- Line `l` was written under another key slot than `k`. -/
def State.foreign (s : State) (l : Nat) (k : BitVec 12) : Bool :=
  match Tbl.find s.lineKey l with
  | some k' => k != k'
  | none => false

/-- Why the lines of a part refuse an access: 5 poisoned, or behind a channel that is out of service (17: R369; what such an access does is not
stated: DESIGN CHOICE, log 34), 6 another key slot is recorded in the L2 or deck line, which a free bit
decides: a line that has left both is filled anew (18: R375, 20: R403, R416). A store that writes a whole poisoned line is
accepted there. -/
def State.lineRefusal (s : State) (store : Bool) (p : Part) : Option Nat :=
  let bad := p.lines.filterMap (fun l =>
    if s.poison.contains l && !(store && p.key ≤ 128 * l && 128 * l + 128 ≤ p.key + p.len) || (p.slot.isSome && s.badChans.contains (Config.channelOf l)) then some 5
    else match p.slot with
      | some k => if s.otherKey l k && s.freeBit (2 ^ 63 + l) then some 6 else none
      | none => none)
  bad.head?

def State.partsRefusal (s : State) (store : Bool) (ps : List Part) : Option Nat := (ps.filterMap (s.lineRefusal store)).head?

/-- Byte `k` decrypted under a slot that it was not written under: unrelated, hence free (18: R375). -/
def State.scrambled (s : State) (k : Nat) : Byte := (s.free (2 ^ 64 + k)).setWidth 8

/-- Byte `k` as an access through a leaf of key slot `slot` finds it. -/
def State.byteUnder (s : State) (slot : Option (BitVec 12)) (k : Nat) : Byte :=
  match slot with
  | some x => if s.foreign (k / 128) x then s.scrambled k else s.byte k
  | none => s.byte k

def State.freeLine (s : State) (l : Nat) : List Byte := (List.range 128).map (fun i => s.scrambled (128 * l + i))

/-- A line reached is filled under key slot `k`; once it is written, it stands under that slot as a whole. -/
def State.touchLine (s : State) (store : Bool) (k : BitVec 12) (l : Nat) : State :=
  let s := { s with lineRes := Tbl.put s.lineRes l k }
  if store then
    let s := if s.foreign l k then s.putCells (cellsAt (128 * l) (s.freeLine l)) else s
    { s with lineKey := Tbl.put s.lineKey l k }
  else s

/-- The lines of an access record the key slots they are filled under (18: R375). -/
def State.touch (s : State) (store : Bool) (ps : List Part) : State :=
  ps.foldl (fun s p =>
    match p.slot with
    | none => s
    | some k => p.lines.foldl (fun s l => s.touchLine store k l) s) s

/-- Slot `p` gets a fresh key: what was written under it reads as unrelated bytes (18: R375). -/
def State.freshKey (s : State) (p : Nat) : State :=
  let ls := (s.lineKey.filter (fun x => x.2.toNat == p)).map (·.1)
  let s := { s with lineRes := s.lineRes.filter (fun x => x.2.toNat != p) }
  ls.foldl (fun s l => { s.putCells (cellsAt (128 * l) (s.freeLine l)) with lineKey := Tbl.del s.lineKey l }) s

/-- The poisoned lines that a store of a part writes whole. -/
def State.wholePoison (s : State) (p : Part) : List Nat :=
  s.poison.filter (fun l => p.lines.contains l && p.key ≤ 128 * l && 128 * l + 128 ≤ p.key + p.len)
/-- A store that writes a poisoned line whole clears the poison (20: R403). -/
def State.unpoison (s : State) (ps : List Part) : State :=
  { s with poison := s.poison.filter (fun l => !(ps.any (fun p => (s.wholePoison p).contains l))) }

/-! ## Logs and events -/

def State.coreRegs (s : State) (n : Nat) : Core := Tbl.get s.cores n .empty
def State.updCoreRegs (s : State) (n : Nat) (f : Core → Core) : State := { s with cores := Tbl.put s.cores n (f (s.coreRegs n)) }

/-- A service core that sleeps in `IDLE` wakes (13: R335). -/
def State.wakeIdle (s : State) (n : Nat) : State :=
  s.updSeqOf ⟨4096 + n, false⟩ (fun q => if q.wait == some .idle then { q with woken := true } else q)

/-- Post one 64-byte event to a service core's ring; while the ring is full it is held (17: R355). -/
def State.postCore (s : State) (n : Nat) (ev : List Byte) : State :=
  let c := s.coreRegs n
  let size := 2 ^ c.evqsize.toNat
  if !c.held.isEmpty || (c.evqtail.toNat + 1) % size == c.evqhead.toNat % size then
    s.updCoreRegs n (fun c => { c with held := c.held ++ [ev] })
  else
    ((s.wrBytes (c.evqbase.toNat + c.evqtail.toNat % size * 64) ev).updCoreRegs n
      (fun c => { c with evqtail := BitVec.ofNat 64 ((c.evqtail.toNat + 1) % size) })).wakeIdle n

/-- Held events enter the ring as it has room. -/
def State.flushHeld (s : State) (n : Nat) : Nat → State
  | 0 => s
  | fuel + 1 =>
    let c := s.coreRegs n
    let size := 2 ^ c.evqsize.toNat
    match c.held with
    | [] => s
    | ev :: r =>
      if (c.evqtail.toNat + 1) % size == c.evqhead.toNat % size then s
      else
        (((s.wrBytes (c.evqbase.toNat + c.evqtail.toNat % size * 64) ev).updCoreRegs n
          (fun c => { c with evqtail := BitVec.ofNat 64 ((c.evqtail.toNat + 1) % size), held := r })).wakeIdle n).flushHeld n fuel

/-- Bytes padded with zeros to `n`. -/
def padTo (n : Nat) (b : List Byte) : List Byte := b ++ List.replicate (n - b.length) 0

/-- A service-core event: kind, pitch, CYCLE, data from 0x10 (17: R355). -/
def State.coreEvent (s : State) (n kind ptag : Nat) (data : List Byte) : State :=
  s.postCore n (padTo 64 (bytesLE kind 2 ++ bytesLE ptag 2 ++ bytesLE 0 4 ++ bytesLE s.cycle.toNat 8 ++ data))

/-- Write bytes at a virtual address as a pitch, on a die; `none` when it faults or a line refuses. -/
def State.wrAsPitch (s : State) (die p va : Nat) (b : List Byte) : Option State :=
  match s.globalParts die p .store va b.length (b.length / 65536 + 2) with
  | .error _ => none
  | .ok ps =>
    if (s.partsRefusal true ps).isSome then none
    else
      let keys := ps.flatMap (fun p => (List.range p.len).map (fun i => p.key + i))
      some (((s.touch true ps).unpoison ps).putCells (keys.zip b))

/-- Append to a pitch's ring log of `2^10` entries (20: R414): `n` is the next index with the drop count above bit 10. -/
def ringNext (n : Word) : Word := setBits n 0 10 (bitsOf n 0 10 + 1)
def ringDrop (n : Word) : Word := setBits n 10 48 (bitsOf n 10 48 + 1)

/-- Posts to a tag's logs reach them: while it is ACTIVE, or a set (20: R406, step 5). -/
def State.logsOpen (s : State) (p : Nat) : Bool := s.pstate p == 1 || s.pstate p == 3

/-- Event `code` in the pitch's event log (20: R414, R415). -/
def State.evLog (s : State) (die p code tile : Nat) (tref d0 d1 : Word) : State :=
  let x := s.pitch p
  let e := padTo 64 (bytesLE code 2 ++ bytesLE tile 2 ++ bytesLE 0 4 ++ bytesLE s.cycle.toNat 8 ++ bytesLE tref.toNat 8 ++
    bytesLE d0.toNat 8 ++ bytesLE d1.toNat 8)
  let dropped := s.updPitch p (fun x => { x with pevlogn := ringDrop x.pevlogn })
  if x.pevlog == 0 || !s.logsOpen p then dropped
  else match s.wrAsPitch die p (offOf x.pevlog + 64 * bitsOf x.pevlogn 0 10) e with
    | some s' => s'.updPitch p (fun x => { x with pevlogn := ringNext x.pevlogn })
    | none => dropped

/-- An entry in the pitch's violation log (20: R414, R416). -/
def State.violLog (s : State) (die p vkind tile : Nat) (addr tref : Word) : State :=
  let x := s.pitch p
  let e := padTo 32 (bytesLE vkind 2 ++ bytesLE tile 2 ++ bytesLE 0 4 ++ bytesLE addr.toNat 8 ++ bytesLE s.cycle.toNat 8 ++
    bytesLE tref.toNat 8)
  let dropped := s.updPitch p (fun x => { x with pvioln := ringDrop x.pvioln })
  if x.pviol == 0 || !s.logsOpen p then dropped
  else match s.wrAsPitch die p (offOf x.pviol + 32 * bitsOf x.pvioln 0 10) e with
    | some s' => s'.updPitch p (fun x => { x with pvioln := ringNext x.pvioln })
    | none => dropped

/-- `TILE` of a strand in logs and records: tile number and slot. -/
def tileField (sid : Nat) : Nat := sid % 4096

/-- A strand's event and violation entries. -/
def State.evLogOf (s : State) (sid code : Nat) (d0 d1 : Word) : State :=
  s.evLog (sidDie sid) (s.strand sid).ptag.toNat code (tileField sid) (s.strand sid).tref d0 d1
def State.violOf (s : State) (sid vkind : Nat) (addr : Word) : State :=
  s.violLog (sidDie sid) (s.strand sid).ptag.toNat vkind (tileField sid) addr (s.strand sid).tref

/-- The error response of 03: R86: `ETC` += 1 and the address logged. -/
def State.errorResponse (s : State) (sid vkind : Nat) (addr : Word) : State := (s.etcInc sid).violOf sid vkind addr

/-! ## Faults and traps (13: R334, 18: R379) -/

/-- Access kinds of a fault record (18: R379). -/
def akLoad : Nat := 0
def akStore : Nat := 1
def akAtomic : Nat := 2
def akFetch : Nat := 3
def akCopySrc : Nat := 4
def akCopyDst : Nat := 5
def akStaging : Nat := 6
def akTrap : Nat := 7

/-- The fault record of 18: R379. -/
def faultBytes (cycle : Word) (ptag : Nat) (c : Cause) (who tile : Nat) (addr : Word) (cnt : List Nat) (pcline tref : Word)
    (ak inv : Nat) : List Byte :=
  padTo 64 (bytesLE 1 2 ++ bytesLE ptag 2 ++ bytesLE c.toNat 1 ++ bytesLE who 1 ++ bytesLE tile 2 ++ bytesLE cycle.toNat 8 ++
    bytesLE addr.toNat 8 ++ cnt.flatMap (fun n => bytesLE n 4) ++ bytesLE pcline.toNat 8 ++ bytesLE tref.toNat 8 ++
    bytesLE ak 1 ++ bytesLE 0 3 ++ bytesLE inv 4)

/-- Post a strand's fault record to its quadrant's service core. A service core's own goes to its own ring (log 7). -/
def State.faultRecord (s : State) (a : Agent) (c : Cause) (walker : Nat) (addr : Word) (cnt : List Nat) (ak : Nat) : State :=
  let t := s.strand a.sid
  let core := if isCore a then coreNo a else quadCore (sidTile a.sid)
  s.postCore core (faultBytes s.cycle t.ptag.toNat c (walker + if a.e then 8 else 0) (tileField a.sid) addr cnt
    (t.core.seq a.e).pc t.tref ak t.inv)

/-- Park a strand (18: R380 `SCSTATE` 2). -/
def State.park (s : State) (sid : Nat) (p : Park) : State := s.updStrand sid (fun t => { t with scstate := 2, park := p })

/-- A fault that a save or a park finds pending (18: R383, R386). -/
def State.setPend (s : State) (c : Cause) (arg : Word) : State :=
  s.updMe (fun t => { t with pendCause := c, pendArg := arg, pendWho := if s.cur.e then 8 else 0 })

/-- The entry in the violation log for a page walk of a pitch that met a poisoned line (20: R403). -/
def State.logWalk (s : State) (die p : Nat) (va : Word) (tile : Nat) (tref : Word) : State :=
  match s.walkPoison (offOf va) (s.pitch p).proot.toNat 1 4 with
  | some a => s.violLog die p 5 tile (BitVec.ofNat 64 a) tref
  | none => s
def State.logWalkOf (s : State) (sid : Nat) (c : Cause) (va : Word) : State :=
  if c == cXlateMiss && sid < 4096 then
    s.logWalk (sidDie sid) (s.strand sid).ptag.toNat va (tileField sid) (s.strand sid).tref
  else s

/-- A w0 fault of the executing instruction: nothing of it is performed; record and park (10: R226, 02: R71). -/
def State.w0Fault (s : State) (c : Cause) (addr : Word) (ak : Nat) : State :=
  let s := ((s.logWalkOf s.sid c addr).faultRecord s.cur c 0 addr [0, 0, 0, 0] ak).setPend c addr
  if s.me.saveReq.isSome then s else s.park s.sid .w0

/-- Enter a block: it is fetched when the sequencer next moves (07: R184). -/
def Seq.enter (q : Seq) (line : Word) : Seq :=
  { q with pc := line &&& ~~~0x3F#64, fetched := false, block := [], idx := 0, pending := none, wait := none, woken := false, back := false }

def pendWord (p : Option Word) : Word :=
  match p with
  | none => 0
  | some t => t ||| 1

def pendOf (w : Word) : Option Word := if w.getLsbD 0 then some (w &&& ~~~0x3F#64) else none

/-- The trap state that `TakeTrap` records, and the entry to the handler (13: R334; 09: R213). -/
def Seq.takeTrap (q : Seq) (c : Cause) (arg : Word) (resume : Nat) (pending : Option Word) : Seq :=
  { (q.enter q.trapVec) with
    tcause := BitVec.ofNat 64 (c.toNat + 256), targ := arg, trline := q.pc, tridx := BitVec.ofNat 64 resume,
    trpend := pendWord pending }

/-- `TakeTrap` (13: R334) on the executing sequencer, resuming at index `resume`: one operation for every trap bound for
`TRAPVEC`. In a handler, or without one, the strand parks with a fault record and the trap registers stay as they are; while it is
being saved the trap stays pending (18: R383). In both cases the sequencer keeps the resume index (DEDUCED, log 19). -/
def State.takeTrapAt (s : State) (c : Cause) (arg : Word) (resume : Nat) : State :=
  let q := s.seq
  let held := s.updSeq (fun q => { q with idx := resume, fetched := false, wait := none, woken := false })
  if s.me.saveReq.isSome then held.setPend c arg
  else if q.tcause.getLsbD 8 || q.trapVec == 0 then
    ((held.faultRecord s.cur c 0 arg [0, 0, 0, 0] akTrap).setPend c arg).park s.sid (.trap c)
  else s.updSeq (fun q => q.takeTrap c arg resume q.pending)

/-- A trap of an instruction that counts as not executed (09: R213). -/
def State.trap (s : State) (c : Cause) (arg : Word) : State := s.takeTrapAt c arg s.seq.idx

/-- `TRAPRET` (13: R334): the return that `takeTrapAt` prepared. -/
def Seq.trapRet (q : Seq) : Seq :=
  { (q.enter q.trline) with
    tcause := q.tcause &&& ~~~0x100#64, idx := bitsOf q.tridx 0 8, pending := pendOf q.trpend, back := true }

/-! ## Moving on -/

/-- The sequencer has its instruction done: the next index, or at the block's end the next block (09: R207). -/
def Seq.adv (q : Seq) : Seq :=
  if q.idx + 1 < q.block.length then { q with idx := q.idx + 1, wait := none, woken := false }
  else q.enter (q.pending.getD q.next)

def State.adv (s : State) : State := s.updSeq Seq.adv

/-- The instruction blocks (02: R54): it stays, and waits for `w`. -/
def State.block (s : State) (w : Wait) : State := s.updSeq (fun q => { q with wait := some w, woken := false, waitAt := if q.wait.isSome then q.waitAt else s.cycle })

/-- The outcome of an instruction that has executed. -/
def done (s : State) : Host.Outcome State Fault Refusal := .next s.adv
/-- An outcome that leaves the sequencer where the state says. -/
def stay (s : State) : Host.Outcome State Fault Refusal := .next s

/-- Write a result register and go on. -/
def State.ret (s : State) (d : BitVec 5) (v : Word) : Host.Outcome State Fault Refusal := .next (s.gPut d v).adv

end Sys2Proof.Machine
end

