-- ==== Sys2Proof/Machine/Order.lean ====
section
/-! DEFINITION. Order.lean: which write a read returns (03: R98-R112). Memory always holds the newest write; `olds` holds the bytes that
writes on their way replace at their home, which an agent reads there until the write is performed, unless it happens before the read
(log 16). -/

namespace Sys2Proof.Machine

/-! ## Agents and scopes (03: R98) -/

/-- A strand as an agent; a service core, which only `PKG` and `POD` reach, has no tile. -/
def State.whoOf (s : State) (sid : Nat) : Who :=
  if 4096 ≤ sid then ⟨.strand sid, none, none, none⟩
  else ⟨.strand sid, some (sidTile sid), some ((s.strand sid).rk, (s.strand sid).inv), some (sidDie sid)⟩

/-- A copy engine that acts on a tile, for an invocation. -/
def copyWho (id tile rk inv : Nat) : Who := ⟨.copy id, some tile, some (rk, inv), some (tile / 256)⟩

def sameSome {α : Type} [DecidableEq α] (x y : Option α) : Bool := x.isSome && x == y

/-- `y` is among the agents of scope `sc` seen from `x`. -/
def scopeHas (sc : Nat) (x y : Who) : Bool :=
  match sc with
  | 0 => x.party == y.party
  | 1 => x.party == y.party || sameSome x.tile y.tile
  | 2 => x.party == y.party || sameSome x.inv y.inv
  | 3 => x.party == y.party || sameSome x.die y.die
  | _ => true

/-! ## Knowledge -/

/-- The write happens before what `p` does from now on. -/
def OldVal.knows (o : OldVal) (p : Party) : Bool := o.who.party == p || o.known.contains p

def addParty (p : Party) (l : List Party) : List Party := if l.contains p then l else p :: l

/-- `p` learns the write; by `all` its `LOOSE` loads do too. -/
def OldVal.learn (o : OldVal) (p : Party) (all : Bool) : OldVal :=
  { o with known := addParty p o.known, strong := if all then addParty p o.strong else o.strong }

def State.updOlds (s : State) (f : OldVal → OldVal) : State := { s with olds := s.olds.map f }

/-- A release at a scope marks the write. -/
def OldVal.mark (o : OldVal) (r : Rel) : OldVal := if o.rels.contains r then o else { o with rels := r :: o.rels }

/-- A release (03: R100, R101): every write of a covered kind that `x` made or knows is marked. -/
def State.releaseBy (s : State) (x : Who) (scope : Nat) (all : Bool) : State :=
  s.updOlds (fun o => if o.knows x.party && (all || !o.loose) then o.mark ⟨x, scope, all⟩ else o)

/-- A release covers the write whose scope reaches `y`, and `y`'s reaches it. -/
def OldVal.covered (o : OldVal) (y : Who) (scope : Nat) : Bool := o.rels.any (fun r => scopeHas r.scope r.who y && scopeHas scope y r.who)

/-- An acquire: `y` learns every write that a release has covered when each is within the other's scope. An acquire takes every such
release as one it synchronises with (log 16). -/
def State.acquireBy (s : State) (y : Who) (scope : Nat) (all : Bool) : State :=
  s.updOlds (fun o =>
    if o.covered y scope then o.learn y.party all
    else if all && o.knows y.party then o.learn y.party true else o)

/-- What `p` knows, `q` knows: an engine that acts for a strand, from its issue. -/
def State.passKnowledge (s : State) (p q : Party) : State := s.updOlds (fun o => if o.knows p then o.learn q true else o)

/-- Every agent of `ps` learns the writes to the bytes that `named` holds, where `seen` says so. -/
def State.learnCells (s : State) (ps : List Party) (named : Nat → Bool) (seen : OldVal → Bool) : State :=
  s.updOlds (fun o => if o.cells.any (fun c => named c.1) && seen o then ps.foldl (fun o p => o.learn p true) o else o)

/-- A new strand, a free copy number, a new record: it knows nothing yet, and has written nothing. -/
def State.newParty (s : State) (p : Party) : State :=
  s.updOlds (fun o => { o with
    who := if o.who.party == p then { o.who with party := .past } else o.who,
    known := o.known.filter (· != p), strong := o.strong.filter (· != p) })

/-! ## Writes and reads -/

/-- The writes that `hit` selects are performed at their home: from now on every read there returns them (03: R112). -/
def State.settle (s : State) (hit : OldVal → Bool) : State := { s with olds := settleOlds hit [] s.olds }
/-- Those to the bytes `ks`: what reads or writes them there indivisibly finds the newest write. -/
def State.settleKeys (s : State) (ks : List Nat) : State := s.settle (fun o => o.touches ks)
/-- Write `k` on its way is performed. -/
def State.settleAt (s : State) (k : Nat) : State :=
  match s.olds[k]? with
  | none => s
  | some o => s.settle (fun x => x == o)

/-- A write of one single-copy atomic unit leaves for its home. A free bit says whether it is there at once. -/
def State.putUnit (s : State) (who : Who) (loose : Bool) (c : List (Nat × Byte)) : State :=
  match c with
  | [] => s
  | (k, _) :: _ =>
    if s.freeBit (2 ^ 70 + k) then
      { s with mem := Memory.putAll s.mem c, olds := ⟨c.map (fun x => (x.1, s.byte x.1)), loose, who, [], [], []⟩ :: s.olds }
    else (s.settleKeys (c.map (·.1))).putCells c

def State.putUnits (s : State) (who : Who) (loose : Bool) (u : List (List (Nat × Byte))) : State :=
  u.foldl (fun s c => s.putUnit who loose c) s

/-- The bytes that a read of `ks` at home finds in place of memory's: those under a write on its way that is not its reader's own. Of two,
the older one's stand first. -/
def hiddenCells (own : OldVal → Bool) (ks : List Nat) : List Nat → List OldVal → List (Nat × Byte)
  | _, [] => []
  | shown, o :: r =>
    if own o then hiddenCells own ks (o.cells.map (·.1) ++ shown) r
    else hiddenCells own ks shown r ++ o.cells.filter (fun c => ks.contains c.1 && !shown.contains c.1)

/-- The agents `ps` (those that a merged copy reads for) may no longer read what was there before the write (03: R101, R112). -/
def OldVal.due (o : OldVal) (ps : List Party) (loose : Bool) : Bool := ps.any (fun p => (if loose then o.strong else o.known).contains p)
/-- Their own write, which they see before it is performed (03: R99, R112). -/
def OldVal.own (o : OldVal) (ps : List Party) : Bool := ps.contains o.who.party

/-- A read of a unit: the writes that its readers know are performed by then, and by free bits others (03: R112). What it finds in place of
memory's bytes. -/
def State.ghosts (s : State) (ps : List Party) (loose : Bool) (ks : List Nat) : List (Nat × Byte) × State :=
  match s.olds, ks with
  | [], _ => ([], s)
  | _, [] => ([], s)
  | _, k :: _ =>
    let s := s.settle (fun o => o.touches ks && !o.own ps && (o.due ps loose || s.freeBit (2 ^ 71 + k)))
    (hiddenCells (fun o => o.own ps) ks [] s.olds, s)

/-- The newest entry of a list for key `k`. -/
def cellOf (c : List (Nat × Byte)) (k : Nat) : Option Byte := (c.find? (fun x => x.1 == k)).map (·.2)

/-- The units in which a read of `[k, k+n)` is single-copy atomic, of `u` bytes aligned, and single bytes (03: R91). -/
def unitsOf (u : Nat) : Nat → Nat → Nat → List (List Nat)
  | 0, _, _ => []
  | fuel + 1, k, n =>
    if n == 0 then []
    else if k % u == 0 && u ≤ n then (List.range u).map (k + ·) :: unitsOf u fuel (k + u) (n - u)
    else [k] :: unitsOf u fuel (k + 1) (n - 1)

/-- A read of a part in its units: the bytes that differ from those in memory. -/
def State.readPart (s : State) (ps : List Party) (units : List (List Nat)) (loose : Bool) : List (Nat × Byte) × State :=
  match s.olds with
  | [] => ([], s)
  | _ => units.foldl (fun (x : List (Nat × Byte) × State) u =>
      let (b, s) := x.2.ghosts ps loose u
      (b ++ x.1, s)) ([], s)

/-- A read by an engine that has no knowledge of its own: the writes that a release within the scope covers come before it, of the others each
may. The bytes as it finds them. -/
def State.readAs (s : State) (me : Who) (scope : Nat) (ks : List Nat) : List Byte × State :=
  let s := s.settle (fun o => o.touches ks && (o.covered me scope || s.freeBit (2 ^ 71 + (o.cells.map (·.1)).headD 0)))
  let c := hiddenCells (fun _ => false) ks [] s.olds
  (ks.map (fun k => (cellOf c k).getD (s.byte k)), s)

/-- One that has waited for a full bit at its tile (03: R106, R107). -/
def State.engineRead (s : State) (tile k n : Nat) : List Byte × State :=
  s.readAs ⟨.past, some tile, none, some (tile / 256)⟩ 1 ((List.range n).map (k + ·))

end Sys2Proof.Machine
end

