-- ==== Sys2Proof/Machine/Operands.lean ====
section
/-! DEFINITION. Operands.lean: every operand form: immediates and addresses, loads and stores of a strand with its pending
stores and the scalar read buffer, vector elements under predication, queue entries. -/

namespace Sys2Proof.Machine

/-! ## Immediates and addresses -/

/-- A sign-extended field (07: R181). -/
def imm {n : Nat} (x : BitVec n) : Word := x.signExtend 64

/-- `Rel(imm27)` (07: R185, 09: R206). -/
def Seq.rel (q : Seq) (i : BitVec 27) : Word := q.pc + imm i * 64

/-- `Wrap64(g[a] + disp)` (10: R226). -/
def State.ea {n : Nat} (s : State) (a : BitVec 5) (disp : BitVec n) : Word := s.g a + imm disp

/-! ## Full bits (02: R72, R73) -/

/-- Granules of `[o, o+n)` of a tile's scratchpad. -/
def granules (o n : Nat) : List Nat := if n == 0 then [] else (List.range ((o % 128 + n + 127) / 128)).map (fun i => o / 128 + i)

/-- Set bits; a set of a full granule counts in `FEOVER`. -/
def Tile.setFull (t : Tile) (gs : List Nat) : Tile :=
  gs.foldl (fun t g =>
    let t := if t.full.contains g then { t with feover := ctrAdd t.feover 1 }
      else { t with full := insertNat g t.full, newNow := insertNat g t.newNow }
    { t with setNow := insertNat g t.setNow }) t
/-- Clear bits; a granule set in the same cycle stays full. -/
def Tile.clearFull (t : Tile) (gs : List Nat) : Tile :=
  { t with full := t.full.filter (fun g => !gs.contains g || t.setNow.contains g) }
def Tile.isFull (t : Tile) (gs : List Nat) : Bool := gs.all t.full.contains

/-! ## Queue entries (02: R60) -/

def StrandCore.queue (c : StrandCore) (q : BitVec 3) : List QEntry := c.q.get q.toFin
/-- A load row of the walker to queue or channel end `num` is under way, some of its entries there and some not. -/
def Walker.pushing (x : Walker) (kind num : Nat) : Bool :=
  x.mid && !x.desc.getLsbD 88 && bitsOf x.desc 86 2 == kind && bitsOf x.desc 80 3 == num && !x.buf.isEmpty &&
    x.buf.length < (bitsOf x.desc 448 32 + 127) / 128
/-- The entries of a row are consecutive (02: R66): nothing else enters its target between two of them. -/
def StrandCore.rowUnder (c : StrandCore) (kind num : Nat) : Bool := c.w.toList.any (fun x => x.pushing kind num)
/-- No entry may enter a queue now: its eight are taken, the place of a pending `LDV` with them. -/
def Strand.queueFull (t : Strand) (q : BitVec 3) : Bool :=
  8 ≤ (t.core.queue q).length + (t.loads.filter (fun l => l.dst == .queue q)).length || t.core.rowUnder 0 q.toNat
def StrandCore.setQueue (c : StrandCore) (q : BitVec 3) (l : List QEntry) : StrandCore :=
  { c with q := c.q.set q.toNat l q.isLt }
/-- The 128 bytes of a v register or queue entry. -/
def bytesOfV (v : VWord) : List Byte := bytesLE v.toNat 128
def vOfBytes (b : List Byte) : VWord := BitVec.ofNat 1024 (natOfBytes b)

/-- Bytes cut into entries of 128, the last padded with zeros (02: R66). -/
def entriesOf (err : Bool) (b : List Byte) : Nat → List QEntry
  | 0 => []
  | n + 1 => ⟨vOfBytes (b.take 128), err, false⟩ :: entriesOf err (b.drop 128) n

/-! ## What a strand reads -/

/-- The newest pending store of a strand that holds byte `k` (03: R99). -/
def pendByte (k : Nat) : List PStore → Option Byte
  | [] => none
  | p :: r => match pendByte k r with
    | some b => some b
    | none => (p.cells.find? (fun c => c.1 == k)).map (·.2)

/-! ## The scalar read buffer (03: R90) -/

def State.dropSrbLine (s : State) (tile line : Nat) : State :=
  s.updTile tile (fun t => { t with srb := t.srb.filter (fun l => l.line != line) })

/-- An acquire, a strand start or a restore invalidates the whole buffer of the tile. -/
def State.dropSrb (s : State) (tile : Nat) : State := s.updTile tile (fun t => { t with srb := [] })

/-- The acquire of 03: R100 by a strand, at a scope; `all` where `LOOSE` accesses are covered. A service core has no buffer. -/
def State.acquireAs (s : State) (sid scope : Nat) (all : Bool) : State :=
  (if 4096 ≤ sid then s else s.dropSrb (sidTile sid)).acquireBy (s.whoOf sid) scope all
def State.acquire (s : State) (sid scope : Nat) : State := s.acquireAs sid scope false

/-- The live entry of a line for a pitch. -/
def State.srbHit (s : State) (tile line : Nat) (ptag : BitVec 12) : Option SrbLine :=
  (s.tile tile).srb.find? (fun l => l.line == line && l.ptag == ptag && s.cycle.toNat < l.fill.toNat + 4096)

/-- The keys of a physical line. -/
def lineKeys (line : Nat) : List Nat := (List.range 128).map (fun i => line * 128 + i)

/-- Fill the line from the home slice, by strand `sid`; the oldest of 32 entries leaves (log 8). The line holds what the strand finds there. -/
def State.srbFill (s : State) (sid : Nat) (slot : Option (BitVec 12)) (loose : Bool) (line : Nat) : State :=
  let tile := sidTile sid
  let ptag := (s.strand sid).ptag
  let (c, s) := s.ghosts [.strand sid] loose (lineKeys line)
  let e : SrbLine := ⟨line, ptag, s.cycle, (lineKeys line).map (fun k => (cellOf c k).getD (s.byteUnder slot k))⟩
  s.updTile tile (fun t => { t with srb := (e :: t.srb.filter (fun l => !(l.line == line && l.ptag == ptag))).take 32 })

/-- A performed store updates the buffered lines of its tile. -/
def updSrbCells (c : List (Nat × Byte)) (t : Tile) : Tile :=
  { t with srb := t.srb.map (fun l => { l with data := c.foldl (fun d x => if x.1 / 128 == l.line then d.set (x.1 % 128) x.2 else d) l.data }) }

/-! ## Pending stores (03: R95-R97, R99) -/

def PStore.overlaps (a b : PStore) : Bool := a.cells.any (fun x => b.cells.any (fun y => x.1 == y.1))

/-- Whether pending store `k` may be performed before the earlier ones: not before one to the same byte, a STRICT one not
before a STRICT one, a held one not before its wave (20: R409). -/
def mayPerform (l : List PStore) (k : Nat) : Bool :=
  match l[k]? with
  | none => false
  | some p => !p.held && (l.take k).all (fun q => !(q.overlaps p) && !(p.ord == .strict && q.ord == .strict))

/-- PSTs of a strand that are not acknowledged (03: R102). -/
def State.pstPending (s : State) (sid : Nat) : Bool :=
  let t := s.strand sid
  s.podOut.any (fun p => p.2.kind == 1 && p.2.ended == 0 && p.2.of t)

/-- A strand's write of one unit leaves for its home slice, a STRICT one reaches it at once (03: R95); the line that its tile buffers is updated
as it does (03: R90). -/
def State.performCells (s : State) (sid : Nat) (ord : Ord3) (c : List (Nat × Byte)) : State :=
  (if ord == .strict then (s.settleKeys (c.map (·.1))).putCells c else s.putUnit (s.whoOf sid) (ord == .loose) c).updTile
    (sidTile sid) (updSrbCells c)

/-- A pending store leaves; the last unit of one that writes a poisoned line whole clears the poison (20: R403). -/
def State.performStore (s : State) (sid : Nat) (p : PStore) (rest : List PStore) : State :=
  let s := s.performCells sid p.ord p.cells
  { s with poison := s.poison.filter (fun l => !(p.clears.contains l) || rest.any (fun q => q.clears.contains l)) }

/-- Perform pending store `k` if it may be; otherwise nothing happens. -/
def State.performAt (s : State) (sid k : Nat) : State :=
  let l := (s.strand sid).pend
  match l[k]? with
  | none => s
  | some p =>
    if mayPerform l k then
      (s.performStore sid p (l.take k ++ l.drop (k + 1))).updStrand sid (fun t => { t with pend := t.pend.take k ++ t.pend.drop (k + 1) })
    else s

/-- The pending stores that must be performed when those that `which` selects are: they, and the earlier ones to a byte of one of
them (03: R99). The second list holds the others. -/
def splitPend (which : PStore → Bool) : List PStore → List PStore × List PStore
  | [] => ([], [])
  | p :: r =>
    let (go, rest) := splitPend which r
    if !p.held && (which p || go.any p.overlaps) then (p :: go, rest) else (go, p :: rest)

/-- Stores in turn, with `rest` to follow. -/
def State.performStores (s : State) (sid : Nat) (rest : List PStore) : List PStore → State
  | [] => s
  | p :: r => (s.performStore sid p (r ++ rest)).performStores sid rest r

/-- Perform, in program order, every pending store that `which` selects: what a release, a fence or an end of the strand waits
for (03: R100, R102). Held stores stay. -/
def State.drain (s : State) (sid : Nat) (which : PStore → Bool) : State :=
  let (go, rest) := splitPend which (s.strand sid).pend
  (s.performStores sid rest go).updStrand sid (fun t => { t with pend := rest })

def allKinds (_ : PStore) : Bool := true
/-- STRICT and RELEASE stores: what a release covers (03: R97, R100). -/
def notLoose (p : PStore) : Bool := p.ord != .loose
def isStrict (p : PStore) : Bool := p.ord == .strict

/-- Every held store of a strand performed in span and program order (20: R410, R411). -/
def State.performHeld (s : State) (sid : Nat) : State :=
  (s.updStrand sid (fun t => { t with pend := t.pend.map (fun p => { p with held := false }) })).drain sid allKinds

/-! ## Spans (20: R409-R411) -/

/-- The strand's region is a rollback region and it holds the span store buffer: its writes are held or undone. -/
def Strand.spanCapable (t : Strand) : Bool := t.buffer && !(t.spanBad.contains t.core.spanno)

/-- Granules the span store buffer holds. -/
def Strand.spanGranules (t : Strand) : Nat :=
  let held := (t.pend.filter (·.held)).flatMap (fun p => p.cells.map (fun c => (p.span, c.1 / 128)))
  held.eraseDups.length + t.undo.length + t.outside.length

/-- A span overflows or loses its snapshots (20: R411): every held store is performed, its undo granules go, and the event
`SPAN_UNPROTECTED` is posted. -/
def State.spanUnprotected (s : State) (sid : Nat) : State :=
  let t := s.strand sid
  if t.spanCapable then
    let s := s.performHeld sid
    let s := s.updStrand sid (fun t => { t with
      undo := [], spanBad := (t.core.spanno :: t.snaps.map (·.wave) ++ t.spanBad).eraseDups })
    s.evLogOf sid 0x0B (t.core.spanno.setWidth 64) 0
  else s

/-- An operation that cannot be held or undone (20: R410): the held stores are performed first, and the span and every
uncompleted earlier one lose their capability. -/
def State.spanBreak (s : State) (sid : Nat) : State :=
  let t := s.strand sid
  if t.buffer then
    let old := t.snaps.map (·.wave)
    (s.performHeld sid).updStrand sid (fun t => { t with spanBad := (t.core.spanno :: old ++ t.spanBad).eraseDups })
  else s

/-- Before the first write of a span to a granule of the strand's allocation its contents are kept (20: R409). -/
def State.noteUndo (s : State) (sid k n : Nat) : State :=
  let t := s.strand sid
  if t.spanCapable then
    let gs := (List.range ((k % 128 + n + 127) / 128)).map (fun i => k / 128 + i)
    let s := gs.foldl (fun s g =>
      let t := s.strand sid
      if t.undo.any (fun u => u.1 == t.core.spanno && u.2.1 == g) then s
      else s.updStrand sid (fun t => { t with undo := (t.core.spanno, g, s.rdBytes (g * 128) 128) :: t.undo })) s
    if 512 < (s.strand sid).spanGranules then s.spanUnprotected sid else s
  else s

/-! ## Accesses of a strand -/

/-- Which instruction loads (03: R90, R91, 07: R186): `LD`; an access that reads the home slice as it stands, `LDACQ`; a walker row or
`LDV`; a code fetch, whatever the page's kind a `RELEASE` load. -/
inductive LKind where
  | ld | acq | row | fetch
  deriving DecidableEq, Repr

/-- Ordering kind of a load of a part. -/
def LKind.ord (k : LKind) (p : Part) : Ord3 := if k == .fetch then .release else p.ord

/-- The single-copy atomic units of a load (03: R91); `whole` when it is one aligned scalar. -/
def LKind.units (k : LKind) (p : Part) (whole : Bool) : List (List Nat) :=
  if k.ord p == .loose then unitsOf 1 p.len p.key p.len
  else if k == .ld || k == .acq then if whole then [(List.range p.len).map (p.key + ·)] else unitsOf 1 p.len p.key p.len
  else unitsOf 8 p.len p.key p.len

/-- One unit of an `LD` through the scalar read buffer (03: R90): from the buffered line, or, filling it, from the home slice. A line that
lacks a write that happens before the load is filled anew (03: R101); a write of another strand of the tile that it shows is performed
(03: R112). -/
def State.srbUnit (s : State) (sid : Nat) (slot : Option (BitVec 12)) (loose : Bool) (ks : List Nat) : List (Nat × Byte) × State :=
  let tile := sidTile sid
  let line := ks.headD 0 / 128
  let read (s : State) (l : SrbLine) : List (Nat × Byte) × State :=
    (ks.map (fun k => (k, l.data.getD (k % 128) 0)),
      s.settle (fun o => o.touches ks && o.who.tile == some tile && o.who.party != .strand sid))
  let hit := s.srbHit tile line (s.strand sid).ptag
  match (if s.olds.any (fun o => o.touches ks && !o.own [.strand sid] && o.due [.strand sid] loose) then none else hit) with
  | some l => read s l
  | none =>
    let s := s.srbFill sid slot loose line
    match s.srbHit tile line (s.strand sid).ptag with
    | some l => read s l
    | none => ([], s)

/-- The bytes that differ from memory in a load of a part, and the machine after it. A load that bypasses the buffer lets the tile's
copy of the line go (log 8). -/
def State.loadPart (s : State) (sid : Nat) (k : LKind) (p : Part) (whole : Bool) : List (Nat × Byte) × State :=
  let loose := k.ord p == .loose
  let strict := p.slot.isSome && k.ord p == .strict
  let units := k.units p whole
  if k == .ld && p.slot.isSome && !strict then
    units.foldl (fun (x : List (Nat × Byte) × State) u =>
      let (b, s) := x.2.srbUnit sid p.slot loose u
      (b ++ x.1, s)) ([], s)
  else
    let (b, s) := s.readPart [.strand sid] units loose
    (b, p.lines.foldl (fun s l => s.dropSrbLine (sidTile sid) l) s)

/-- A byte as a load returns it: the strand's own prior store (03: R99), the byte that the load found elsewhere, or memory's. -/
def State.loadByte (s : State) (sid : Nat) (slot : Option (BitVec 12)) (c : List (Nat × Byte)) (k : Nat) : Byte :=
  match pendByte k (s.strand sid).pend with
  | some b => b
  | none => (cellOf c k).getD (s.byteUnder slot k)

/-- The parts of a load in turn. -/
def State.loadParts (s : State) (sid : Nat) (k : LKind) (whole : Bool) : List Part → List Byte × State
  | [] => ([], s)
  | p :: r =>
    let (c, s1) := s.loadPart sid k p whole
    let (b, s2) := s1.loadParts sid k whole r
    ((List.range p.len).map (fun i => s1.loadByte sid p.slot c (p.key + i)) ++ b, s2)

def keysOf (ps : List Part) : List Nat := ps.flatMap (fun p => (List.range p.len).map (fun i => p.key + i))

/-! ## Loads that are performed later (03: R96, R99; 10: R233; log 16) -/

/-- Where the value of a load goes. An entry pushed is that of `LDV`. -/
def State.loadInto (s : State) (sid : Nat) (dst : LoadTo) (b : List Byte) : State :=
  match dst with
  | .reg d signed =>
    let v : Word := if signed then wrap64 (sxt (natOfBytes b) (8 * b.length)) else BitVec.ofNat 64 (natOfBytes b)
    s.updCoreOf sid (fun c => { c with a := c.a.gPut d v })
  | .queue q => s.updCoreOf sid (fun c => c.setQueue q (c.queue q ++ [⟨vOfBytes b, false, false⟩]))

/-- A load is performed: its value is that of now. -/
def State.performLoad (s : State) (sid : Nat) (l : PLoad) : State :=
  let (b, s) := s.loadParts sid (match l.dst with
    | .reg _ _ => .ld
    | .queue _ => .row) (l.va.toNat % (keysOf l.parts).length == 0) l.parts
  s.loadInto sid l.dst b

/-- A load row that has issued is read into its walker's buffer; a walker with `FECLR` clears the bits after it (02: R69). -/
def State.readRow (s : State) (sid w : Nat) : State :=
  let x := (s.strand sid).core.w.getD w .empty
  match x.rd with
  | [] => s
  | ps =>
    let (b, s) := s.loadParts sid .row false ps
    let s := if x.desc.getLsbD 91 && spaceOf x.addr == 0xFE then
      s.updTile (sidTile sid) (fun t => t.clearFull (granules (offOf x.addr) b.length)) else s
    let x : Walker := { x with rd := [], buf := entriesOf false b ((b.length + 127) / 128) }
    s.updCoreOf sid (fun c => { c with w := c.w.setIfInBounds w x })

/-- Every load that the strand has issued is performed, in turn: what a release, a fence, a save or an end of the strand waits for. -/
def State.settleLoads (s : State) (sid : Nat) : State :=
  let s := (List.range 8).foldl (fun s w => s.readRow sid w) s
  ((s.strand sid).loads.foldl (fun s l => s.performLoad sid l) s).updStrand sid (fun t => { t with loads := [] })

/-- Loads of the strand that have issued and are still to be performed, to bytes of `ks`. -/
def Strand.loadsOf (t : Strand) (ks : List Nat) : Bool :=
  t.loads.any (fun l => (keysOf l.parts).any ks.contains) || t.core.w.toList.any (fun x => (keysOf x.rd).any ks.contains)

/-- Accesses of one strand to one location take effect in program order (03: R99). -/
def State.inOrder (s : State) (sid : Nat) (ks : List Nat) : State := if (s.strand sid).loadsOf ks then s.settleLoads sid else s

/-- An entry pushed to a queue comes after those of the strand's loads to it. -/
def State.queueOrder (s : State) (sid : Nat) (q : BitVec 3) : State :=
  if (s.strand sid).loads.any (fun l => l.dst == .queue q) then s.settleLoads sid else s

/-- Load `k` is performed, unless an earlier one of the strand reads a byte of it or enters its queue. -/
def State.performLoadAt (s : State) (sid k : Nat) : State :=
  let l := (s.strand sid).loads
  match l[k]? with
  | none => s
  | some x =>
    if (l.take k).any (fun y => y.dst == x.dst || (keysOf y.parts).any (keysOf x.parts).contains) then s
    else (s.performLoad sid x).updStrand sid (fun t => { t with loads := t.loads.take k ++ t.loads.drop (k + 1) })

/-- The release of 03: R100 by a strand, at a scope: its loads and its covered stores are performed first. -/
def State.release (s : State) (sid scope : Nat) : State := ((s.settleLoads sid).drain sid notLoose).releaseBy (s.whoOf sid) scope false
/-- One that covers `LOOSE` accesses too. -/
def State.releaseAll (s : State) (sid scope : Nat) : State := ((s.settleLoads sid).drain sid allKinds).releaseBy (s.whoOf sid) scope true

/-- What a load gives. -/
inductive Loaded where
  | ok (bytes : List Byte) (s : State)
  | bad (s : State)             -- error response already applied (03: R86): zeros
  | fault (c : Cause) (addr : Word)
  deriving DecidableEq, Repr

def isStrictPart (p : Part) : Bool := p.slot.isSome && p.ord == .strict

/-- An access to a STRICT page waits while a PST of the strand is not acknowledged, whose target page may be STRICT too (03: R95; log 16). -/
def State.strictHeld (s : State) (sid : Nat) (va : Word) (n : Nat) (nd : Need) : Bool :=
  s.pstPending sid && (match s.resolve sid va n nd with
    | .ok ps => ps.any isStrictPart
    | _ => false)

/-- The parts of a load that issues in this step and is performed later; a load of a STRICT page never is. -/
def State.lateParts (s : State) (sid : Nat) (va : Word) (n : Nat) : Option (List Part) :=
  if !s.late || 4096 ≤ sid then none
  else match s.resolve sid va n .load with
    | .ok ps => if (s.partsRefusal false ps).isSome || ps.any isStrictPart then none else some ps
    | _ => none

/-- Read `n` bytes at `va` for a strand, after the space check. A load of a STRICT page comes after the strand's earlier STRICT
stores (03: R95). -/
def State.loadBytes (s : State) (sid : Nat) (va : Word) (n : Nat) (nd : Need) (k : LKind) : Loaded :=
  match s.resolve sid va n nd with
  | .fault c a => .fault c a
  | .bad => .bad (s.errorResponse sid 0 va)
  | .ok ps =>
    match s.partsRefusal false ps with
    | some vk => .bad (s.errorResponse sid vk va)
    | none =>
      let s := (s.touch false ps).inOrder sid (keysOf ps)
      let s := if ps.any (fun p => p.slot.isSome && k.ord p == .strict) then s.drain sid isStrict else s
      let (b, s) := s.loadParts sid k (va.toNat % n == 0) ps
      .ok b s

/-- What a store gives. -/
inductive Stored where
  | ok (s : State)
  | bad (s : State)
  | fault (c : Cause) (addr : Word)
  deriving DecidableEq, Repr

/-- The single-copy atomic units of a write that is not one aligned scalar (03: R91): each naturally aligned word of `u` bytes that it
covers in full, and single bytes. -/
def wordUnits (u : Nat) : Nat → List (Nat × Byte) → List (List (Nat × Byte))
  | 0, _ => []
  | _ + 1, [] => []
  | n + 1, x :: r =>
    if x.1 % u == 0 && u ≤ r.length + 1 then (x :: r.take (u - 1)) :: wordUnits u n (r.drop (u - 1)) else [x] :: wordUnits u n r

/-- The units of a store: `whole` for an aligned scalar (03: R91, R97). -/
def storeUnits (o : Ord3) (whole : Bool) (c : List (Nat × Byte)) : List (List (Nat × Byte)) :=
  if o == .loose then c.map (fun x => [x]) else if whole then [c] else wordUnits 8 c.length c

/-- Issue the store of one part: to its own tile's scratchpad and for a service core it leaves at once (log 9); to global memory and to
another tile of the camp its units pend under the page's kind. -/
def State.storePart (s : State) (sid : Nat) (p : Part) (b : List Byte) (whole : Bool) : State :=
  let units := storeUnits p.ord whole ((cellsAt p.key b).map (fun c => (c.1, roByte c.1 c.2)))
  let own := p.slot.isNone && scratchKey (sidTile sid) 0 ≤ p.key && p.key < scratchKey (sidTile sid + 1) 0
  if own || 4096 ≤ sid then ((if own then s.noteUndo sid p.key p.len else s)).putUnits (s.whoOf sid) false units
  else
    let t := s.strand sid
    let held := t.spanCapable && p.slot.isSome
    let new := units.map (fun u => (⟨u, p.ord, t.core.spanno, held, s.wholePoison p⟩ : PStore))
    let s := s.updStrand sid (fun t => { t with pend := t.pend ++ new })
    if held && 512 < (s.strand sid).spanGranules then s.spanUnprotected sid else s

/-- Write bytes at `va` for a strand, after the space check (10: R226); `scalar` when it is one scalar access. -/
def State.storeBytes (s : State) (sid : Nat) (va : Word) (b : List Byte) (scalar : Bool) : Stored :=
  match s.resolve sid va b.length .store with
  | .fault c a => .fault c a
  | .bad => .bad (s.errorResponse sid 0 va)
  | .ok ps =>
    match s.partsRefusal true ps with
    | some vk => .bad (s.errorResponse sid vk va)
    | none =>
      let s := (s.touch true ps).inOrder sid (keysOf ps)
      .ok (ps.foldl (fun (x : State × List Byte) p =>
        (x.1.storePart sid p (x.2.take p.len) (scalar && va.toNat % b.length == 0), x.2.drop p.len)) (s, b)).1

/-! ## Local buffers of an instruction (12: R294, 13: R325) -/

/-- Scratchpad key of a local range wholly within the strand's allocation; of a service core, in its SRAM (17: R353). -/
def State.localRange (s : State) (sid : Nat) (va : Word) (n : Nat) : Option Nat :=
  if 4096 ≤ sid then
    if spaceOf va == 0xFE && offOf va + n ≤ 0x100000 then some (sramKey (sid - 4096) (offOf va)) else none
  else if spaceOf va == 0xFE && (s.strand sid).localOk (offOf va) n then some (scratchKey (sidTile sid) (offOf va)) else none

/-- Write scratchpad bytes of the strand's allocation. -/
def State.wrLocal (s : State) (sid k : Nat) (b : List Byte) : State :=
  ((s.inOrder sid ((List.range b.length).map (k + ·))).noteUndo sid k b.length).wrBytes k b

/-! ## Vector elements (02: R58, 11: R254) -/

/-- Element `i` of width `w` bits, as a number. -/
def elem (v : VWord) (w i : Nat) : Nat := bitsOf v (i * w) w

/-- The vector of `n` elements of width `w` that `f` gives, highest element first in the fold. -/
def packNat (w : Nat) (f : Nat → Nat) : Nat → Nat
  | 0 => 0
  | n + 1 => packNat w f n + f n % 2 ^ w * 2 ^ (n * w)

def vecOf (w n : Nat) (f : Nat → Nat) : VWord := BitVec.ofNat 1024 (packNat w f n)

/-- `f` on the elements whose predicate bit is 1, the old element elsewhere (02: R58). -/
def vecMask (old : VWord) (k : BitVec 128) (w n : Nat) (f : Nat → Nat) : VWord :=
  vecOf w n (fun i => if k.getLsbD i then f i else elem old w i)

/-- Type codes (07: R182) as their properties. -/
def tySigned (t : Nat) : Bool := t == 0 || t == 2 || t == 4 || t == 6
/-- An integer element as the integer it denotes. -/
def tyInt (t x : Nat) : Int := if tySigned t then sxt x (tyWidth t) else (x : Int)
/-- An element sign- or zero-extended to 64 bits (11: R263): i8 to i64 by sign, others by zero, t6 its six bits. -/
def tyExt (t x : Nat) : Word :=
  if tySigned t then BitVec.ofInt 64 (sxt x (tyWidth t)) else if t == 8 then BitVec.ofNat 64 (x % 64) else BitVec.ofNat 64 x
/-- An element taken from a g register: its low bits; a t6 value has bits [7:6] as copies of bit 5 (11: R254). -/
def tyFromG (t : Nat) (x : Word) : Nat :=
  if t == 8 then x.toNat % 64 + (if x.getLsbD 5 then 192 else 0) else bitsOf x 0 (tyWidth t)

/-! ## Queues (02: R60) -/

/-- A scalar entry: the value in bytes 0-7, zeros above. -/
def scalarEntry (v : Word) : QEntry := ⟨v.setWidth 1024, false, false⟩
def StrandCore.push (c : StrandCore) (q : BitVec 3) (e : QEntry) : StrandCore := c.setQueue q (c.queue q ++ [e])
/-- The oldest entry taken; a set error bit adds 1 to `ETC` (02: R67). -/
def StrandCore.pop (c : StrandCore) (q : BitVec 3) : StrandCore :=
  match c.queue q with
  | [] => c
  | e :: r => let c := c.setQueue q r; if e.err then { c with etc := satInc32 c.etc } else c

/-- A strand pops: the entry of a `CPYQ` acquires at `TILE` (10: R242). -/
def State.popQ (s : State) (sid : Nat) (q : BitVec 3) : State :=
  let acq := match (s.strand sid).core.queue q with
    | e :: _ => e.acq
    | [] => false
  let s := s.updCoreOf sid (fun c => c.pop q)
  if acq then s.acquire sid 1 else s

end Sys2Proof.Machine
end

