-- ==== Sys2Proof/Machine/Numbers.lean ====
section
/-! DEFINITION. Numbers.lean: the result bits of 04: integers, IEEE formats, t8 and t6, conversions, combining additions,
reductions, tables and the special-function unit. Exact values are integers times powers of two. -/

namespace Sys2Proof.Machine

/-! ## Exact values -/

/-- `m * 2^e`. -/
structure Dy where
  m : Int
  e : Int
  deriving DecidableEq, Repr

def Dy.zero : Dy := ⟨0, 0⟩
def Dy.neg (a : Dy) : Dy := ⟨-a.m, a.e⟩
/-- The integer `a / 2^e` for `e ≤ a.e`. -/
def Dy.at (a : Dy) (e : Int) : Int := a.m * 2 ^ (a.e - e).toNat
def Dy.add (a b : Dy) : Dy := let e := min a.e b.e; ⟨a.at e + b.at e, e⟩
def Dy.sub (a b : Dy) : Dy := a.add b.neg
def Dy.mul (a b : Dy) : Dy := ⟨a.m * b.m, a.e + b.e⟩
def Dy.le (a b : Dy) : Bool := let e := min a.e b.e; a.at e ≤ b.at e
def Dy.lt (a b : Dy) : Bool := let e := min a.e b.e; a.at e < b.at e
def Dy.ofInt (i : Int) : Dy := ⟨i, 0⟩
def Dy.scale (a : Dy) (k : Int) : Dy := ⟨a.m, a.e + k⟩

/-- ⌊log2 m⌋ of a positive number. -/
def log2 (m : Nat) : Nat := Nat.log2 m

/-- Largest `r` with `r * r ≤ n`, built from bit `b` down. -/
def isqrt (n : Nat) : Nat → Nat → Nat
  | 0, r => if (r + 1) * (r + 1) ≤ n then r + 1 else r
  | b + 1, r => isqrt n b (if (r + 2 ^ (b + 1)) * (r + 2 ^ (b + 1)) ≤ n then r + 2 ^ (b + 1) else r)

/-- Rounding modes of 04: R118: 0 RNE, 1 RTZ, 2 RUP, 3 RDN. -/
abbrev Mode := Nat

/-- The magnitude `m * 2^e` as a multiple of `2^q`, rounded once. -/
def roundMag (mode : Mode) (neg : Bool) (m : Nat) (e q : Int) : Nat :=
  if q ≤ e then m * 2 ^ (e - q).toNat
  else
    let d := 2 ^ (q - e).toNat
    let h := m / d
    let r := m % d
    let up := match mode with
      | 0 => d < 2 * r || (2 * r == d && h % 2 == 1)
      | 1 => false
      | 2 => r != 0 && !neg
      | _ => r != 0 && neg
    if up then h + 1 else h

/-! ## IEEE formats (04: R115) -/

structure Fmt where
  eb : Nat
  mb : Nat
  deriving DecidableEq, Repr

def fmtF32 : Fmt := ⟨8, 23⟩
def fmtF16 : Fmt := ⟨5, 10⟩
def fmtBf16 : Fmt := ⟨8, 7⟩
/-- Format of a float type code (07: R182). -/
def fmtOf (ty : Nat) : Fmt := if ty == 10 then fmtBf16 else if ty == 11 then fmtF16 else fmtF32

def Fmt.bias (f : Fmt) : Int := 2 ^ (f.eb - 1) - 1
def Fmt.signBit (f : Fmt) : Nat := 2 ^ (f.eb + f.mb)
def Fmt.expMask (f : Fmt) : Nat := (2 ^ f.eb - 1) * 2 ^ f.mb
def Fmt.sign (f : Fmt) (x : Nat) : Bool := x / f.signBit % 2 == 1
def Fmt.mag (f : Fmt) (x : Nat) : Nat := x % f.signBit
def Fmt.isNaN (f : Fmt) (x : Nat) : Bool := f.expMask < f.mag x
def Fmt.isInf (f : Fmt) (x : Nat) : Bool := f.mag x == f.expMask
def Fmt.isZero (f : Fmt) (x : Nat) : Bool := f.mag x == 0
def Fmt.quietBit (f : Fmt) : Nat := 2 ^ (f.mb - 1)
/-- Quietened, sign kept (04: R128). -/
def Fmt.quiet (f : Fmt) (x : Nat) : Nat := x ||| f.quietBit
/-- Default NaN (04: R128). -/
def Fmt.nan (f : Fmt) : Nat := f.expMask + f.quietBit
def Fmt.inf (f : Fmt) (neg : Bool) : Nat := f.expMask + if neg then f.signBit else 0
def Fmt.zero (f : Fmt) (neg : Bool) : Nat := if neg then f.signBit else 0

/-- Exact value of a finite pattern. -/
def Fmt.val (f : Fmt) (x : Nat) : Dy :=
  let ex := f.mag x / 2 ^ f.mb
  let fr := f.mag x % 2 ^ f.mb
  let m : Int := if ex == 0 then fr else fr + 2 ^ f.mb
  let e : Int := (if ex == 0 then 1 else (ex : Int)) - f.bias - f.mb
  ⟨if f.sign x then -m else m, e⟩

/-- A non-zero magnitude rounded once into the format (04: R115, R118). -/
def Fmt.roundMag (f : Fmt) (mode : Mode) (neg : Bool) (m : Nat) (e : Int) : Nat :=
  let qmin : Int := 1 - f.bias - f.mb
  let q := max ((log2 m : Int) + e - f.mb) qmin
  let n := Machine.roundMag mode neg m e q
  let bits := ((q - qmin).toNat) * 2 ^ f.mb + n
  let s := if neg then f.signBit else 0
  if bits < f.expMask then s + bits
  else
    let toInf := match mode with
      | 0 => true
      | 1 => false
      | 2 => !neg
      | _ => neg
    if toInf then s + f.expMask else s + f.expMask - 1

/-- An exact value rounded into the format; an exact zero takes the sign `z`. -/
def Fmt.round (f : Fmt) (mode : Mode) (z : Bool) (v : Dy) : Nat :=
  if v.m == 0 then f.zero z else f.roundMag mode (v.m < 0) v.m.natAbs v.e

/-- The first NaN operand, quietened (04: R128, case 1). -/
def Fmt.firstNaN (f : Fmt) (l : List Nat) : Option Nat := (l.find? f.isNaN).map f.quiet

/-- a + b of numbers, RNE once. -/
def Fmt.addNum (f : Fmt) (a b : Nat) : Nat :=
  if f.isInf a then (if f.isInf b && f.sign a != f.sign b then f.nan else a)
  else if f.isInf b then b
  else f.round 0 (f.sign a && f.sign b) ((f.val a).add (f.val b))

def Fmt.flip (f : Fmt) (x : Nat) : Nat := if f.sign x then x - f.signBit else x + f.signBit

def Fmt.add (f : Fmt) (a b : Nat) : Nat := (f.firstNaN [a, b]).getD (f.addNum a b)
def Fmt.sub (f : Fmt) (a b : Nat) : Nat := (f.firstNaN [a, b]).getD (f.addNum a (f.flip b))

def Fmt.mul (f : Fmt) (a b : Nat) : Nat :=
  match f.firstNaN [a, b] with
  | some x => x
  | none =>
    let s := f.sign a != f.sign b
    if f.isInf a || f.isInf b then (if f.isZero a || f.isZero b then f.nan else f.inf s)
    else f.round 0 s ((f.val a).mul (f.val b))

/-- a × b + c of numbers, one rounding; `neg` subtracts c. -/
def Fmt.fma (f : Fmt) (neg : Bool) (a b c : Nat) : Nat :=
  match f.firstNaN [a, b, c] with
  | some x => x
  | none =>
    let c := if neg then f.flip c else c
    let s := f.sign a != f.sign b
    if f.isInf a || f.isInf b then
      if f.isZero a || f.isZero b then f.nan
      else if f.isInf c && f.sign c != s then f.nan else f.inf s
    else if f.isInf c then c
    else f.round 0 (s && f.sign c) (((f.val a).mul (f.val b)).add (f.val c))

/-- The exact quotient of two positive magnitudes with a sticky bit below `p` significant bits. -/
def divDy (a b : Dy) (p : Nat) : Nat × Int :=
  let k := p + 4 + log2 b.m.natAbs
  let n := a.m.natAbs * 2 ^ k
  let q := n / b.m.natAbs
  (2 * q + (if n % b.m.natAbs == 0 then 0 else 1), a.e - b.e - k - 1)

def Fmt.div (f : Fmt) (a b : Nat) : Nat :=
  match f.firstNaN [a, b] with
  | some x => x
  | none =>
    let s := f.sign a != f.sign b
    if f.isInf a then (if f.isInf b then f.nan else f.inf s)
    else if f.isInf b then f.zero s
    else if f.isZero b then (if f.isZero a then f.nan else f.inf s)
    else if f.isZero a then f.zero s
    else let q := divDy (f.val a) (f.val b) f.mb; f.roundMag 0 s q.1 q.2

/-- Square root of a positive value as a magnitude with a sticky bit. -/
def sqrtDy (a : Dy) (p : Nat) : Nat × Int :=
  let odd := a.e % 2 != 0
  let m := (if odd then 2 * a.m.natAbs else a.m.natAbs) * 4 ^ (p + 4)
  let e := (if odd then a.e - 1 else a.e) / 2 - (p + 4)
  let r := isqrt m (log2 m / 2 + 1) 0
  (2 * r + (if r * r == m then 0 else 1), e - 1)

def Fmt.sqrt (f : Fmt) (a : Nat) : Nat :=
  match f.firstNaN [a] with
  | some x => x
  | none =>
    if f.isZero a then a
    else if f.sign a then f.nan
    else if f.isInf a then a
    else let q := sqrtDy (f.val a) f.mb; f.roundMag 0 false q.1 q.2

/-- Order key in which −0 is below +0 (04: R117). -/
def Fmt.key (f : Fmt) (x : Nat) : Int := if f.sign x then -(f.mag x : Int) - 1 else f.mag x
/-- Order key in which −0 equals +0. -/
def Fmt.cmpKey (f : Fmt) (x : Nat) : Int := if f.sign x then -(f.mag x : Int) else f.mag x

/-- minimumNumber (04: R117). -/
def Fmt.min (f : Fmt) (a b : Nat) : Nat :=
  if f.isNaN a then (if f.isNaN b then f.quiet a else b)
  else if f.isNaN b then a
  else if f.key b < f.key a then b else a
/-- maximumNumber. -/
def Fmt.max (f : Fmt) (a b : Nat) : Nat :=
  if f.isNaN a then (if f.isNaN b then f.quiet a else b)
  else if f.isNaN b then a
  else if f.key a < f.key b then b else a

/-- RNE(a × 2^b) (11: R258 `VSCALE`). -/
def Fmt.scale (f : Fmt) (a : Nat) (b : Int) : Nat :=
  if f.isNaN a then f.quiet a
  else if f.isInf a || f.isZero a then a
  else
    -- beyond every exponent the result is ±∞ or a signed zero; the exact product needs no larger exponent
    let b := Max.max (-100000) (Min.min b 100000)
    f.round 0 (f.sign a) ((f.val a).scale b)

/-! ## t8 and t6 (04: R119-R123) -/

/-- Length of the run of bits equal to `b` downward from bit `n - 1`. -/
def runLen (p : Nat) (b : Bool) : Nat → Nat
  | 0 => 0
  | n + 1 => if (p / 2 ^ n % 2 == 1) == b then runLen p b n + 1 else 0

/-- Value of a positive pattern of `n` bits. -/
def tPos (n p : Nat) : Dy :=
  let ones := p / 2 ^ (n - 2) % 2 == 1
  let r := runLen p ones (n - 1)
  let k : Int := if ones then r - 1 else -r
  let nb := n - 1 - r - 1
  if nb == 0 then ⟨1, 2 * k⟩
  else
    let e := p / 2 ^ (nb - 1) % 2
    ⟨2 ^ (nb - 1) + (p % 2 ^ (nb - 1) : Nat), 2 * k + e - (nb - 1 : Nat)⟩

/-- `DecT`: none is NaR (04: R119, R121). -/
def decT (n p : Nat) : Option Dy :=
  let p := p % 2 ^ n
  if p == 0 then some .zero
  else if p == 2 ^ (n - 1) then none
  else if p < 2 ^ (n - 1) then some (tPos n p)
  else some (tPos n (2 ^ n - p)).neg

/-- The number of positive patterns below `c` whose value is at most `v`: the largest such pattern. -/
def tFloor (n : Nat) (v : Dy) : Nat → Nat
  | 0 => 0
  | c + 1 => if (tPos n (c + 1)).le v then c + 1 else tFloor n v c

/-- Encoding of a real value (04: R122). -/
def encT (n : Nat) (v : Dy) : Nat :=
  if v.m == 0 then 0
  else
    let m : Dy := ⟨v.m.natAbs, v.e⟩
    let top := 2 ^ (n - 1) - 1
    let p :=
      if (tPos n top).le m then top
      else if m.le (tPos n 1) then 1
      else
        let lo := tFloor n m (top - 1)
        let a := tPos n lo
        if !(a.lt m) then lo
        else
          let b := tPos n (lo + 1)
          let mid := (a.add b)
          let m2 := m.scale 1
          if m2.lt mid then lo else if mid.lt m2 then lo + 1 else if lo % 2 == 0 then lo else lo + 1
    if v.m < 0 then 2 ^ n - p else p

def narT (n : Nat) : Nat := 2 ^ (n - 1)

/-! ## Conversions (04: R118) -/

/-- What a source pattern denotes. -/
inductive CvtVal where
  | num (v : Dy) (negZero : Bool)
  | inf (neg : Bool)
  | nan (neg : Bool) (payload : Nat) (bits : Nat) -- payload below the quiet bit's place included, `bits` wide
  | nar
  deriving DecidableEq, Repr

def isFloatTy (t : Nat) : Bool := 10 ≤ t && t ≤ 12

def cvtSrc (t x : Nat) : CvtVal :=
  if isFloatTy t then
    let f := fmtOf t
    if f.isNaN x then .nan (f.sign x) (f.mag x % 2 ^ f.mb) f.mb
    else if f.isInf x then .inf (f.sign x)
    else .num (f.val x) (f.sign x)
  else if t == 8 || t == 9 then
    match decT (if t == 8 then 6 else 8) x with
    | some v => .num v false
    | none => .nar
  else .num (.ofInt (tyInt t (x % 2 ^ tyWidth t))) false

/-- Range of an integer type. -/
def tyMin (t : Nat) : Int := if tySigned t then -(2 ^ (tyWidth t - 1)) else 0
def tyMax (t : Nat) : Int := if tySigned t then 2 ^ (tyWidth t - 1) - 1 else 2 ^ tyWidth t - 1
def clampTy (t : Nat) (v : Int) : Int := if v < tyMin t then tyMin t else if tyMax t < v then tyMax t else v

/-- The pattern of an integer at width `w`. -/
def patOf (w : Nat) (v : Int) : Nat := (v % (2 ^ w : Int)).toNat

/-- Conversion from type `src` to type `dst` in a mode; the result is the pattern at `dst`'s width, six bits for t6. -/
def convert (src dst : Nat) (mode : Mode) (x : Nat) : Nat :=
  let v := cvtSrc src x
  if isFloatTy dst then
    let f := fmtOf dst
    match v with
    | .num d z => f.round mode z d
    | .inf n => f.inf n
    | .nan n p b => (if n then f.signBit else 0) + (f.expMask + ((if b ≤ f.mb then p * 2 ^ (f.mb - b) else p / 2 ^ (b - f.mb)) ||| f.quietBit))
    | .nar => f.nan
  else if dst == 8 || dst == 9 then
    let n := if dst == 8 then 6 else 8
    match v with
    | .num d _ => encT n d
    | _ => narT n
  else if isFloatTy src || src == 8 || src == 9 then
    match v with
    | .num d _ => patOf (tyWidth dst) (clampTy dst (let m := roundMag mode (d.m < 0) d.m.natAbs d.e 0; if d.m < 0 then -(m : Int) else m))
    | .inf n => patOf (tyWidth dst) (if n then tyMin dst else tyMax dst)
    | _ => 0
  else patOf (tyWidth dst) (tyInt src (x % 2 ^ tyWidth src))

/-- A t6 pattern as an element of a v register (04: R123). -/
def t6Elem (p : Nat) : Nat := p % 64 + if p / 32 % 2 == 1 then 192 else 0

/-! ## Integer division (04: R114) -/

def divQ (w : Nat) (signed : Bool) (a b : Int) : Int :=
  if b == 0 then (if signed then -1 else 2 ^ w - 1) else if signed then Int.tdiv a b else a / b
def divR (signed : Bool) (a b : Int) : Int :=
  if b == 0 then a else if signed then Int.tmod a b else a % b

/-! ## Element operations of one type -/

/-- a + b, a − b, a × b of elements of type `t` (11: R258): I wraps, F rounds once. -/
def elAdd (t a b : Nat) : Nat := if isFloatTy t then (fmtOf t).add a b else (a + b) % 2 ^ tyWidth t
def elSub (t a b : Nat) : Nat := if isFloatTy t then (fmtOf t).sub a b else (a + (2 ^ tyWidth t - b % 2 ^ tyWidth t)) % 2 ^ tyWidth t
def elMul (t a b : Nat) : Nat := if isFloatTy t then (fmtOf t).mul a b else a * b % 2 ^ tyWidth t
def elMin (t a b : Nat) : Nat := if isFloatTy t then (fmtOf t).min a b else if tyInt t b < tyInt t a then b else a
def elMax (t a b : Nat) : Nat := if isFloatTy t then (fmtOf t).max a b else if tyInt t a < tyInt t b then b else a

/-! ## Combining additions and engine NaNs (04: R125-R128) -/

def nanKey (x : Nat) : Nat := x % 2 ^ 22
def engineNaN (t g : Nat) : Nat := 0x7FC00000 ||| (t * 4096) ||| (g % 4096)

def combineAdd (x y t g : Nat) : Nat :=
  let f := fmtF32
  if f.isNaN x || f.isNaN y then
    0x7FC00000 ||| (if f.isNaN x then (if f.isNaN y then min (nanKey x) (nanKey y) else nanKey x) else nanKey y)
  else if f.isInf x && f.isInf y && f.sign x != f.sign y then engineNaN t g
  else f.addNum x y

/-! ## Reductions and scans (04: R129, R130) -/

/-- One level of the pairwise tree: absent inputs pass the other. -/
def pairUp (op : Nat → Nat → Nat) : List (Option Nat) → List (Option Nat)
  | a :: b :: r => (match a, b with
      | some x, some y => some (op x y)
      | some x, none => some x
      | none, y => y) :: pairUp op r
  | l => l

def treeReduce (op : Nat → Nat → Nat) : Nat → List (Option Nat) → Option Nat
  | 0, l => l.head?.join
  | n + 1, l => treeReduce op n (pairUp op l)

/-- The operations of 11: R268. -/
def redOp (t op a b : Nat) : Nat :=
  match op with
  | 0 => elAdd t a b
  | 1 => elMin t a b
  | 2 => elMax t a b
  | 3 => a &&& b
  | 4 => a ||| b
  | _ => a ^^^ b

/-- Identity of an absent root. -/
def redId (t op : Nat) : Nat :=
  if isFloatTy t then (if op == 1 then (fmtOf t).inf false else if op == 2 then (fmtOf t).inf true else 0) else 0

/-- `VRED` over `n = 2^l` inputs. -/
def reduce (t op l : Nat) (ins : List (Option Nat)) : Nat := (treeReduce (redOp t op) l ins).getD (redId t op)

/-- `VSCAN`: sequential; an absent input repeats, or starts from the identity. -/
def scanFrom (t op : Nat) (prev : Option Nat) : List (Option Nat) → List Nat
  | [] => []
  | none :: r => let x := prev.getD (redId t op); x :: scanFrom t op (some x) r
  | some y :: r =>
    let x := match prev with
      | some p => redOp t op p y
      | none => y
    x :: scanFrom t op (some x) r

/-! ## Tables (02: R80) -/

def tableAt (t : LTable) (x : Nat) : Nat :=
  let f := fmtF32
  if f.isNaN x then f.quiet x
  else
    let i : Nat :=
      if f.isInf x then (if f.sign x then 0 else 255)
      else
        let num := ((f.val x).sub (f.val t.lo.toNat)).scale 8
        let den := (f.val t.hi.toNat).sub (f.val t.lo.toNat)
        let e := min num.e den.e
        let q := num.at e / den.at e
        if q < 0 then 0 else if 255 < q then 255 else q.toNat
    match t.ent[i]? with
    | some (sl, ic) => f.fma false sl.toNat x ic.toNat
    | none => x

/-- A table slot: an unloaded one is the identity, a NaN quietened (11: R270). -/
def slotAt (t : Option LTable) (x : Nat) : Nat :=
  match t with
  | some t => tableAt t x
  | none => if fmtF32.isNaN x then fmtF32.quiet x else x

/-! ## Special functions (04: R133-R135; 11: R269) -/

def f32One (neg : Bool) : Nat := 0x3F800000 + if neg then 0x80000000 else 0

/-! Functions of real numbers, as integers in units of 2^-220, with an error below 2^-100 of the last place that a bound of
R133 is measured in; a result that is a power of two, or 0, comes out exactly. -/

def fxP : Nat := 220
def fxMul (a b : Int) : Int := a * b / 2 ^ fxP
/-- ln 2, 2π and 2/√π. -/
def fxLn2 : Int := 0xb17217f7d1cf79abc9e3b39803f2f6af40f343267298b62d8a0d175
def fxTau : Int := 0x6487ed5110b4611a62633145c06e0e68948127044533e63a0105df53
def fxErf : Int := 0x120dd750429b6d11ae3a914fed7fd8688281341d7587cea2e7342b06

/-- Σ of `n` terms from `t` = the term of index `k`, each the one before times `r` over its index; the index steps by `d`, of whose
numbers the divisor takes the product (`d` = 1: e^r; 2: hyperbolic and, for negative `r`, circular series in r = ±x²). -/
def fxSeries (d : Nat) (r : Int) : Nat → Nat → Int → Int
  | 0, _, _ => 0
  | n + 1, k, t => t + fxSeries d r n (k + d) (fxMul t r / ((if d == 1 then k + 1 else (k + 1) * (k + 2) : Nat) : Int))

/-- Σ z^i / i over odd i, with `w` = z². -/
def fxAtanh (w : Int) : Nat → Nat → Int → Int
  | 0, _, _ => 0
  | n + 1, k, t => t / (k : Int) + fxAtanh w n (k + 2) (fxMul t w)

/-- Σ (-w)^k / (k! (2k + 1)). -/
def fxErfSum (w : Int) : Nat → Nat → Int → Int
  | 0, _, _ => 0
  | n + 1, k, t => t / ((2 * k + 1 : Nat) : Int) + fxErfSum w n (k + 1) (-(fxMul t w) / ((k + 1 : Nat) : Int))

def fxOne : Int := 2 ^ fxP
/-- An f32 value within ±2^16 is a whole number of units. -/
def fxOf (v : Dy) : Int := v.at (-220)
/-- e^r for r in [0, 1), times 2^n. -/
def expDy (r n : Int) : Dy := ⟨fxSeries 1 r 60 0 fxOne, n - 220⟩
/-- e^v; outside ±256 the value at ±256, past every result that a bound of R133 tells apart. -/
def expOf (v : Dy) : Dy :=
  let t := max (-256 * fxOne) (min (256 * fxOne) (if Dy.lt v ⟨-256, 0⟩ then -256 * fxOne else if Dy.lt ⟨256, 0⟩ v then 256 * fxOne else fxOf v))
  expDy (t % fxLn2) (t / fxLn2)

/-- ulp(Y) of 04: R131. -/
def ulpOf (v : Dy) : Dy :=
  let m := v.m.natAbs
  if m == 0 then ⟨1, -149⟩ else ⟨1, max ((log2 m : Int) + v.e) (-126) - 23⟩

/-- A free value `y` where it lies within `n` times `u` of `v`; else the nearest number to `v`. -/
def within (n : Nat) (u v : Dy) (y : Nat) : Nat :=
  let f := fmtF32
  let d := (f.val y).sub v
  let b := u.mul ⟨(n : Int), 0⟩
  if !f.isNaN y && !f.isInf y && d.le b && d.neg.le b then y else f.round 0 false v

def withinUlp (n : Nat) (v : Dy) (y : Nat) : Nat := within n (ulpOf v) v y

/-- A free value kept in [lo, hi]. -/
def clampFree (lo hi y : Nat) : Nat :=
  let f := fmtF32
  if f.isNaN y || f.key y < f.key lo || f.key hi < f.key y then lo else y

/-- ln v of a positive value. -/
def fxLn (v : Dy) : Int :=
  let m := v.m.natAbs
  let k := log2 m
  let z := ((m : Int) - 2 ^ k) * fxOne / ((m : Int) + 2 ^ k)
  2 * fxAtanh (fxMul z z) 55 1 z + ((k : Int) + v.e) * fxLn2

/-- sin v (or cos v) of |v| ≤ 2^16. -/
def fxCirc (cosine : Bool) (v : Dy) : Int :=
  let r := fxOf v % fxTau - fxTau / 2
  let w := -(fxMul r r)
  if cosine then -(fxSeries 2 w 40 0 fxOne) else -(fxMul r (fxSeries 2 w 40 1 fxOne))

/-- sin v, or cos v, whose series in units of 2^-220 would lose the difference from 1 of a small argument: below 2^-40 it is 1 - v²/2,
with an error below that of the units. -/
def circOf (cosine : Bool) (v : Dy) : Dy :=
  if cosine && v.lt ⟨1, -40⟩ && v.neg.lt ⟨1, -40⟩ then (⟨1, 0⟩ : Dy).sub ((v.mul v).scale (-1)) else ⟨fxCirc cosine v, -220⟩

/-- tanh v of a number |v| < 9. -/
def tanhOf (v : Dy) : Dy :=
  if v.lt ⟨1, -1⟩ && v.neg.lt ⟨1, -1⟩ then
    let w := fxMul (fxOf v) (fxOf v)
    v.mul ⟨min (fxOne - 1) (fxSeries 2 w 30 1 fxOne * fxOne / fxSeries 2 w 30 0 fxOne), -220⟩
  else
    let a : Dy := ⟨v.m.natAbs, v.e⟩
    let r : Int := fxOne - 2 * fxOne * fxOne / ((expOf (a.scale 1)).at (-220) + fxOne)
    ⟨if v.m < 0 then -r else r, -220⟩

/-- 1 / (1 + e^-v): t / (1 + t), or 1 less that, with t = e^-|v|. -/
def sigmoidOf (v : Dy) : Dy :=
  let t := expOf ⟨-v.m.natAbs, v.e⟩
  let k := 2 ^ (-t.e).toNat
  let q : Dy := ⟨t.m * k / (k + t.m), t.e⟩
  if v.m ≤ 0 then q else (⟨1, 0⟩ : Dy).sub q

/-- Special function `fn` of an f32 pattern: its special results (R134), and else a free value within the bound of R133 (log 5). -/
def sfu (fn x : Nat) : Nat :=
  let f := fmtF32
  let y := (Config.sfu fn (BitVec.ofNat 32 x)).toNat
  let neg := f.sign x
  let v := f.val x
  if f.isNaN x then f.quiet x
  else match fn with
    | 0 => -- EXP2: 2^x is beyond the f32 range from 128 up
      if f.isInf x then (if neg then 0 else f.inf false)
      else if !neg && 0x43000000 ≤ x then f.inf false
      else
        let t := if v.lt ⟨-256, 0⟩ then -256 * fxOne else fxOf v
        let r := expDy (fxMul (t % fxOne) fxLn2) (t / fxOne)
        withinUlp (if r.lt ⟨1, -126⟩ then 2 else 1) r y
    | 1 => -- EXP: e^x is beyond the f32 range from 0x42B17218 up
      if f.isInf x then (if neg then 0 else f.inf false)
      else if !neg && 0x42B17218 ≤ x then f.inf false else withinUlp 2 (expOf v) y
    | 2 | 3 => -- LOG2, LN
      if f.isZero x then f.inf true else if neg then f.nan else if f.isInf x then f.inf false
      else
        let l := fxLn v
        let r : Dy := ⟨if fn == 2 then l * fxOne / fxLn2 else l, -220⟩
        if 0x3F000000 ≤ x && x < 0x40000000 then within 1 ⟨1, -22⟩ r y else withinUlp (if fn == 2 then 1 else 2) r y
    | 4 => -- RCP
      if f.isZero x then f.inf neg else if f.isInf x then f.zero neg
      else withinUlp 1 ⟨2 ^ 200 / v.m, -200 - v.e⟩ y
    | 5 => -- RSQRT
      if f.isZero x then f.inf neg else if neg then f.nan else if f.isInf x then 0
      else
        let q := sqrtDy v 80
        let d := divDy ⟨1, 0⟩ ⟨q.1, q.2⟩ 80
        withinUlp 1 ⟨d.1, d.2⟩ y
    | 6 | 7 => -- SIN, COS
      if f.isInf x then f.nan else if fn == 6 && f.isZero x then x
      else if 0x47800000 < f.mag x then clampFree (f32One true) (f32One false) y
      else within 1 ⟨1, if f.mag x ≤ 0x40490FDA then -22 else -20⟩ (circOf (fn == 7) v) y
    | 8 => -- TANH
      if f.isZero x then x else if 0x41100000 ≤ f.mag x then f32One neg
      else withinUlp (if f.mag x < 0x3F000000 then 2 else 1) (tanhOf v) y
    | 9 => -- SIGMOID
      if f.isInf x then (if neg then 0 else f32One false)
      else
        let r := sigmoidOf v
        if r.lt ⟨1, -126⟩ then within 1 ⟨1, -149⟩ r y else withinUlp 2 r y
    | _ => -- ERF
      if f.isZero x then x else if 0x40800000 ≤ f.mag x then f32One neg
      else
        let w := fxMul (fxOf v) (fxOf v)
        let r := v.mul ⟨fxMul fxErf (fxErfSum w 110 0 fxOne), -220⟩
        if f.mag x < 0x3F800000 then within 1 ⟨1, -22⟩ r y else withinUlp 2 r y

end Sys2Proof.Machine
end

