-- ==== Sys2Proof/Machine/Flags.lean ====
section
/-! DEFINITION. Flags.lean: the conditions that compares compute and the class bits of `FCLASS`. The machine has no flags
register: a condition is an integer 1 or 0 in a register, or a predicate bit (09: R205, 04: R116). -/

namespace Sys2Proof.Machine

/-- Integer conditions of width `w` (09: R215), on unsigned patterns. -/
def intCond (cc w a b : Nat) : Bool :=
  let sa := sxt a w
  let sb := sxt b w
  match cc with
  | 0 => a == b
  | 1 => a != b
  | 2 => sa < sb
  | 3 => sa ≤ sb
  | 4 => sb < sa
  | 5 => sb ≤ sa
  | 6 => a < b
  | 7 => a ≤ b
  | 8 => b < a
  | _ => b ≤ a

/-- Float conditions (09: R222), quiet (04: R117). -/
def floatCond (f : Fmt) (cc a b : Nat) : Bool :=
  let un := f.isNaN a || f.isNaN b
  let x := f.cmpKey a
  let y := f.cmpKey b
  match cc with
  | 0 => !un && x == y
  | 1 => un || x != y
  | 2 => !un && x < y
  | 3 => !un && x ≤ y
  | 4 => !un && y < x
  | 5 => !un && y ≤ x
  | _ => un

/-- The class bit of `FCLASS` (09: R224). -/
def fclassBit (x : Nat) : Nat :=
  let f := fmtF32
  let m := f.mag x
  let n := f.sign x
  if f.isNaN x then (if x / f.quietBit % 2 == 1 then 9 else 8)
  else if f.isInf x then (if n then 0 else 7)
  else if m == 0 then (if n then 3 else 4)
  else if m < 2 ^ f.mb then (if n then 2 else 5)
  else (if n then 1 else 6)

def bit01 (b : Bool) : Word := if b then 1 else 0

end Sys2Proof.Machine
end

