-- ==== Sys2Proof/Machine/Shared.lean ====
section
/-! DEFINITION. Shared.lean: what the meanings of more than one family share: outcomes, transfers, branch-outcome queues, traps
that resume after the instruction (09: R207, R208, R213). -/

namespace Sys2Proof.Machine

abbrev Out := Host.Outcome State Fault Refusal

/-- Set `Pending` (09: R207). -/
def State.setPending (s : State) (t : Word) : State := s.updSeq (fun q => { q with pending := some (t &&& ~~~0x3F#64) })

/-- A transfer that is taken when `c` holds. -/
def State.transfer (s : State) (c : Bool) (t : Word) : Out := done (if c then s.setPending t else s)

/-- The branch-outcome queue towards the executing sequencer (09: R208). -/
def State.bqIn (s : State) : List Bool := if s.cur.e then s.core.bqAE else s.core.bqEA
def State.bqOut (s : State) : List Bool := if s.cur.e then s.core.bqEA else s.core.bqAE
def State.setBqIn (s : State) (l : List Bool) : State :=
  s.updCore (fun c => if s.cur.e then { c with bqAE := l } else { c with bqEA := l })
def State.setBqOut (s : State) (l : List Bool) : State :=
  s.updCore (fun c => if s.cur.e then { c with bqEA := l } else { c with bqAE := l })

/-- Since when the executing instruction wants the head bit. -/
def Seq.bqSince (q : Seq) (now : Word) : Word := if q.wait == some .bqEmpty then q.waitAt else now

/-- A gated walker wanted the head bit of the E-to-A queue before A did, or in the same cycle (02: R68). -/
def State.walkerFirst (s : State) : Bool :=
  !s.cur.e && s.core.w.any (fun x => x.st == .running && match x.req with
    | some r => r.toNat ≤ (s.seq.bqSince s.cycle).toNat
    | none => false)

/-- A gated walker runs, which may still ask in this cycle for the head bit that A asks for in it (02: R68). -/
def State.walkerMayAsk (s : State) : Bool :=
  !s.cur.e && s.seq.bqSince s.cycle == s.cycle && s.core.w.any (fun x => x.st == .running && x.desc.getLsbD 88 && x.desc.getLsbD 90)

/-- `PopBQ` (09: R208): blocks on an empty queue, or behind a request of a gated walker that is earlier or of the same cycle. -/
def State.popBq (s : State) (k : Bool → State → Out) : Out :=
  match s.bqIn with
  | [] => .next (s.block .bqEmpty)
  | b :: r => if s.walkerFirst || s.walkerMayAsk then .next (s.block .bqEmpty) else k b (s.setBqIn r)

def State.pushBq (s : State) (b : Bool) : Out :=
  if 32 ≤ s.bqOut.length then .next (s.block .bqFull) else done (s.setBqOut (s.bqOut ++ [b]))

/-- A trap of an instruction that counts as executed: it resumes after it (09: R212, R213). -/
def State.trapNext (s : State) (c : Cause) (arg : Word) : State := s.takeTrapAt c arg (s.seq.idx + 1)

/-- Leading zero bits of the low `n` bits. -/
def leadingZeros (x : Nat) : Nat → Nat
  | 0 => 0
  | n + 1 => if x / 2 ^ n % 2 == 1 then 0 else leadingZeros x n + 1
/-- One bits of the low `n` bits. -/
def popCount (x : Nat) : Nat → Nat
  | 0 => 0
  | n + 1 => x / 2 ^ n % 2 + popCount x n
def clampInt (lo hi v : Int) : Int := if v < lo then lo else if hi < v then hi else v

end Sys2Proof.Machine
end

