-- ==== Sys2Proof/Machine/Vector.lean ====
section
/-! DEFINITION. Vector.lean: vector, predicate, conversion, reduction, special-function and quantisation instructions
(11: R254-R280). -/

namespace Sys2Proof.Machine

/-! ## Shared forms -/

/-- Element `i` of operand b: a vector, or the low bits of a g register (11: R257). -/
def State.bv (s : State) (r : BitVec 5) (w i : Nat) : Nat := elem (s.v r) w i
def State.bg (s : State) (r : BitVec 5) (w _i : Nat) : Nat := bitsOf (s.g r) 0 w

/-- `vd[i] := f i` for every element that the predicate selects (11: R258, 02: R58). -/
def State.vmap (s : State) (vd : BitVec 5) (ty : BitVec 4) (p : BitVec 3) (f : Nat → Nat) : Out :=
  done (s.vPut vd (vecMask (s.v vd) (s.k p) (tyWidth ty.toNat) (tyCount ty.toNat) f))

/-- Binary element operations with b a vector or a scalar. -/
def State.vbin (s : State) (op : Nat → Nat → Nat → Nat) (vd va : BitVec 5) (b : Nat → Nat → Nat) (ty : BitVec 4)
    (p : BitVec 3) : Out :=
  s.vmap vd ty p (fun i => op ty.toNat (elem (s.v va) (tyWidth ty.toNat) i) (b (tyWidth ty.toNat) i))

/-- `SAT`: the exact result clamped to the type's range (11: R258). -/
def elAddS (sat : BitVec 1) (t a b : Nat) : Nat :=
  if sat = 0 then elAdd t a b else patOf (tyWidth t) (clampTy t (tyInt t a + tyInt t b))
def elSubS (sat : BitVec 1) (t a b : Nat) : Nat :=
  if sat = 0 then elSub t a b else patOf (tyWidth t) (clampTy t (tyInt t a - tyInt t b))
def elFma (neg : Bool) (t a b c : Nat) : Nat :=
  if isFloatTy t then (fmtOf t).fma neg a b c
  else patOf (tyWidth t) (tyInt t a * tyInt t b + (if neg then -(tyInt t c) else tyInt t c))
def elAbs (t a : Nat) : Nat := if isFloatTy t then (fmtOf t).mag a else patOf (tyWidth t) (tyInt t a).natAbs
def elNeg (t a : Nat) : Nat := if isFloatTy t then (fmtOf t).flip a else patOf (tyWidth t) (-(tyInt t a))
def elShl (t a b : Nat) : Nat := a * 2 ^ (b % tyWidth t) % 2 ^ tyWidth t
def elShr (t a b : Nat) : Nat := a / 2 ^ (b % tyWidth t)
def elSar (t a b : Nat) : Nat := patOf (tyWidth t) (sxt a (tyWidth t) / 2 ^ (b % tyWidth t))
def elDiv (rm : BitVec 1) (t a b : Nat) : Nat :=
  if isFloatTy t then (fmtOf t).div a b
  else if rm = 0 then patOf (tyWidth t) (divQ (tyWidth t) (tySigned t) (tyInt t a) (tyInt t b))
  else patOf (tyWidth t) (divR (tySigned t) (tyInt t a) (tyInt t b))
/-- `VCLIP` (11: R258). -/
def elClip (t a lo hi : Nat) : Nat :=
  if isFloatTy t && (fmtOf t).isNaN a then (fmtOf t).quiet a else elMin t (elMax t a lo) hi
def elCond (t cc a b : Nat) : Bool :=
  if isFloatTy t then floatCond (fmtOf t) cc a b else intCond cc (tyWidth t) a b

/-! ## Element arithmetic and logic (11: R258) -/

def execVadd (vd va vb : BitVec 5) (ty : BitVec 4) (p : BitVec 3) (sat : BitVec 1) (s : State) : Out :=
  s.vbin (elAddS sat) vd va (s.bv vb) ty p
def execVaddS (vd va gb : BitVec 5) (ty : BitVec 4) (p : BitVec 3) (sat : BitVec 1) (s : State) : Out :=
  s.vbin (elAddS sat) vd va (s.bg gb) ty p
def execVsub (vd va vb : BitVec 5) (ty : BitVec 4) (p : BitVec 3) (sat : BitVec 1) (s : State) : Out :=
  s.vbin (elSubS sat) vd va (s.bv vb) ty p
def execVsubS (vd va gb : BitVec 5) (ty : BitVec 4) (p : BitVec 3) (sat : BitVec 1) (s : State) : Out :=
  s.vbin (elSubS sat) vd va (s.bg gb) ty p
def execVmul (vd va vb : BitVec 5) (ty : BitVec 4) (p : BitVec 3) (s : State) : Out := s.vbin elMul vd va (s.bv vb) ty p
def execVmulS (vd va gb : BitVec 5) (ty : BitVec 4) (p : BitVec 3) (s : State) : Out := s.vbin elMul vd va (s.bg gb) ty p
def execVfma (vd va vb vc : BitVec 5) (ty : BitVec 4) (p : BitVec 3) (s : State) : Out :=
  s.vmap vd ty p (fun i => let w := tyWidth ty.toNat; elFma false ty.toNat (elem (s.v va) w i) (elem (s.v vb) w i) (elem (s.v vc) w i))
def execVfms (vd va vb vc : BitVec 5) (ty : BitVec 4) (p : BitVec 3) (s : State) : Out :=
  s.vmap vd ty p (fun i => let w := tyWidth ty.toNat; elFma true ty.toNat (elem (s.v va) w i) (elem (s.v vb) w i) (elem (s.v vc) w i))
def execVmin (vd va vb : BitVec 5) (ty : BitVec 4) (p : BitVec 3) (s : State) : Out := s.vbin elMin vd va (s.bv vb) ty p
def execVminS (vd va gb : BitVec 5) (ty : BitVec 4) (p : BitVec 3) (s : State) : Out := s.vbin elMin vd va (s.bg gb) ty p
def execVmax (vd va vb : BitVec 5) (ty : BitVec 4) (p : BitVec 3) (s : State) : Out := s.vbin elMax vd va (s.bv vb) ty p
def execVmaxS (vd va gb : BitVec 5) (ty : BitVec 4) (p : BitVec 3) (s : State) : Out := s.vbin elMax vd va (s.bg gb) ty p
def execVabs (vd va : BitVec 5) (ty : BitVec 4) (p : BitVec 3) (s : State) : Out :=
  s.vmap vd ty p (fun i => elAbs ty.toNat (elem (s.v va) (tyWidth ty.toNat) i))
def execVneg (vd va : BitVec 5) (ty : BitVec 4) (p : BitVec 3) (s : State) : Out :=
  s.vmap vd ty p (fun i => elNeg ty.toNat (elem (s.v va) (tyWidth ty.toNat) i))
def execVand (vd va vb : BitVec 5) (ty : BitVec 4) (p : BitVec 3) (s : State) : Out :=
  s.vbin (fun _ a b => a &&& b) vd va (s.bv vb) ty p
def execVandS (vd va gb : BitVec 5) (ty : BitVec 4) (p : BitVec 3) (s : State) : Out :=
  s.vbin (fun _ a b => a &&& b) vd va (s.bg gb) ty p
def execVor (vd va vb : BitVec 5) (ty : BitVec 4) (p : BitVec 3) (s : State) : Out :=
  s.vbin (fun _ a b => a ||| b) vd va (s.bv vb) ty p
def execVorS (vd va gb : BitVec 5) (ty : BitVec 4) (p : BitVec 3) (s : State) : Out :=
  s.vbin (fun _ a b => a ||| b) vd va (s.bg gb) ty p
def execVxor (vd va vb : BitVec 5) (ty : BitVec 4) (p : BitVec 3) (s : State) : Out :=
  s.vbin (fun _ a b => a ^^^ b) vd va (s.bv vb) ty p
def execVxorS (vd va gb : BitVec 5) (ty : BitVec 4) (p : BitVec 3) (s : State) : Out :=
  s.vbin (fun _ a b => a ^^^ b) vd va (s.bg gb) ty p
def execVshl (vd va vb : BitVec 5) (ty : BitVec 4) (p : BitVec 3) (s : State) : Out := s.vbin elShl vd va (s.bv vb) ty p
def execVshlS (vd va gb : BitVec 5) (ty : BitVec 4) (p : BitVec 3) (s : State) : Out := s.vbin elShl vd va (s.bg gb) ty p
def execVshr (vd va vb : BitVec 5) (ty : BitVec 4) (p : BitVec 3) (s : State) : Out := s.vbin elShr vd va (s.bv vb) ty p
def execVshrS (vd va gb : BitVec 5) (ty : BitVec 4) (p : BitVec 3) (s : State) : Out := s.vbin elShr vd va (s.bg gb) ty p
def execVsar (vd va vb : BitVec 5) (ty : BitVec 4) (p : BitVec 3) (s : State) : Out := s.vbin elSar vd va (s.bv vb) ty p
def execVsarS (vd va gb : BitVec 5) (ty : BitVec 4) (p : BitVec 3) (s : State) : Out := s.vbin elSar vd va (s.bg gb) ty p
def execVdiv (vd va vb : BitVec 5) (ty : BitVec 4) (p : BitVec 3) (rm : BitVec 1) (s : State) : Out :=
  s.vbin (elDiv rm) vd va (s.bv vb) ty p
def execVsqrt (vd va : BitVec 5) (ty : BitVec 4) (p : BitVec 3) (s : State) : Out :=
  s.vmap vd ty p (fun i => (fmtOf ty.toNat).sqrt (elem (s.v va) (tyWidth ty.toNat) i))
def execVclip (vd va vb vc : BitVec 5) (ty : BitVec 4) (p : BitVec 3) (s : State) : Out :=
  s.vmap vd ty p (fun i => let w := tyWidth ty.toNat; elClip ty.toNat (elem (s.v va) w i) (elem (s.v vb) w i) (elem (s.v vc) w i))
def execVclipS (vd va gb gc : BitVec 5) (ty : BitVec 4) (p : BitVec 3) (s : State) : Out :=
  s.vmap vd ty p (fun i => let w := tyWidth ty.toNat; elClip ty.toNat (elem (s.v va) w i) (s.bg gb w i) (s.bg gc w i))
def execVscale (vd va vb : BitVec 5) (ty : BitVec 4) (p : BitVec 3) (s : State) : Out :=
  s.vmap vd ty p (fun i => let w := tyWidth ty.toNat; (fmtOf ty.toNat).scale (elem (s.v va) w i) (sxt (elem (s.v vb) w i) w))
def execVscaleS (vd va gb : BitVec 5) (ty : BitVec 4) (p : BitVec 3) (s : State) : Out :=
  s.vmap vd ty p (fun i => (fmtOf ty.toNat).scale (elem (s.v va) (tyWidth ty.toNat) i) (s.g gb).toInt)

/-! ## Compare, select, predicates (11: R259-R262) -/

/-- The 128 bits that `f` gives for positions below `n`, 0 above. -/
def bitsFrom (f : Nat → Bool) : Nat → Nat
  | 0 => 0
  | n + 1 => bitsFrom f n + (if f n then 2 ^ n else 0)

def State.vcmp (s : State) (kd : BitVec 3) (cc : BitVec 4) (va : BitVec 5) (b : Nat → Nat → Nat) (ty : BitVec 4)
    (p : BitVec 3) : Out :=
  let w := tyWidth ty.toNat
  let old := s.k kd
  done (s.kPut kd (BitVec.ofNat 128 (bitsFrom (fun i =>
    if (s.k p).getLsbD i then elCond ty.toNat cc.toNat (elem (s.v va) w i) (b w i) else old.getLsbD i) (tyCount ty.toNat))))

def execVcmp (kd : BitVec 3) (cc : BitVec 4) (va vb : BitVec 5) (ty : BitVec 4) (p : BitVec 3) (s : State) : Out :=
  s.vcmp kd cc va (s.bv vb) ty p
def execVcmpS (kd : BitVec 3) (cc : BitVec 4) (va gb : BitVec 5) (ty : BitVec 4) (p : BitVec 3) (s : State) : Out :=
  s.vcmp kd cc va (s.bg gb) ty p

def execVsel (vd va vb : BitVec 5) (ty : BitVec 4) (p : BitVec 3) (s : State) : Out :=
  let w := tyWidth ty.toNat
  done (s.vPut vd (vecOf w (tyCount ty.toNat) (fun i => if (s.k p).getLsbD i then elem (s.v va) w i else elem (s.v vb) w i)))

def execVkop (kd ka kb : BitVec 3) (op : BitVec 10) (s : State) : Out :=
  let a := s.k ka
  let b := s.k kb
  done (s.kPut kd (match op.toNat with
    | 0 => a &&& b
    | 1 => a ||| b
    | 2 => a ^^^ b
    | 3 => a &&& ~~~b
    | _ => ~~~a))

/-- Index of the lowest one bit below `n` from `i`, or `n` positions on. -/
def firstOne (x : Nat) (i : Nat) : Nat → Nat
  | 0 => i
  | n + 1 => if x / 2 ^ i % 2 == 1 then i else firstOne x (i + 1) n

def execVkmov (d a : BitVec 5) (op : BitVec 10) (s : State) : Out :=
  let ka := s.k (a.setWidth 3)
  match op.toNat with
  | 0 => done (s.kPut (d.setWidth 3) ka)
  | 1 => done (s.kPut (d.setWidth 3) ((s.v a).setWidth 128))
  | 2 => done (s.vPut d (ka.setWidth 1024))
  | 3 => s.ret d (BitVec.ofNat 64 (popCount ka.toNat 128))
  | 4 => s.ret d (ka.setWidth 64)
  | 5 => s.ret d (BitVec.ofNat 64 (bitsOf ka 64 64))
  | _ => s.ret d (BitVec.ofNat 64 (firstOne ka.toNat 0 128))

/-! ## Moves (11: R263-R266) -/

def execVmov (vd va : BitVec 5) (ty : BitVec 4) (p : BitVec 3) (s : State) : Out :=
  s.vmap vd ty p (fun i => elem (s.v va) (tyWidth ty.toNat) i)
def execVbcast (vd ga : BitVec 5) (ty : BitVec 4) (p : BitVec 3) (s : State) : Out :=
  s.vmap vd ty p (fun _ => tyFromG ty.toNat (s.g ga))
def execVbcastElem (vd va : BitVec 5) (i : BitVec 10) (ty : BitVec 4) (p : BitVec 3) (s : State) : Out :=
  s.vmap vd ty p (fun _ => elem (s.v va) (tyWidth ty.toNat) i.toNat)
def execVli (vd : BitVec 5) (i : BitVec 64) (s : State) : Out := done (s.vPut vd (vecOf 64 16 (fun _ => i.toNat)))
def execVext (gd va : BitVec 5) (i : BitVec 10) (ty : BitVec 4) (s : State) : Out :=
  s.ret gd (tyExt ty.toNat (elem (s.v va) (tyWidth ty.toNat) i.toNat))
def execVextReg (gd va gb : BitVec 5) (ty : BitVec 4) (s : State) : Out :=
  s.ret gd (tyExt ty.toNat (elem (s.v va) (tyWidth ty.toNat) ((s.g gb).toNat % tyCount ty.toNat)))
/-- One element replaced. -/
def State.vins (s : State) (vd ga : BitVec 5) (i : Nat) (ty : BitVec 4) : Out :=
  let w := tyWidth ty.toNat
  done (s.vPut vd (vecOf w (tyCount ty.toNat) (fun j => if j = i then tyFromG ty.toNat (s.g ga) else elem (s.v vd) w j)))
def execVins (vd ga : BitVec 5) (i : BitVec 10) (ty : BitVec 4) (s : State) : Out := s.vins vd ga i.toNat ty
def execVinsReg (vd ga gb : BitVec 5) (ty : BitVec 4) (s : State) : Out :=
  s.vins vd ga ((s.g gb).toNat % tyCount ty.toNat) ty
def execVperm (vd va vb : BitVec 5) (ty : BitVec 4) (p : BitVec 3) (s : State) : Out :=
  let w := tyWidth ty.toNat
  s.vmap vd ty p (fun i => elem (s.v va) w (elem (s.v vb) w i % tyCount ty.toNat))
def execVperm2 (vd va vb vc : BitVec 5) (ty : BitVec 4) (p : BitVec 3) (s : State) : Out :=
  let w := tyWidth ty.toNat
  let n := tyCount ty.toNat
  s.vmap vd ty p (fun i => let j := elem (s.v vb) w i % (2 * n); if j < n then elem (s.v va) w j else elem (s.v vc) w (j - n))

def execVqin (vd : BitVec 5) (q : BitVec 3) (s : State) : Out :=
  match s.core.queue q with
  | [] => .next (s.block (.queueEmpty q.toNat))
  | e :: _ => done ((s.popQ s.sid q).vPut vd e.v)
def execVqout (q : BitVec 3) (va : BitVec 5) (s : State) : Out :=
  if s.me.queueFull q then .next (s.block (.queueFull q.toNat))
  else done ((s.queueOrder s.sid q).updCore (fun c => c.push q ⟨s.v va, false, false⟩))

/-- Indices below `n` that the predicate selects, ascending. -/
def selected (k : BitVec 128) (n : Nat) : List Nat := (List.range n).filter (fun i => k.getLsbD i)

def execVcompr (vd va : BitVec 5) (ty : BitVec 4) (p : BitVec 3) (s : State) : Out :=
  let w := tyWidth ty.toNat
  let sel := selected (s.k p) (tyCount ty.toNat)
  done (s.vPut vd (vecOf w (tyCount ty.toNat) (fun j => match sel[j]? with
    | some i => elem (s.v va) w i
    | none => 0)))
def execVexpnd (vd va : BitVec 5) (ty : BitVec 4) (p : BitVec 3) (s : State) : Out :=
  let w := tyWidth ty.toNat
  s.vmap vd ty p (fun i => elem (s.v va) w (selected (s.k p) i).length)

/-! ## Conversion, reduction, scan (11: R267, R268) -/

def execVcvt (vd va : BitVec 5) (dst src : BitVec 4) (mode : BitVec 2) (part p : BitVec 3) (s : State) : Out :=
  let ws := tyWidth src.toNat
  let wd := tyWidth dst.toNat
  let n := 1024 / max ws wd
  let lo := if wd < ws then n * part.toNat else 0
  done (s.vPut vd (vecOf wd (1024 / wd) (fun j =>
    if lo ≤ j && j < lo + n && (s.k p).getLsbD j then
      let i := j - lo
      let x := elem (s.v va) ws (if ws < wd then i + n * part.toNat else i)
      let y := convert src.toNat dst.toNat mode.toNat x
      if dst.toNat == 8 then t6Elem y else y
    else elem (s.v vd) wd j)))

/-- The predicated inputs of a reduction: none where predicated off (04: R129). -/
def State.redIns (s : State) (va : BitVec 5) (ty : BitVec 4) (p : BitVec 3) : List (Option Nat) :=
  (List.range (tyCount ty.toNat)).map (fun i => if (s.k p).getLsbD i then some (elem (s.v va) (tyWidth ty.toNat) i) else none)

def execVred (gd va : BitVec 5) (op : BitVec 10) (ty : BitVec 4) (p : BitVec 3) (s : State) : Out :=
  s.ret gd (tyExt ty.toNat (reduce ty.toNat op.toNat (log2 (tyCount ty.toNat)) (s.redIns va ty p)))
def execVscan (vd va : BitVec 5) (op : BitVec 10) (ty : BitVec 4) (p : BitVec 3) (s : State) : Out :=
  let r := scanFrom ty.toNat op.toNat none (s.redIns va ty p)
  done (s.vPut vd (vecOf (tyWidth ty.toNat) (tyCount ty.toNat) (fun i => r.getD i 0)))

/-! ## Special functions and tables (11: R269, R270) -/

def execVsf (vd va : BitVec 5) (fn : BitVec 10) (p : BitVec 3) (s : State) : Out :=
  s.vmap vd 12 p (fun i => sfu fn.toNat (elem (s.v va) 32 i))
def execVlut (vd va : BitVec 5) (ch slot : BitVec 2) (p : BitVec 3) (s : State) : Out :=
  let t := (s.core.chains.get ch.toFin).tables.get slot.toFin
  s.vmap vd 12 p (fun i => slotAt t (elem (s.v va) 32 i))

/-! ## Quantisation (11: R276-R278) -/

def noneExp : Nat := 0x80000000
/-- ⌊log2|x|⌋ of a finite non-zero f32 pattern. -/
def exp2Of (x : Nat) : Option Int :=
  let f := fmtF32
  if f.expMask ≤ f.mag x || f.mag x == 0 then none
  else let v := f.val x; some ((log2 v.m.natAbs : Int) + v.e)

def maxOpt (a b : Option Int) : Option Int :=
  match a, b with
  | some x, some y => some (max x y)
  | some x, none => some x
  | none, y => y

/-- Local exponents of blocks 0 and 1 over the selected elements. -/
def State.blockExp (s : State) (va : BitVec 5) (p : BitVec 3) (b : Nat) : Option Int :=
  ((List.range 16).map (fun j => let i := 16 * b + j; if (s.k p).getLsbD i then exp2Of (elem (s.v va) 32 i) else none)).foldl maxOpt none

def expPat (e : Option Int) : Nat :=
  match e with
  | some x => patOf 32 x
  | none => noneExp

def execVmaxe (vd va : BitVec 5) (p : BitVec 3) (s : State) : Out :=
  let e0 := expPat (s.blockExp va p 0)
  let e1 := expPat (s.blockExp va p 1)
  done (s.vPut vd (vecOf 32 32 (fun i => if i < 16 then e0 else e1)))
def execVmaxeAcc (vd va : BitVec 5) (p : BitVec 3) (s : State) : Out :=
  let e0 := expPat (s.blockExp va p 0)
  let e1 := expPat (s.blockExp va p 1)
  done (s.vPut vd (vecOf 32 32 (fun i => elMax 4 (elem (s.v vd) 32 i) (if i < 16 then e0 else e1))))

/-- RoundRNE(a × 2^(29−E)); an exponent of 400 either way already decides the clamp. -/
def quantise (a : Nat) (e : Int) : Int :=
  let v := fmtF32.val a
  let v := v.scale (max (-400) (min (29 - e) 400))
  let m := roundMag 0 (v.m < 0) v.m.natAbs v.e 0
  if v.m < 0 then -(m : Int) else m

def execVqnt (vd va vb : BitVec 5) (p : BitVec 3) (s : State) : Out :=
  s.vmap vd 12 p (fun i =>
    let a := elem (s.v va) 32 i
    let e := elem (s.v vb) 32 i
    if fmtF32.mag a < fmtF32.expMask && e != noneExp then patOf 32 (clampTy 4 (quantise a (sxt e 32))) else 0)

/-- Class codes of `vqnt.cls` (11: R277). -/
def fClass (x : Nat) : Nat :=
  let f := fmtF32
  if f.isNaN x then 1 else if f.isInf x then (if f.sign x then 3 else 2) else 0

def execVqntCls (vd va _vb : BitVec 5) (p : BitVec 3) (s : State) : Out :=
  s.vmap vd 12 p (fun i => fClass (elem (s.v va) 32 i))

/-- RoundF32(S × 2^(E−29)), RNE once (11: R278). -/
def dequant (sum : Int) (e : Nat) : Nat :=
  if sum == 0 || e == noneExp then 0
  else fmtF32.round 0 false ⟨sum, max (-2000) (min (sxt e 32 - 29) 2000)⟩

def execVdqnt (vd va vb : BitVec 5) (part : BitVec 1) (ty : BitVec 4) (p : BitVec 3) (s : State) : Out :=
  if ty = 4 then s.vmap vd 12 p (fun i => dequant (sxt (elem (s.v va) 32 i) 32) (elem (s.v vb) 32 i))
  else
    done (s.vPut vd (vecOf 32 32 (fun i =>
      if 16 * part.toNat ≤ i && i < 16 * part.toNat + 16 && (s.k p).getLsbD i then
        dequant (sxt (elem (s.v va) 64 (i - 16 * part.toNat)) 64) (elem (s.v vb) 32 i)
      else elem (s.v vd) 32 i)))

/-! ## Hashing and sorting (11: R279, R280; 05: R143) -/

def mix (z : Word) : Word :=
  let z := (z ^^^ (z >>> 31)) * 0x8B51F2C73A9D064F
  let z := (z ^^^ (z >>> 27)) * 0xE4A71D3B95C278F1
  z ^^^ (z >>> 33)

def h64 (a b c d : Word) : Word := mix (mix (mix (mix (a ^^^ 0x5C3EA9B107D46F2B) ^^^ b) ^^^ c) ^^^ d)

def execVhash (vd va gb : BitVec 5) (ty : BitVec 4) (p : BitVec 3) (s : State) : Out :=
  let w := tyWidth ty.toNat
  s.vmap vd ty p (fun i => (h64 (s.g gb) (BitVec.ofNat 64 (elem (s.v va) w i)) (BitVec.ofNat 64 w) 0).toNat % 2 ^ w)

/-- Sort key of an element; none for NaN and NaR, which stand after every number (11: R280). -/
def sortKey (t x : Nat) : Option Int :=
  if isFloatTy t then (if (fmtOf t).isNaN x then none else some ((fmtOf t).key x))
  else if t == 8 then (if x % 64 == 32 then none else some (sxt x 6))
  else if t == 9 then (if x == 128 then none else some (sxt x 8))
  else some (tyInt t x)

/-- `a` may stand before a later `b` of the source. -/
def keyLe (desc : Bool) (a b : Option Int) : Bool :=
  match a, b with
  | some x, some y => if desc then y ≤ x else x ≤ y
  | none, some _ => false
  | _, none => true

/-- Stable insertion of an element that stood before those of `l`. -/
def insSorted {α : Type} (le : α → α → Bool) (a : α) : List α → List α
  | [] => [a]
  | b :: r => if le a b then a :: b :: r else b :: insSorted le a r

def stableSort {α : Type} (le : α → α → Bool) : List α → List α
  | [] => []
  | a :: r => insSorted le a (stableSort le r)

def State.vsort (s : State) (desc : Bool) (vd va : BitVec 5) (idx : BitVec 1) (ty : BitVec 4) (p : BitVec 3) : Out :=
  let t := ty.toNat
  let w := tyWidth t
  let l := (selected (s.k p) (tyCount t)).map (fun i => (i, elem (s.v va) w i))
  let l := stableSort (fun a b => keyLe desc (sortKey t a.2) (sortKey t b.2)) l
  done (s.vPut vd (vecOf w (tyCount t) (fun j => match l[j]? with
    | some (i, x) => if idx = 1 then i else x
    | none => 0)))

def execVsort (vd va : BitVec 5) (idx : BitVec 1) (ty : BitVec 4) (p : BitVec 3) (s : State) : Out := s.vsort false vd va idx ty p
def execVsortD (vd va : BitVec 5) (idx : BitVec 1) (ty : BitVec 4) (p : BitVec 3) (s : State) : Out := s.vsort true vd va idx ty p

end Sys2Proof.Machine
end

