-- ==== Sys2Proof/Machine/Chain.lean ====
section
/-! DEFINITION. Chain.lean: the vector chains: `VCHAIN`, `VRUN` and the results of a stream (11: R271-R275; 02: R79, R80). -/

namespace Sys2Proof.Machine

/-! ## Configuration -/

/-- What the read of a pool range gives (07: R187). -/
inductive PoolRead where
  | ok (bytes : List Byte) (s : State)
  | badLine (s : State)
  | fault (c : Cause) (addr : Word)

/-- Lines `l` to `l + n - 1` of a parameter-block pool run at `p`, read as a fetch; the 62 data bytes of each. -/
def State.poolLines (s : State) (p : Word) (l : Nat) : Nat → PoolRead
  | 0 => .ok [] s
  | n + 1 =>
    let a := p + BitVec.ofNat 64 (64 * l)
    match s.loadBytes s.sid a 64 .fetch .fetch with
    | .fault c x => .fault c x
    | .bad s => .badLine s
    | .ok b s =>
      if natOfBytes (b.take 2) / 2 ^ 14 != 3 || natOfBytes (b.take 2) % 2 ^ 14 != 0 then .badLine s
      else match s.poolLines p (l + 1) n with
        | .ok r s => .ok (b.drop 2 ++ r) s
        | x => x

/-- Pool bytes `o` to `o + n - 1` (07: R187 `PoolByte`). -/
def State.poolBytes (s : State) (p : Word) (o n : Nat) : PoolRead :=
  match s.poolLines p (o / 62) ((o + n - 1) / 62 + 1 - o / 62) with
  | .ok b s => .ok ((b.drop (o % 62)).take n) s
  | x => x

/-- Bytes `i` to `i + n - 1` of a list, little-endian. -/
def leAt (b : List Byte) (i n : Nat) : Nat := natOfBytes ((b.drop i).take n)

/-- R272's conditions on a stage descriptor. -/
def stageOk (d : Nat) : Bool :=
  let sop := d % 256
  let usesB := 1 ≤ sop && sop ≤ 5
  sop ≤ 10 && d / 2 ^ 11 % 2 ^ 21 == 0 && (usesB || (d / 2 ^ 10 % 2 == 0 && d / 2 ^ 32 == 0)) &&
    (sop == 8 || d / 2 ^ 8 % 4 == 0)

/-- R271's conditions on the first 64 bytes. -/
def chainHeadOk (b : List Byte) : Bool :=
  (List.range 6).all (fun i => stageOk (leAt b (8 * i) 8)) && leAt b 48 1 < 16 && leAt b 49 15 == 0

/-- A table image: `LO`, `HI` finite and `LO < HI` (11: R273). -/
def imageOk (b : List Byte) : Bool :=
  let lo := leAt b 0 4
  let hi := leAt b 4 4
  let f := fmtF32
  f.mag lo < f.expMask && f.mag hi < f.expMask && f.cmpKey lo < f.cmpKey hi

def imageOf (b : List Byte) : LTable :=
  { lo := BitVec.ofNat 32 (leAt b 0 4), hi := BitVec.ofNat 32 (leAt b 4 4),
    ent := (List.range 256).map (fun i => (BitVec.ofNat 32 (leAt b (8 + 8 * i) 4), BitVec.ofNat 32 (leAt b (12 + 8 * i) 4))) }

/-- The slots that `TLOAD` names, ascending. -/
def tloadSlots (b : List Byte) : List Nat := (List.range 4).filter (fun t => leAt b 48 1 / 2 ^ t % 2 == 1)

/-- Table slot `t` after the images `ims` of the named slots are loaded. -/
def loadedSlot (old : Option LTable) (slots : List Nat) (ims : List (List Byte)) (t : Nat) : Option LTable :=
  match (slots.zip ims).find? (fun p => p.1 == t) with
  | some (_, im) => some (imageOf im)
  | none => old

/-- The chain's configuration from the block `b` and its table images. -/
def configure (c : Chain) (b : List Byte) (ims : List (List Byte)) : Chain :=
  { stages := Vector.ofFn (fun i => BitVec.ofNat 64 (leAt b (8 * i.val) 8)),
    tables := Vector.ofFn (fun i => loadedSlot (c.tables.get i) (tloadSlots b) ims i.val) }

/-- Split bytes into pieces of 2,056. -/
def images (b : List Byte) : Nat → List (List Byte)
  | 0 => []
  | n + 1 => b.take 2056 :: images (b.drop 2056) n

def State.vchainRead (s : State) (p : Word) (o : Nat) (k : State → Nat → Option (List Byte × List (List Byte)) → Out)
    (flt : Cause → Word → Out) : Out :=
  if p.toNat / 2 ^ 56 != 0 || p.toNat % 64 != 0 then k s 2 none
  else match s.poolBytes p o 64 with
    | .fault c a => flt c a
    | .badLine s => k s 2 none
    | .ok b s =>
      if !chainHeadOk b then k s 1 none
      else
        let n := (tloadSlots b).length
        if n == 0 then k s 0 (some (b, []))
        else match s.poolBytes p (o + 64) (2056 * n) with
          | .fault c a => flt c a
          | .badLine s => k s 2 none
          | .ok r s =>
            let ims := images r n
            if ims.all imageOk then k s 0 (some (b, ims)) else k s 1 none

/-- `VCHAIN` (11: R273). -/
def execVchain (d : BitVec 5) (ch : BitVec 2) (a : BitVec 5) (o : BitVec 32) (s : State) : Out :=
  s.vchainRead (s.g a) o.toNat
    (fun s st cfg =>
      let s := match cfg with
        | some (b, ims) => s.updCore (fun c => { c with chains := c.chains.set ch.toNat (configure (c.chains.get ch.toFin) b ims) ch.isLt })
        | none => s
      s.ret d (BitVec.ofNat 64 st))
    (fun c a => .next (s.w0Fault c a akFetch))

/-! ## Application -/

/-- One stage over the 32 elements (11: R272): `x0` entered stage 0, `x` the stage before. -/
def stageAt (c : Chain) (d : Word) (x0 x : VWord) : VWord :=
  let f := fmtF32
  let b (i : Nat) : Nat := if d.getLsbD 10 then elem x0 32 i else bitsOf d 32 32
  let el (i : Nat) : Nat := elem x 32 i
  let all := (List.range 32).map (fun i => some (el i))
  let y : Nat → Nat :=
    match bitsOf d 0 8 with
    | 1 => fun i => f.add (el i) (b i)
    | 2 => fun i => f.sub (el i) (b i)
    | 3 => fun i => f.mul (el i) (b i)
    | 4 => fun i => f.min (el i) (b i)
    | 5 => fun i => f.max (el i) (b i)
    | 6 => fun i => f.mag (el i)
    | 7 => fun i => f.flip (el i)
    | 8 => fun i => slotAt (c.tables.get ⟨bitsOf d 8 2, Nat.mod_lt _ (by decide)⟩) (el i)
    | 9 => let r := reduce 12 0 5 all; fun _ => r
    | 10 => let r := reduce 12 2 5 all; fun _ => r
    | _ => el
  vecOf 32 32 y

/-- The vector that leaves the chain. -/
def Chain.apply (c : Chain) (x0 : VWord) : VWord := c.stages.toList.foldl (fun x d => stageAt c d x0 x) x0

/-! ## `VRUN` (11: R275) -/

/-- A `VRUN` on a chain that runs no other strand's, in issue order (11: R274): `take` when it is its turn, else it waits. -/
def State.onChain (s : State) (ch : BitVec 2) (take : State → Out) : Out :=
  let i := sidTile s.sid
  let t := s.tile i
  let q := t.chainQ.get ch.toFin
  if (t.chainOwner.get ch.toFin).isNone && (q.isEmpty || q.head? == some s.sid) then
    take (s.updTile i (fun t => { t with chainQ := t.chainQ.set ch.toNat (q.filter (fun x => x != s.sid)) ch.isLt }))
  else if q.contains s.sid then .next (s.block (.chain ch.toNat))
  else .next ((s.updTile i (fun t => { t with chainQ := t.chainQ.set ch.toNat (q ++ [s.sid]) ch.isLt })).block (.chain ch.toNat))

def execVrunVec (vd va : BitVec 5) (ch : BitVec 2) (p : BitVec 3) (s : State) : Out :=
  s.onChain ch (fun s =>
    let y := (s.core.chains.get ch.toFin).apply (s.v va)
    done (s.vPut vd (vecMask (s.v vd) (s.k p) 32 32 (fun i => elem y 32 i))))

/-- Room of the chain: one vector per cycle of its 24. -/
def chainDepth : Nat := 24

/-- Pop one entry into the chain, when the queue holds one, the chain has room and qD is not full; once per edge of the arithmetic clock. -/
def State.chainPop (s : State) (sid : Nat) (ch : BitVec 2) (qd qa : BitVec 3) (gb : BitVec 5) : State :=
  let t := s.strand sid
  let tile := s.tile (sidTile sid)
  let pipe := tile.chainPipe.get ch.toFin
  let s := s.updTile (sidTile sid) (fun t => { t with chainAt := t.chainAt.set ch.toNat s.edges ch.isLt })
  match t.core.queue qa with
  | [] => s
  | e :: _ =>
    if pipe.length < chainDepth && pipe.length < (t.core.e.gGet gb).toNat && t.saveReq.isNone && !t.queueFull qd then
      (s.popQ sid qa).updTile (sidTile sid) (fun t =>
        { t with chainPipe := t.chainPipe.set ch.toNat (pipe ++ [(s.engAfter 24, e.v, e.err)]) ch.isLt })
    else s

/-- The stream takes its chain, or waits for it in issue order (11: R274). -/
def execVrun (qd qa : BitVec 3) (gb : BitVec 5) (ch : BitVec 2) (s : State) : Out :=
  if s.g gb == 0 then done s
  else if ((s.tile (sidTile s.sid)).chainOwner.get ch.toFin) == some s.sid then .next (s.block (.stream ch qd qa gb))
  else s.onChain ch (fun s =>
    let s := s.updTile (sidTile s.sid) (fun t => { t with chainOwner := t.chainOwner.set ch.toNat (some s.sid) ch.isLt })
    .next ((s.block (.stream ch qd qa gb)).chainPop s.sid ch qd qa gb))

/-- Free a chain that a strand ran. -/
def Tile.freeChain (t : Tile) (ch : BitVec 2) : Tile :=
  { t with chainOwner := t.chainOwner.set ch.toNat none ch.isLt, chainPipe := t.chainPipe.set ch.toNat [] ch.isLt }

/-- A strand leaves the tile: it runs no chain and waits for none. -/
def Tile.dropChains (t : Tile) (sid : Nat) : Tile :=
  let t := (List.range 4).foldl (fun t ch => let c := BitVec.ofNat 2 ch; if t.chainOwner.get c.toFin == some sid then t.freeChain c else t) t
  { t with chainQ := t.chainQ.map (fun l => l.filter (fun x => x != sid)) }

/-- The stream that owns chain `ch` of a tile: its strand and operands. -/
def State.streamOf (s : State) (tile : Nat) (ch : BitVec 2) : Option (Nat × BitVec 3 × BitVec 3 × BitVec 5) :=
  match (s.tile tile).chainOwner.get ch.toFin with
  | none => none
  | some sid =>
    match (s.strand sid).core.e.wait with
    | some (.stream c qd qa gb) => if c == ch then some (sid, qd, qa, gb) else none
    | _ => none

/-- The oldest vector leaves the chain into qD, and g[b] counts down; at 0 the `VRUN` completes and the chain is free. -/
def State.chainPush (s : State) (tile : Nat) (c : BitVec 2) (sid : Nat) (qd : BitVec 3) (gb : BitVec 5) (x0 : VWord) (err : Bool)
    (r : List (Nat × VWord × Bool)) : State :=
  let t := s.strand sid
  let y := (t.core.chains.get c.toFin).apply x0
  let left := t.core.e.gGet gb - 1
  let s := (s.queueOrder sid qd).updCoreOf sid (fun k => let k := k.push qd ⟨y, err, false⟩; { k with e := k.e.gPut gb left })
  let s := s.updTile tile (fun t => { t with chainPipe := t.chainPipe.set c.toNat r c.isLt })
  if left == 0 then (s.updTile tile (fun t => t.freeChain c)).updCoreOf sid (fun k => { k with e := k.e.adv }) else s

/-- `CHAIN_RESULT` (11: R275): one edge of a chain that streams: the oldest vector leaves it when it is due, and the next entry
enters. While qD is full the chain stalls: every vector in it is late by a cycle. -/
def execChainResult (tile ch : Nat) (s : State) : Out :=
  let c := BitVec.ofNat 2 ch
  match s.streamOf tile c with
  | none => .next s
  | some (sid, qd, qa, gb) =>
    let pipe := (s.tile tile).chainPipe.get c.toFin
    let due : Bool := match pipe with
      | (due, _, _) :: _ => due ≤ s.prog
      | [] => false
    if !s.edge || (s.tile tile).chainAt.get c.toFin == s.edges then .next s
    else if (s.strand sid).queueFull qd then
      .next (s.updTile tile (fun t => { t with
        chainAt := t.chainAt.set c.toNat s.edges c.isLt, chainPipe := t.chainPipe.set c.toNat (pipe.map (fun p => (p.1 + 4, p.2))) c.isLt }))
    else
      let s := match pipe with
        | (_, x0, err) :: r => if due then s.chainPush tile c sid qd gb x0 err r else s
        | [] => s
      match s.streamOf tile c with
      | none => .next s
      | some _ => .next (s.chainPop sid c qd qa gb)

end Sys2Proof.Machine
end

