-- ==== Sys2Proof/Machine/Summary.lean ====
section
/-! DEFINITION. Summary.lean: mergeable summaries (05: R136-R157) and their instructions (12: R294-R301). -/

namespace Sys2Proof.Machine

/-! ## Objects -/

def sat32 (n : Nat) : Nat := min n (2 ^ 32 - 1)
def sat64 (n : Nat) : Nat := min n (2 ^ 64 - 1)

/-- A quantile sketch (05: R138). -/
structure QSk where
  kcode  : Nat
  coin   : Nat
  nonrepro : Bool
  full   : Bool
  seed   : Nat
  uid    : Nat
  ncomp  : Nat
  weight : Nat
  lo     : Nat
  hi     : Nat
  nans   : Nat
  alt    : BitVec 32
  levels : List (List Nat)        -- NLEV of them
  deriving DecidableEq, Repr

/-- An entry of a heavy-hitter list. -/
structure HhE where
  key   : Nat
  count : Nat
  err   : Nat
  deriving DecidableEq, Repr

/-- A heavy-hitter list (05: R147): its live entries. -/
structure Hh where
  mcode : Nat
  total : Nat
  dec   : Nat
  ents  : List HhE
  deriving DecidableEq, Repr

/-- Distinct-count registers (05: R151). -/
structure Dc where
  seed  : Nat
  total : Nat
  regs  : List Nat
  deriving DecidableEq, Repr

def qsK (kcode : Nat) : Nat := 256 * 4 ^ kcode
def hhM (mcode : Nat) : Nat := if mcode == 0 then 64 else 256

/-- Size of an object of a type and size code; none when the code is malformed. -/
def objSize (ty code : Nat) : Option Nat :=
  match ty with
  | 1 => if code ≤ 2 then some (4096 * 4 ^ code) else none
  | 2 => if code ≤ 1 then some (64 + 16 * hhM code) else none
  | _ => some 4160

def allZero (b : List Byte) (i n : Nat) : Bool := ((b.drop i).take n).all (fun x => x == 0)

/-- `n` f32 patterns. -/
def wordsOf (b : List Byte) : Nat → List Nat
  | 0 => []
  | n + 1 => natOfBytes (b.take 4) :: wordsOf (b.drop 4) n

def levelsOf (b : List Byte) : List Nat → List (List Nat)
  | [] => []
  | f :: r => wordsOf b f :: levelsOf (b.drop (4 * f)) r

/-- The remaining checks of 05: R136 on a QS, and its contents. -/
def parseQs (b : List Byte) : Option QSk :=
  let nlev := leAt b 4 1
  let fill := (List.range 32).map (fun l => leAt b (0x40 + 2 * l) 2)
  if leAt b 2 1 ≤ 2 && leAt b 3 1 < 4 && 1 ≤ nlev && nlev ≤ 32 && allZero b 5 3 && allZero b 0x38 8 &&
      (fill.drop nlev).all (fun f => f == 0) && 128 + 4 * fill.sum ≤ b.length then
    some { kcode := leAt b 1 1, coin := leAt b 2 1, nonrepro := leAt b 3 1 % 2 == 1, full := 2 ≤ leAt b 3 1,
           seed := leAt b 8 8, uid := leAt b 0x10 8, ncomp := leAt b 0x18 8, weight := leAt b 0x20 8, lo := leAt b 0x28 4,
           hi := leAt b 0x2C 4, nans := leAt b 0x30 4, alt := BitVec.ofNat 32 (leAt b 0x34 4),
           levels := levelsOf (b.drop 0x80) (fill.take nlev) }
  else none

/-- The bytes of a QS; everything beyond the last retained value is zero (05: R137). -/
def QSk.bytes (q : QSk) : List Byte :=
  let fill := (List.range 32).flatMap (fun l => bytesLE (q.levels.getD l []).length 2)
  padTo (4096 * 4 ^ q.kcode) (bytesLE 1 1 ++ bytesLE q.kcode 1 ++ bytesLE q.coin 1 ++
    bytesLE ((if q.nonrepro then 1 else 0) + (if q.full then 2 else 0)) 1 ++ bytesLE q.levels.length 1 ++ bytesLE 0 3 ++
    bytesLE q.seed 8 ++ bytesLE q.uid 8 ++ bytesLE q.ncomp 8 ++ bytesLE q.weight 8 ++ bytesLE q.lo 4 ++ bytesLE q.hi 4 ++
    bytesLE q.nans 4 ++ bytesLE q.alt.toNat 4 ++ bytesLE 0 8 ++ fill ++
    q.levels.flatMap (fun l => l.flatMap (fun x => bytesLE x 4)))

def hhEntry (b : List Byte) (i : Nat) : HhE :=
  ⟨leAt b (0x40 + 16 * i) 4, leAt b (0x44 + 16 * i) 4, leAt b (0x48 + 16 * i) 4⟩

/-- The remaining checks of 05: R136 on an HH. The order of live entries is not among them (log 10). -/
def parseHh (b : List Byte) : Option Hh :=
  let m := hhM (leAt b 1 1)
  let es := (List.range m).map (hhEntry b)
  if allZero b 2 6 && allZero b 0x18 40 && (List.range m).all (fun i => leAt b (0x4C + 16 * i) 4 == 0) &&
      es.all (fun e => 0 < e.count || (e.key == 0 && e.err == 0)) then
    some { mcode := leAt b 1 1, total := leAt b 8 8, dec := leAt b 0x10 8, ents := es.filter (fun e => 0 < e.count) }
  else none

/-- The order of R147: `COUNT` descending, then `KEY` ascending. -/
def hhLe (a b : HhE) : Bool := b.count < a.count || (a.count == b.count && a.key ≤ b.key)

def Hh.bytes (h : Hh) : List Byte :=
  padTo (64 + 16 * hhM h.mcode) (bytesLE 2 1 ++ bytesLE h.mcode 1 ++ bytesLE 0 6 ++ bytesLE h.total 8 ++ bytesLE h.dec 8 ++
    bytesLE 0 40 ++ (stableSort hhLe h.ents).flatMap (fun e => bytesLE e.key 4 ++ bytesLE e.count 4 ++ bytesLE e.err 4 ++ bytesLE 0 4))

def parseDc (b : List Byte) : Option Dc :=
  if allZero b 1 7 && allZero b 0x18 40 then
    some { seed := leAt b 8 8, total := leAt b 0x10 8, regs := (b.drop 0x40).map (·.toNat) }
  else none

def Dc.bytes (d : Dc) : List Byte :=
  bytesLE 3 1 ++ bytesLE 0 7 ++ bytesLE d.seed 8 ++ bytesLE d.total 8 ++ bytesLE 0 40 ++ d.regs.map (BitVec.ofNat 8)

/-! ## The quantile sketch (05: R139-R145) -/

def tKey (x : Nat) : Int := fmtF32.key x
def tLe (a b : Nat) : Bool := tKey a ≤ tKey b

/-- `cap(l)` with `nlev` levels (05: R139). -/
def qsCap (k nlev l : Nat) : Nat := let d := nlev - 1 - l; max 8 (k * 2 ^ d / 3 ^ d)

/-- A value of a 64-bit count that passes 2^64 − 1 where the spec states none: a free value (log 2). -/
def orFree (fr : Nat → Word) (k v : Nat) : Nat := if v < 2 ^ 64 then v else (fr k).toNat

/-- `Coin(l)` (05: R142): the coin, and the sketch after drawing it. -/
def QSk.toss (q : QSk) (fr : Nat → Word) (l : Nat) : Bool × QSk :=
  match q.coin with
  | 0 => ((h64 (BitVec.ofNat 64 q.seed) (BitVec.ofNat 64 q.uid) (BitVec.ofNat 64 l) (BitVec.ofNat 64 q.ncomp)).getLsbD 63, q)
  | 1 => (q.alt.getLsbD l, { q with alt := q.alt ^^^ BitVec.ofNat 32 (2 ^ l) })
  | _ => ((fr (1000 + q.ncomp)).getLsbD 0, { q with nonrepro := true })

/-- Elements at positions 2i + c. -/
def promoted (c : Bool) : List Nat → List Nat
  | a :: b :: r => (if c then b else a) :: promoted c r
  | _ => []

/-- `Compact(l)` (05: R141); none when it would need level 32. DESIGN CHOICE (log 69): of a level that was stored out of order, which R136 does not
check, the ascending merge is a stable sort of the existing values followed by the promoted ones. -/
def QSk.compact (q : QSk) (fr : Nat → Word) (l : Nat) : Option QSk :=
  if 31 ≤ l then none
  else
    let s := stableSort tLe (q.levels.getD l [])
    let n := s.length
    let (c, q) := q.toss fr l
    let lv := if l + 1 == q.levels.length then q.levels ++ [[]] else q.levels
    let up := stableSort tLe (lv.getD (l + 1) [] ++ promoted c s)
    let keep := if n % 2 == 1 then s.drop (n - 1) else []
    some { q with levels := (lv.set l keep).set (l + 1) up, ncomp := orFree fr 1 (q.ncomp + 1) }

/-- The lowest level at or above its capacity. -/
def QSk.over (q : QSk) : Option Nat :=
  (List.range q.levels.length).find? (fun l => qsCap (qsK q.kcode) q.levels.length l ≤ (q.levels.getD l []).length)

/-- `Compress()` (05: R140), counting the blocks sorted; each compaction halves a level, so `fuel` above the number of values
and levels suffices. -/
def QSk.compress (q : QSk) (fr : Nat → Word) (cost : Nat) : Nat → Option (QSk × Nat)
  | 0 => some (q, cost)
  | fuel + 1 =>
    match q.over with
    | none => some (q, cost)
    | some l =>
      match q.compact fr l with
      | none => none
      | some q' => q'.compress fr (cost + ((q.levels.getD l []).length + 127) / 128) fuel

def QSk.count (q : QSk) : Nat := (q.levels.map List.length).sum

def QSk.settle (q : QSk) (fr : Nat → Word) (cost : Nat) : Option (QSk × Nat) := q.compress fr cost (q.count + 64)

/-- `TotalMin` and `TotalMax` (05: R139, R140). -/
def tMin (a b : Nat) : Nat := if tKey b < tKey a then b else a
def tMax (a b : Nat) : Nat := if tKey a < tKey b then b else a

/-- Insertion of one value (05: R140). -/
def QSk.add (q : QSk) (fr : Nat → Word) (cost x : Nat) : Option (QSk × Nat) :=
  if fmtF32.isNaN x then some ({ q with nans := sat32 (q.nans + 1) }, cost)
  else
    let l0 := q.levels.getD 0 [] ++ [x]
    { q with levels := q.levels.set 0 l0, weight := orFree fr 2 (q.weight + 1), lo := tMin q.lo x, hi := tMax q.hi x }.settle fr cost

def QSk.addAll (q : QSk) (fr : Nat → Word) (cost : Nat) : List Nat → Option (QSk × Nat)
  | [] => some (q, cost)
  | x :: r =>
    match q.add fr cost x with
    | none => none
    | some (q, cost) => q.addAll fr cost r

/-- `QSMRG` (05: R144); an ascending merge as in `Compact` (log 69). -/
def QSk.merge (q s : QSk) (fr : Nat → Word) : Option (QSk × Nat) :=
  if 2 ^ 64 ≤ q.weight + s.weight then none
  else
    let n := max q.levels.length s.levels.length
    let lv := (List.range n).map (fun l =>
      let both := q.levels.getD l [] ++ s.levels.getD l []
      if l == 0 then both else stableSort tLe both)
    { q with levels := lv, weight := q.weight + s.weight, nans := sat32 (q.nans + s.nans), lo := tMin q.lo s.lo,
             hi := tMax q.hi s.hi, nonrepro := q.nonrepro || s.nonrepro }.settle fr ((q.count + s.count + 127) / 128)

/-- Retained values with their weights, ascending. -/
def QSk.items (q : QSk) : List (Nat × Nat) :=
  stableSort (fun a b => tLe a.1 b.1)
    ((List.range q.levels.length).flatMap (fun l => (q.levels.getD l []).map (fun v => (v, 2 ^ l))))

/-- The first value at which the running weight reaches `r`. -/
def reach (r acc : Nat) : List (Nat × Nat) → Option Nat
  | [] => none
  | (v, w) :: t => if r ≤ acc + w then some v else reach r (acc + w) t

def dNaN : Nat := 0x7FC00000

/-- `QSQRY` (05: R145). -/
def QSk.query (q : QSk) (p : Nat) : Nat :=
  let f := fmtF32
  if q.weight == 0 || f.expMask ≤ f.mag p then dNaN
  else if f.isZero p then q.lo
  else if f.sign p || 0x3F800000 < p then dNaN
  else if p == 0x3F800000 then q.hi
  else
    let v := (f.val p).mul ⟨q.weight, 0⟩
    let r : Int := if 0 ≤ v.e then v.m * 2 ^ v.e.toNat else -((-v.m) / 2 ^ (-v.e).toNat)
    (reach r.toNat 0 q.items).getD q.hi

/-- n / d for positive integers, rounded once to a format. -/
def ratio (f : Fmt) (n d : Nat) : Nat :=
  if n == 0 then 0 else let x := divDy ⟨n, 0⟩ ⟨d, 0⟩ 120; f.roundMag 0 false x.1 x.2

/-- `QSRANK` (05: R145): weight and fraction. -/
def QSk.rank (q : QSk) (x : Nat) : Nat × Nat :=
  if fmtF32.isNaN x then (0, dNaN)
  else
    let w := ((q.items.filter (fun p => tLe p.1 x)).map (·.2)).sum
    (w, if q.weight == 0 then dNaN else ratio fmtF32 w q.weight)

/-! ## Heavy hitters (05: R148, R149) -/

/-- Add 1 to the first live entry of a key; none when no entry has it. -/
def hhBump (x : Nat) : List HhE → Option (List HhE)
  | [] => none
  | e :: r =>
    if e.key == x then some ({ e with count := sat32 (e.count + 1) } :: r)
    else (hhBump x r).map (fun r => e :: r)

def Hh.add (h : Hh) (fr : Nat → Word) (x : Nat) : Hh :=
  let h := { h with total := sat64 (h.total + 1) }
  match hhBump x h.ents with
  | some es => { h with ents := es }
  | none =>
    if h.ents.length < hhM h.mcode then { h with ents := h.ents ++ [⟨x, 1, sat32 h.dec⟩] }
    else
      { h with
        ents := (h.ents.map (fun e => { e with count := e.count - 1, err := sat32 (e.err + 1) })).filter (fun e => 0 < e.count)
        dec := orFree fr 3 (h.dec + 1) }

/-- `HHMRG` (05: R149). DESIGN CHOICE (log 69): of two live entries of one key in an object, which R136 does not check, each is merged with the
other object's first entry of the key. -/
def Hh.merge (a b : Hh) (fr : Nat → Word) : Hh :=
  let find (l : List HhE) (k : Nat) := l.find? (fun e => e.key == k)
  let fromA := a.ents.map (fun e => match find b.ents e.key with
    | some x => (⟨e.key, sat32 (e.count + x.count), sat32 (e.err + x.err)⟩ : HhE)
    | none => ⟨e.key, e.count, sat32 (e.err + b.dec)⟩)
  let fromB := (b.ents.filter (fun e => (find a.ents e.key).isNone)).map (fun e => (⟨e.key, e.count, sat32 (e.err + a.dec)⟩ : HhE))
  let all := stableSort hhLe (fromA ++ fromB)
  let dec := orFree fr 3 (a.dec + b.dec)
  let m := hhM a.mcode
  let total := sat64 (a.total + b.total)
  match all[m]? with
  | none => { a with total := total, dec := dec, ents := all }
  | some e =>
    { a with
      total := total
      dec := orFree fr 4 (dec + e.count)
      ents := (all.map (fun x => { x with count := x.count - e.count, err := sat32 (x.err + e.count) })).filter (fun x => 0 < x.count) }

/-! ## Distinct counts (05: R152-R154) -/

def Dc.add (d : Dc) (w x : Nat) : Dc :=
  let h := h64 (BitVec.ofNat 64 d.seed) (BitVec.ofNat 64 x) (BitVec.ofNat 64 w) 0
  let i := bitsOf h 52 12
  let rho := 1 + leadingZeros h.toNat 52
  { d with regs := d.regs.set i (max (d.regs.getD i 0) rho), total := sat64 (d.total + 1) }

def Dc.merge (a b : Dc) : Dc :=
  { a with regs := List.zipWith max a.regs b.regs, total := sat64 (a.total + b.total) }

def fmtF64 : Fmt := ⟨11, 52⟩

/-- Σ z^(2i+1) / (2i+1) over `n` terms from term `i`, for z = `num/den`, in units of 2^-200; `p` is z^(2i+1). -/
def atanhSum (num den i p : Nat) : Nat → Nat
  | 0 => 0
  | n + 1 => p / (2 * i + 1) + atanhSum num den (i + 1) (p * num * num / (den * den)) n

/-- 2 atanh(num/den) in units of 2^-200. -/
def atanh2 (num den : Nat) : Nat := 2 * atanhSum num den 0 (2 ^ 200 * num / den) 80

/-- ln(4096 / v) in units of 2^-200, for v from 1 to 4096: (12 − k) ln 2 − ln(v / 2^k). -/
def lnQuot (v : Nat) : Nat :=
  let k := log2 v
  (12 - k) * atanh2 1 3 - atanh2 (v - 2 ^ k) (v + 2 ^ k)

/-- Round a binary64 pattern of a non-negative number to the nearest integer, ties to even. -/
def f64ToNat (x : Nat) : Nat := let d := fmtF64.val x; roundMag 0 false d.m.natAbs d.e 0

/-- `DCEST` (05: R154). -/
def Dc.estimate (d : Dc) : Nat :=
  let z := d.regs.foldl (fun (acc : Dy) (r : Nat) => acc.add ⟨1, -(r : Int)⟩) Dy.zero
  let v := (d.regs.filter (fun r => r == 0)).length
  let a := fmtF64.val (ratio fmtF64 (7213 * 4096000 * 4096 ^ 2) (10000 * 4097079))
  let q := divDy a z 120
  let e := fmtF64.roundMag 0 false q.1 q.2
  let small := !((Dy.ofInt 10240).lt (fmtF64.val e))
  let e := if small && 0 < v then
      let l := fmtF64.round 0 false ⟨lnQuot v, -200⟩
      fmtF64.round 0 false ((fmtF64.val l).scale 12)
    else e
  sat64 (f64ToNat e)

/-! ## The engine (05: R156, R157; 02: R78, R81) -/

/-- The ranges still being written on the tile. -/
def State.sumClash (s : State) (rs : List (Nat × Nat)) : Bool :=
  (s.tile (sidTile s.sid)).sums.any (fun o => rs.any (fun r => o.lo < r.2 && r.1 < o.hi))

/-- Cycles of one inserted vector, and of one 128-element block sorted (02: R78). -/
def insCost (tile : Nat) : Nat := if isXTile tile then 1 else 4
def blkCost (tile : Nat) : Nat := if isXTile tile then 8 else 64

/-- What the operation reads is performed by then (03: R112): here every write on its way into the strand's allocation. -/
def State.sumSettle (s : State) : State :=
  let lo := scratchKey (sidTile s.sid) s.me.base
  s.settle (fun o => o.cells.any (fun c => lo ≤ c.1 && c.1 < lo + s.me.size))

/-- Issue a summary instruction whose operation is known: the engine writes the object and the results when it completes. -/
def State.sumIssue (s : State) (wr : Option (Nat × List Byte)) (regs : List (BitVec 5 × Word)) (cost : Nat) : Out :=
  let tile := sidTile s.sid
  let start := match (s.tile tile).sums.getLast? with
    | some o => max o.due s.prog
    | none => s.prog
  let (lo, bytes) := wr.getD (0, [])
  let op : SumOp := ⟨s.sid, lo, lo + bytes.length, cellsAt lo bytes, regs, start + 4 * max cost 1⟩
  done (s.sumSettle.updTile tile (fun t => { t with sums := t.sums ++ [op] }))

/-- Completion of an operation: its writes, in units of 4 bytes, each of which a copy under way may miss (15: R341). DESIGN CHOICE (log 69): it
writes its whole object now, over any store or copy row that was performed there since its issue; R156 allows either order. -/
def State.sumApply (s : State) (o : SumOp) : State :=
  let s := (s.noteUndo o.sid o.lo (o.hi - o.lo)).putUnits (s.whoOf o.sid) false (wordUnits 4 o.cells.length o.cells)
  s.updCoreOf o.sid (fun c => { c with e := o.regs.foldl (fun q r => q.gPut r.1 r.2) c.e })

/-- `SUMMARY_COMPLETION`: the oldest operation of the tile's engine completes, no earlier than the bounds of R157. -/
def execSummaryCompletion (tile : Nat) (s : State) : Out :=
  match (s.tile tile).sums with
  | [] => .next s
  | o :: r =>
    if s.prog < o.due then .next s
    else .next ((s.sumApply o).updTile tile (fun t => { t with sums := r }))

/-- The operations of a strand that have not completed. -/
def State.sumsOf (s : State) (sid : Nat) : List SumOp := (s.tile (sidTile sid)).sums.filter (fun o => o.sid == sid)

/-- What orders memory for other agents waits, on E, for the strand's summary operations (05: R156, 03: R100). -/
def State.afterSums (s : State) (k : State → Out) : Out :=
  let l := s.sumsOf s.sid
  if s.cur.e && !l.isEmpty then .next (s.block (.summary (l.map (fun o => (o.lo, o.hi))))) else k s

/-- Registers of a strand's E sequencer whose results are pending: an instruction that names one waits (05: R157, 12: R294). -/
def State.sumRegs (s : State) (sid : Nat) : List (BitVec 5) := (s.sumsOf sid).flatMap (fun o => o.regs.map (·.1))

/-! ## Checks (12: R294) -/

/-- The object of type `ty` at a local address: its key and bytes, or the status. -/
def State.object (s : State) (ty : Nat) (va : Word) : Except Nat (Nat × List Byte) :=
  if va.toNat % 64 != 0 then .error 2
  else match s.localRange s.sid va 64 with
    | none => .error 2
    | some k =>
      let h := s.rdBytes k 2
      if leAt h 0 1 != ty then .error 1
      else match objSize ty (leAt h 1 1) with
        | none => .error 1
        | some n =>
          match s.localRange s.sid va n with
          | none => .error 2
          | some k => .ok (k, s.rdBytes k n)

/-- An object whose contents pass `parse`. -/
def State.objectAs {α : Type} (s : State) (ty : Nat) (parse : List Byte → Option α) (va : Word) : Except Nat (Nat × List Byte × α) :=
  match s.object ty va with
  | .error e => .error e
  | .ok (k, b) =>
    match parse b with
    | none => .error 1
    | some x => .ok (k, b, x)

/-- A destination and a source (12: R297): each checked, then the pair (05: R136). -/
def State.objectPair {α : Type} (s : State) (ty : Nat) (parse : List Byte → Option α) (same : α → α → Bool) (va vb : Word) :
    Except Nat (Nat × List Byte × α × Nat × α) :=
  match s.objectAs ty parse va with
  | .error e => .error e
  | .ok (k, b, x) =>
    match s.objectAs ty parse vb with
    | .error e => .error e
    | .ok (k2, b2, y) =>
      if b.length == b2.length && same x y && (k == k2 || k + b.length ≤ k2 || k2 + b2.length ≤ k) then .ok (k, b, x, k2, y)
      else .error 1

/-- The first 64 bytes of the objects at local addresses. -/
def State.headRanges (s : State) (vas : List Word) : List (Nat × Nat) :=
  vas.filterMap (fun va => (s.localRange s.sid va 64).map (fun k => (k, k + 64)))

/-- Run `go` unless an object it names is still being written (05: R157); a check that failed writes only `fails`. -/
def State.sumRun {α : Type} (s : State) (vas : List Word) (fails : Nat → List (BitVec 5 × Word)) (r : Except Nat α)
    (named : α → List (Nat × Nat)) (go : α → Out) : Out :=
  if s.sumClash (s.headRanges vas) then .next (s.block (.summary (s.headRanges vas)))
  else match r with
    | .error e => s.sumIssue none (fails e) 1
    | .ok x => if s.sumClash (named x) then .next (s.block (.summary (named x))) else go x

/-- A failed check writes its status to g[d]. -/
def failD (d : BitVec 5) (e : Nat) : List (BitVec 5 × Word) := [(d, BitVec.ofNat 64 e)]
def spanOf {α : Type} (x : Nat × List Byte × α) : List (Nat × Nat) := [(x.1, x.1 + x.2.1.length)]
def spansOf {α : Type} (x : Nat × List Byte × α × Nat × α) : List (Nat × Nat) :=
  [(x.1, x.1 + x.2.1.length), (x.2.2.2.1, x.2.2.2.1 + x.2.1.length)]

/-! ## Instructions -/

/-- The object `SKINIT` writes (12: R295). -/
def initBytes (ty size coin : Nat) (seed uid : Word) : List Byte :=
  match ty with
  | 1 => QSk.bytes { kcode := size, coin := coin, nonrepro := false, full := false, seed := seed.toNat, uid := uid.toNat,
                     ncomp := 0, weight := 0, lo := 0x7F800000, hi := 0xFF800000, nans := 0, alt := 0, levels := [[]] }
  | 2 => Hh.bytes { mcode := size, total := 0, dec := 0, ents := [] }
  | _ => Dc.bytes { seed := seed.toNat, total := 0, regs := List.replicate 4096 0 }

def execSkinit (d a b c : BitVec 5) (ty size coin : BitVec 2) (s : State) : Out :=
  let n := (objSize ty.toNat size.toNat).getD 64
  let r : Except Nat Nat :=
    if (s.g a).toNat % 64 != 0 || (s.localRange s.sid (s.g a) 64).isNone then .error 2
    else match s.localRange s.sid (s.g a) n with
      | none => .error 2
      | some k => .ok k
  s.sumRun [s.g a] (failD d) r (fun k => [(k, k + n)])
    (fun k => s.sumIssue (some (k, initBytes ty.toNat size.toNat coin.toNat (s.g b) (s.g c))) [(d, 0)] 1)

/-- The outcome of an operation on a QS: on `none` only `FULL` in `FLAGS` changes (05: R140). -/
def State.qsFinish (s : State) (d : BitVec 5) (k : Nat) (b : List Byte) (base : Nat) (r : Option (QSk × Nat)) : Out :=
  match r with
  | some (q, cost) => s.sumIssue (some (k, q.bytes)) [(d, 0)] (base + cost * blkCost (sidTile s.sid))
  | none => s.sumIssue (some (k, b.set 3 (b.getD 3 0 ||| 2))) [(d, 3)] 1

/-- The present elements, ascending (12: R296). -/
def State.present (s : State) (vb : BitVec 5) (ty : Nat) (p : BitVec 3) : List Nat :=
  (selected (s.k p) (tyCount ty)).map (fun i => elem (s.v vb) (tyWidth ty) i)

def execQsadd (d ga vb : BitVec 5) (p : BitVec 3) (s : State) : Out :=
  s.sumRun [s.g ga] (failD d) (s.objectAs 1 parseQs (s.g ga)) spanOf
    (fun (k, b, q) => s.qsFinish d k b (insCost (sidTile s.sid))
      (if q.full then none else q.addAll s.free 0 (s.present vb 12 p)))

def execQsmrg (d a b : BitVec 5) (s : State) : Out :=
  s.sumRun [s.g a, s.g b] (failD d) (s.objectPair 1 parseQs (fun _ _ => true) (s.g a) (s.g b))
    spansOf
    (fun (k, b, q, _, y) => s.qsFinish d k b 0 (if q.full then none else q.merge y s.free))

/-- A status word with an f32 result above it. -/
def withF32 (st x : Nat) : Word := BitVec.ofNat 64 (st + x * 2 ^ 32)

def execQsqry (d a b : BitVec 5) (s : State) : Out :=
  s.sumRun [s.g a] (fun e => [(d, withF32 e dNaN)]) (s.objectAs 1 parseQs (s.g a)) spanOf
    (fun (_, _, q) => s.sumIssue none [(d, withF32 0 (q.query (bitsOf (s.g b) 0 32)))] 1)

def execQsrank (d c a b : BitVec 5) (s : State) : Out :=
  s.sumRun [s.g a] (fun e => [(c, 0), (d, withF32 e dNaN)]) (s.objectAs 1 parseQs (s.g a)) spanOf
    (fun (_, _, q) =>
      let r := q.rank (bitsOf (s.g b) 0 32)
      s.sumIssue none [(c, BitVec.ofNat 64 r.1), (d, withF32 0 r.2)] 1)

def execHhadd (d ga vb : BitVec 5) (ty : BitVec 4) (p : BitVec 3) (s : State) : Out :=
  s.sumRun [s.g ga] (failD d) (s.objectAs 2 parseHh (s.g ga)) spanOf
    (fun (k, _, h) =>
      let h := (s.present vb ty.toNat p).foldl (fun h x => let h := h.add s.free x; { h with ents := stableSort hhLe h.ents }) h
      s.sumIssue (some (k, h.bytes)) [(d, 0)] (insCost (sidTile s.sid)))

def execHhmrg (d a b : BitVec 5) (s : State) : Out :=
  s.sumRun [s.g a, s.g b] (failD d) (s.objectPair 2 parseHh (fun _ _ => true) (s.g a) (s.g b))
    spansOf
    (fun (k, _, h, _, y) => s.sumIssue (some (k, (h.merge y s.free).bytes)) [(d, 0)]
      ((h.ents.length + y.ents.length + 127) / 128 * blkCost (sidTile s.sid)))

/-- `HHTOP` (12: R299): g[d] holds n at issue. -/
def execHhtop (d a b : BitVec 5) (s : State) : Out :=
  let n := (s.g d).toNat
  let r : Except Nat (Nat × List Byte × Nat) :=
    match s.objectAs 2 parseHh (s.g a) with
    | .error e => .error e
    | .ok (k, bs, h) =>
      if n == 0 || hhM h.mcode < n then .error 1
      else if (s.g b).toNat % 16 != 0 then .error 2
      else match s.localRange s.sid (s.g b) (16 * n) with
        | none => .error 2
        | some kb => .ok (k, bs, kb)
  s.sumRun [s.g a] (failD d) r (fun x => [(x.1, x.1 + x.2.1.length), (x.2.2, x.2.2 + 16 * n)])
    (fun (_, bs, kb) =>
      let live := ((List.range n).filter (fun i => 0 < (hhEntry bs i).count)).length
      s.sumIssue (some (kb, (bs.drop 0x40).take (16 * n))) [(d, BitVec.ofNat 64 (live * 256))] 1)

def execDcadd (d ga vb : BitVec 5) (ty : BitVec 4) (p : BitVec 3) (s : State) : Out :=
  s.sumRun [s.g ga] (failD d) (s.objectAs 3 parseDc (s.g ga)) spanOf
    (fun (k, _, x) =>
      s.sumIssue (some (k, ((s.present vb ty.toNat p).foldl (fun x e => x.add (tyWidth ty.toNat) e) x).bytes)) [(d, 0)]
        (insCost (sidTile s.sid)))

def execDcmrg (d a b : BitVec 5) (s : State) : Out :=
  s.sumRun [s.g a, s.g b] (failD d) (s.objectPair 3 parseDc (fun x y => x.seed == y.seed) (s.g a) (s.g b))
    spansOf
    (fun (k, _, x, _, y) => s.sumIssue (some (k, (x.merge y).bytes)) [(d, 0)] (32 * blkCost (sidTile s.sid)))

def execDcest (d c a : BitVec 5) (s : State) : Out :=
  s.sumRun [s.g a] (fun e => (c, 0) :: failD d e) (s.objectAs 3 parseDc (s.g a)) spanOf
    (fun (_, _, x) => s.sumIssue none [(c, BitVec.ofNat 64 x.estimate), (d, 0)] 1)

def execSkcoin (d a : BitVec 5) (coin : BitVec 6) (s : State) : Out :=
  s.sumRun [s.g a] (failD d) (s.objectAs 1 parseQs (s.g a)) spanOf
    (fun (k, _, q) => s.sumIssue (some (k, { q with coin := coin.toNat }.bytes)) [(d, 0)] 1)

/-- `SKCOMP` (12: R301, 05: R141). -/
def execSkcomp (d a : BitVec 5) (lvl : BitVec 6) (s : State) : Out :=
  s.sumRun [s.g a] (failD d) (s.objectAs 1 parseQs (s.g a)) spanOf
    (fun (k, b, q) =>
      let l := lvl.toNat
      let n := (q.levels.getD l []).length
      let q' := if q.levels.length ≤ l || n == 0 then some q else q.compact s.free l
      s.qsFinish d k b 0 (match q' with
        | none => none
        | some q => q.settle s.free ((n + 127) / 128)))

end Sys2Proof.Machine
end

