-- ==== Sys2Proof/Machine/Matrix.lean ====
section
/-! DEFINITION. Matrix.lean: the matrix engine, its accumulators and in-flight table (02: R56, R74-R77; 04: R124-R127;
12: R281-R293). `MSEND` stands with the channels. -/

namespace Sys2Proof.Machine

/-! ## Numbers (04: R125) -/

def tapered (t : Nat) : Bool := t == 8 || t == 9
/-- Row bytes of a type (12: R281). -/
def rowBytes (t : Nat) : Nat := if t == 8 then 96 else if t == 9 then 128 else 256
/-- Element `i` of a row of bytes: t6 packed four to three bytes (04: R123). -/
def rowElem (t : Nat) (row : Nat → Byte) (i : Nat) : Nat :=
  if t == 9 then (row i).toNat
  else if t == 8 then
    let o := 3 * (i / 4)
    ((row o).toNat + 256 * (row (o + 1)).toNat + 65536 * (row (o + 2)).toNat) / 64 ^ (i % 4) % 64
  else (row (2 * i)).toNat + 256 * (row (2 * i + 1)).toNat

def tapVal (t x : Nat) : Option Dy := decT (if t == 8 then 6 else 8) x

/-- Exact sum of tapered products; none when an operand is NaR. -/
def tapSum (ta tb : Nat) : List (Nat × Nat) → Option Dy
  | [] => some Dy.zero
  | (x, y) :: r =>
    match tapVal ta x, tapVal tb y, tapSum ta tb r with
    | some a, some b, some s => some ((a.mul b).add s)
    | _, _, _ => none

/-- A 16-bit product as an f32 pattern, rounded by RNE where it is not exact in f32; none for a NaN (log 11). -/
def prod16 (ta tb x y : Nat) : Option Nat :=
  let fa := fmtOf ta
  let fb := fmtOf tb
  let f := fmtF32
  let neg := fa.sign x != fb.sign y
  if fa.isNaN x || fb.isNaN y then none
  else if fa.isInf x || fb.isInf y then (if fa.isZero x || fb.isZero y then none else some (f.inf neg))
  else if fa.isZero x || fb.isZero y then some (f.zero neg)
  else some (f.round 0 neg ((fa.val x).mul (fb.val y)))

/-- Sum of a 16-bit group. -/
def sum16 (t g : Nat) (ps : List (Option Nat)) : Nat :=
  let f := fmtF32
  let vs := ps.filterMap id
  if vs.length != ps.length || (vs.any (fun p => p == f.inf false) && vs.any (fun p => p == f.inf true)) then engineNaN t g
  else if vs.all (fun p => p == f.signBit) then f.signBit
  else match vs.find? f.isInf with
    | some p => p
    | none => f.round 0 false (vs.foldl (fun s p => s.add (f.val p)) Dy.zero)

/-- Elements per group (04: R125). -/
def groupLen (t : Nat) : Nat := if tapered t then 16 else 4

/-- Group result s (04: R125, R127): `x` and `y` are the group's operand pairs, `sa` and `sb` the i8 scale patterns. -/
def groupSum (t g ta tb : Nat) (sa sb : Nat) (xy : List (Nat × Nat)) : Nat :=
  if tapered ta then
    if sa == 0x80 || sb == 0x80 then engineNaN t g
    else match tapSum ta tb xy with
      | none => engineNaN t g
      | some fx => fmtF32.round 0 false (fx.scale (sxt sa 8 + sxt sb 8))
  else sum16 t g (xy.map (fun p => prod16 ta tb p.1 p.2))

/-! ## Claim and table -/

def State.mx (s : State) (tile : Nat) : Matrix := (s.tile tile).mx
def State.updMx (s : State) (tile : Nat) (f : Matrix → Matrix) : State := s.updTile tile (fun t => { t with mx := f t.mx })
def State.myTile (s : State) : Nat := sidTile s.sid

/-- A matrix instruction makes the claim, or waits for another's (02: R56, 12: R281, R293). -/
def State.claimed (s : State) (k : State → Out) : Out :=
  match (s.mx s.myTile).owner with
  | none =>
    let s := s.updMx s.myTile (fun _ => { Matrix.empty with owner := some s.sid })
    .next (s.block (.claiming (s.engAfter 128)))
  | some o =>
    if o != s.sid then .next (s.block .claim)
    else match s.seq.wait with
      | some (.claiming till) => if s.prog < till then .next (s.block (.claiming till)) else k s
      | _ => k s

/-- The claim of a strand ends (02: R56). -/
def State.releaseMx (s : State) (sid : Nat) : State :=
  if (s.mx (sidTile sid)).owner == some sid then s.updMx (sidTile sid) (fun m => { m with owner := none, ent := Vector.replicate 8 .empty }) else s

def FEntry.busy (e : FEntry) : Bool := e.st == .wait || e.st == .firing

/-- Row `r` of bank `b` awaits an update of this entry (02: R77). -/
def FEntry.owns (e : FEntry) (b r : Nat) : Bool :=
  e.busy && e.isMma && e.ab.toNat == b && e.arow ≤ r && r < e.arow + e.rows &&
    (e.fired ≤ r - e.arow || e.upd.any (fun u => u.1 == r - e.arow))

def Matrix.owned (m : Matrix) (b r : Nat) : Bool := m.ent.toList.any (fun e => e.owns b r)

def Matrix.setEnt (m : Matrix) (i : Nat) (e : FEntry) : Matrix := { m with ent := m.ent.setIfInBounds i e }
def Matrix.entry (m : Matrix) (i : Nat) : FEntry := m.ent.getD i .empty
/-- Lowest free entry. -/
def Matrix.freeEnt (m : Matrix) : Option Nat := (List.range 8).find? (fun i => (m.entry i).st == .free)

def accKey (b r c : Nat) : Nat := b * 16384 + r * 128 + c
def Matrix.accAt (m : Matrix) (b r c : Nat) : Nat := (Tbl.get m.acc (accKey b r c) 0).toNat
def Matrix.accPut (m : Matrix) (b r c v : Nat) : Matrix := { m with acc := Tbl.put m.acc (accKey b r c) (BitVec.ofNat 32 v) }

/-- Write columns `lo` to `lo + n - 1` of a row. -/
def Matrix.accRow (m : Matrix) (b r lo n : Nat) (f : Nat → Nat) : Matrix :=
  (List.range n).foldl (fun m i => m.accPut b r (lo + i) (f i)) m

/-- `ACC_BUSY` for the first owned row (12: R282), else go on. -/
def State.unowned (s : State) (rows : List (Nat × Nat)) (k : State → Out) : Out :=
  match rows.find? (fun p => (s.mx s.myTile).owned p.1 p.2) with
  | some (b, r) => .next (s.trap cAccBusy (BitVec.ofNat 64 (b * 128 + r)))
  | none => k s

/-- Every row of `n`, `stride` bytes apart from `a`, lies in the strand's allocation. -/
def State.rowsLocal (s : State) (a stride n rb : Nat) : Bool :=
  let last := a + (n - 1) * stride
  a / 2 ^ 56 == 0xFE && last / 2 ^ 56 == 0xFE && s.me.localOk (a % 2 ^ 56) rb && s.me.localOk (last % 2 ^ 56) rb

/-! ## Loading and multiplying (12: R283-R286) -/

/-- Offset in the scratchpad of a local address. -/
def localOff (a : Nat) : Nat := a % 2 ^ 56

def execMldb (d : BitVec 5) (pb : BitVec 1) (a : BitVec 5) (ty : BitVec 4) (stride : BitVec 32) (s : State) : Out :=
  s.claimed (fun s =>
    let m := s.mx s.myTile
    if !s.rowsLocal (s.g a).toNat stride.toNat 128 (rowBytes ty.toNat) then (s.errorResponse s.sid 0 (s.g a)).ret d 2
    else if m.ent.toList.any (fun e => e.busy && e.isMma && e.pb == pb) then .next (s.block .table)
    else match m.freeEnt with
      | none => .next (s.block .table)
      | some i =>
        let e : FEntry := { FEntry.empty with
          st := .wait, sid := s.sid, isMma := false, pb := pb, rows := 128, ty := ty, addr := localOff (s.g a).toNat,
          stride := stride.toNat, issued := s.cycle, seqNo := m.seqNo }
        let s := s.updMx s.myTile (fun m =>
          { (m.setEnt i e) with
            pty := m.pty.set pb.toNat ty pb.isLt, loaded := m.loaded.set pb.toNat false pb.isLt, seqNo := m.seqNo + 1 })
        s.ret d (BitVec.ofNat 64 (i * 256)))

def execMma (d : BitVec 5) (ab pb : BitVec 1) (a : BitVec 5) (ty : BitVec 4) (arow n : BitVec 7) (astride : BitVec 16)
    (kblk : BitVec 14) (s : State) : Out :=
  s.claimed (fun s =>
    let m := s.mx s.myTile
    let pt := (m.pty.get pb.toFin).toNat
    let rows := n.toNat + 1
    if pt == 0 || tapered ty.toNat != tapered pt then s.ret d 1
    else if !s.rowsLocal (s.g a).toNat astride.toNat rows (rowBytes ty.toNat) then (s.errorResponse s.sid 0 (s.g a)).ret d 2
    else if m.ent.toList.any (fun e => e.busy && !e.isMma && e.pb == pb) then .next (s.block .table)
    else match m.freeEnt with
      | none => .next (s.block .table)
      | some i =>
        let e : FEntry := { FEntry.empty with
          st := .wait, sid := s.sid, isMma := true, pb := pb, ab := ab, arow := arow.toNat, rows := rows, ty := ty,
          addr := localOff (s.g a).toNat, stride := astride.toNat, kblk := kblk.toNat, issued := s.cycle,
          seqNo := m.seqNo, sa := m.sa, sb := m.sb.get pb.toFin }
        (s.updMx s.myTile (fun m => { (m.setEnt i e) with seqNo := m.seqNo + 1 })).ret d (BitVec.ofNat 64 (i * 256)))

def execMscale (va : BitVec 5) (which : BitVec 6) (s : State) : Out :=
  s.claimed (fun s =>
    done (s.updMx s.myTile (fun m =>
      if which = 0 then { m with sa := s.v va } else { m with sb := m.sb.setIfInBounds (which.toNat - 1) (s.v va) })))

/-! ## Engine events -/

/-- The engine of a strand that is being saved, or stands frozen, reads and fires nothing (18: R382). -/
def State.mxRuns (s : State) (e : FEntry) : Bool := (s.strand e.sid).saveReq.isNone && (s.strand e.sid).scstate != 3

/-- Granules that an `MLDB` touches, ascending. -/
def FEntry.granList (e : FEntry) : List Nat :=
  (List.range e.rows).foldl (fun l k => (granules (e.addr + k * e.stride) (rowBytes e.ty.toNat)).foldl (fun l g => insertNat g l) l) []

/-- Panel rows whose last granule is at or below `g`. -/
def FEntry.rowsUpTo (e : FEntry) (g : Nat) : Nat :=
  ((List.range e.rows).filter (fun k => (e.addr + k * e.stride + rowBytes e.ty.toNat - 1) / 128 ≤ g)).length

/-- The panel with granule `g`, of bytes `l`, read into every row that touches it. -/
def panelRead (e : FEntry) (g : Nat) (l : List Byte) (p : Tbl Byte) : Tbl Byte :=
  (List.range e.rows).foldl (fun p k =>
    (List.range (rowBytes e.ty.toNat)).foldl (fun p b =>
      let o := e.addr + k * e.stride + b
      if o / 128 == g then Tbl.put p (k * 256 + b) (l.getD (o % 128) 0) else p) p) p

/-- `MLDB_GRANULE_READ` (12: R283): the next granule in ascending order, once its full bit is set, one per cycle of the
arithmetic clock. The wait for the bit acquires (03: R100). -/
def execMldbGranuleRead (tile entry : Nat) (s : State) : Out :=
  let m := s.mx tile
  let e := m.entry entry
  let gs := e.granList
  match gs[e.gran]? with
  | none => .next s
  | some g =>
    if !(e.busy && !e.isMma && s.mxRuns e && (s.tile tile).full.contains g && s.edge && (e.gran == 0 || e.last < s.edges)) then .next s
    else
      let s := s.acquire e.sid 1
      let last := e.gran + 1 == gs.length
      let e' := { e with gran := e.gran + 1, last := s.edges, fired := e.rowsUpTo g, st := if last then .done else .firing }
      let (l, s) := s.engineRead tile (scratchKey tile (128 * g)) 128
      let p := panelRead e g l (m.panel.get e.pb.toFin)
      .next (s.updMx tile (fun m =>
        { (m.setEnt entry e') with
          panel := m.panel.set e.pb.toNat p e.pb.isLt,
          loaded := if last && !m.ent.toList.any (fun x => x.busy && !x.isMma && x.pb == e.pb && x.seqNo != e.seqNo)
            then m.loaded.set e.pb.toNat true e.pb.isLt else m.loaded }))

/-- An earlier `MMA` on the same accumulator row has not fired its row for it. -/
def Matrix.earlierUnfired (m : Matrix) (e : FEntry) (r : Nat) : Bool :=
  m.ent.toList.any (fun x => x.busy && x.isMma && x.seqNo < e.seqNo && x.ab == e.ab && x.arow + x.fired ≤ r && r < x.arow + x.rows)

/-- `MMA_ROW_FIRE` (02: R75, 12: R285): the next row fires; its granules are cleared and its bytes read, after the
acquire of its full bits (03: R100, R107). -/
def execMmaRowFire (tile entry : Nat) (s : State) : Out :=
  let m := s.mx tile
  let e := m.entry entry
  let t := s.tile tile
  let o := e.addr + e.fired * e.stride
  let rb := rowBytes e.ty.toNat
  let gs := granules o rb
  if !(e.busy && e.isMma && e.fired < e.rows && s.mxRuns e && e.issued.toNat < s.cycle.toNat && t.isFull gs &&
      gs.all (fun g => !t.newNow.contains g) && s.edge && (e.fired == 0 || e.last < s.edges) &&
      !m.earlierUnfired e (e.arow + e.fired) && m.portFree ≤ s.edges) then .next s
  else
    let s := s.acquire e.sid 1
    let (row, s) := s.engineRead tile (scratchKey tile o) rb
    let e' := { e with fired := e.fired + 1, last := s.edges, st := .firing, upd := e.upd ++ [(e.fired, s.engAfter 12, row)] }
    let s := s.updTile tile (fun t => t.clearFull gs)
    .next (s.updMx tile (fun m => { (m.setEnt entry e') with portFree := s.edges + (if tapered e.ty.toNat then 1 else 4) }))

/-- One accumulator element after the groups of a row, in ascending g (04: R125). -/
def Matrix.updElem (m : Matrix) (tile : Nat) (e : FEntry) (row : List Byte) (j c : Nat) : Nat :=
  let ta := e.ty.toNat
  let tb := (m.pty.get e.pb.toFin).toNat
  let p := m.panel.get e.pb.toFin
  let n := groupLen ta
  (List.range (128 / n)).foldl (fun acc i =>
    let g := 128 / n * e.kblk + i
    let xy := (List.range n).map (fun k =>
      let kk := i * n + k
      (rowElem ta (fun b => row.getD b 0) kk, rowElem tb (fun b => Tbl.get p (kk * 256 + b) 0) c))
    combineAdd acc (groupSum tile g ta tb (elem e.sa 8 (e.arow + j)) (elem e.sb 8 c) xy) tile g)
    (m.accAt e.ab.toNat (e.arow + j) c)

/-- `ACCUMULATOR_UPDATE` (02: R75, R76): 12 cycles after a row fired its update is written; the last one makes the entry DONE. -/
def execAccumulatorUpdate (tile entry : Nat) (s : State) : Out :=
  let m := s.mx tile
  let e := m.entry entry
  match e.upd with
  | [] => .next s
  | (j, due, row) :: r =>
    let earlier := m.ent.toList.any (fun x => x.ab == e.ab && x.upd.any (fun u => x.arow + u.1 == e.arow + j && u.2.1 < due))
    if s.prog < due || earlier then .next s
    else
      let e' := { e with upd := r, st := if e.fired == e.rows && r.isEmpty then .done else e.st }
      .next (s.updMx tile (fun m => (m.accRow e.ab.toNat (e.arow + j) 0 128 (fun c => m.updElem tile e row j c)).setEnt entry e'))

/-! ## Accumulator rows (12: R287-R289) -/

def execMzero (ab : BitVec 1) (a b : BitVec 5) (s : State) : Out :=
  s.claimed (fun s =>
    let rows := (List.range (min (s.g b).toNat 128)).map (fun i => (ab.toNat, ((s.g a).toNat + i) % 128))
    s.unowned rows (fun s => done (s.updMx s.myTile (fun m => rows.foldl (fun m p => m.accRow p.1 p.2 0 128 (fun _ => 0)) m))))

/-- `MACP`: the sources are read before anything is written. -/
def State.macp (s : State) (f : Nat → Nat → Nat) (src dst : BitVec 1) (a b : BitVec 5) (n : BitVec 6) : Out :=
  s.claimed (fun s =>
    let is := List.range (n.toNat + 1)
    let rs (i : Nat) : Nat := ((s.g a).toNat + i) % 128
    let rd (i : Nat) : Nat := ((s.g b).toNat + i) % 128
    s.unowned (is.map (fun i => (src.toNat, rs i)) ++ is.map (fun i => (dst.toNat, rd i))) (fun s =>
      let m0 := s.mx s.myTile
      done (s.updMx s.myTile (fun m => is.foldl (fun m i =>
        m.accRow dst.toNat (rd i) 0 128 (fun c => f (m0.accAt dst.toNat (rd i) c) (m0.accAt src.toNat (rs i) c))) m))))

def execMacp (src dst : BitVec 1) (a b : BitVec 5) (n : BitVec 6) (s : State) : Out := s.macp (fun _ y => y) src dst a b n
def execMacpAdd (src dst : BitVec 1) (a b : BitVec 5) (n : BitVec 6) (s : State) : Out :=
  s.macp (fun x y => combineAdd x y s.myTile 0xFFF) src dst a b n

def State.accRowNo (s : State) (ga : BitVec 5) : Nat := (s.g ga).toNat % 128

def execMrd (vd : BitVec 5) (ab : BitVec 1) (ga : BitVec 5) (q : BitVec 2) (p : BitVec 3) (s : State) : Out :=
  s.claimed (fun s =>
    let r := s.accRowNo ga
    s.unowned [(ab.toNat, r)] (fun s =>
      done (s.vPut vd (vecMask (s.v vd) (s.k p) 32 32 (fun i => (s.mx s.myTile).accAt ab.toNat r (32 * q.toNat + i))))))

/-- The quarter row with `f` applied where the predicate selects. -/
def State.quarter (s : State) (ab : BitVec 1) (r : Nat) (q : BitVec 2) (vb : BitVec 5) (p : BitVec 3) (f : Nat → Nat → Nat) : Out :=
  done (s.updMx s.myTile (fun m => m.accRow ab.toNat r (32 * q.toNat) 32 (fun i =>
    let x := m.accAt ab.toNat r (32 * q.toNat + i)
    if (s.k p).getLsbD i then f x (elem (s.v vb) 32 i) else x)))

def execMwr (ab : BitVec 1) (ga : BitVec 5) (q : BitVec 2) (vb : BitVec 5) (p : BitVec 3) (s : State) : Out :=
  s.claimed (fun s => s.unowned [(ab.toNat, s.accRowNo ga)] (fun s => s.quarter ab (s.accRowNo ga) q vb p (fun _ y => y)))

/-- `MRADD` (12: R289): on an owned row it holds E and does not trap. -/
def execMradd (ab : BitVec 1) (ga : BitVec 5) (q : BitVec 2) (vb : BitVec 5) (p : BitVec 3) (s : State) : Out :=
  s.claimed (fun s =>
    if (s.mx s.myTile).owned ab.toNat (s.accRowNo ga) then .next (s.block .mwait)
    else s.quarter ab (s.accRowNo ga) q vb p (fun x y => combineAdd x y s.myTile 0xFFF))

/-! ## Waiting and status (12: R291, R292) -/

/-- Hold E until the entries are DONE or free, then free them. -/
def State.mwaitOn (s : State) (is : List Nat) : Out :=
  s.claimed (fun s =>
    if is.any (fun i => ((s.mx s.myTile).entry i).busy) then .next (s.block .mwait)
    else done (s.updMx s.myTile (fun m => is.foldl (fun m i => m.setEnt i .empty) m)))

def execMwait (s : State) : Out := s.mwaitOn (List.range 8)
def execMwaitE (n : BitVec 5) (s : State) : Out := s.mwaitOn [bitsOf (s.g n) 8 3]

def fstateCode (s : FState) : Nat :=
  match s with
  | .free => 0
  | .wait => 1
  | .firing => 2
  | .done => 3

/-- The status word of an entry. -/
def FEntry.word (e : FEntry) : Word :=
  if e.st = .free then 0
  else BitVec.ofNat 64 (e.issued.toNat % 2 ^ 32 * 2 ^ 32 + e.fired % 256 * 2 ^ 24 + e.rows % 256 * 2 ^ 16 + e.arow % 128 * 2 ^ 9 +
    e.ab.toNat * 2 ^ 8 + e.pb.toNat * 2 ^ 7 + (if e.isMma then 0 else 16) + fstateCode e.st)

def execMstat (d a : BitVec 5) (s : State) : Out :=
  s.claimed (fun s =>
    let i := bitsOf (s.g a) 8 3
    let e := (s.mx s.myTile).entry i
    (if e.st = .done then s.updMx s.myTile (fun m => m.setEnt i .empty) else s).ret d e.word)

end Sys2Proof.Machine
end

