-- ==== Sys2Proof/Machine/Binds.lean ====
section
/-! DEFINITION. Binds.lean: records and invocations as tables, channel bindings and the strands that they join (01: R18, R21, R25, R26;
20: R408). -/

namespace Sys2Proof.Machine

/-! ## Records and invocations (01: R18, R21) -/

def State.recOf (s : State) (rk : Nat) : Rec := Tbl.get s.recs rk .empty
def State.updRec (s : State) (rk : Nat) (f : Rec → Rec) : State := { s with recs := Tbl.put s.recs rk (f (s.recOf rk)) }
def recDie (rk : Nat) : Nat := rk / 32768

def Invocation.empty : Invocation :=
  { st := .finished, die := 0, xTiles := false, tiles := [], bases := [], since := 0, level := 0, startedAt := 0, exits := [],
    savedT := [], faulted := [], copies := [], wb := [], images := [], claims := [], restore := false, etc := 0, going := false }
def Rec.inv (r : Rec) (i : Nat) : Invocation := Tbl.get r.invs i .empty
def State.updInv (s : State) (rk i : Nat) (f : Invocation → Invocation) : State :=
  s.updRec rk (fun r => { r with invs := Tbl.put r.invs i (f (r.inv i)) })

/-- Camp columns, rows, tiles. -/
def Rec.cw (r : Rec) : Nat := r.w.toNat + 1
def Rec.ch (r : Rec) : Nat := r.h.toNat + 1
def Rec.tilesN (r : Rec) : Nat := r.cw * r.ch

/-- The number of invocations to start, as far as it is known. -/
def Rec.limit (r : Rec) : Nat := if r.kind == 1 then r.fan.toNat else if r.kind == 2 then r.reccount.toNat else 1

/-- Any entry of an instance: the lowest die's, its home die's (13: R329). -/
def State.instHome (s : State) (inst : Nat) : Option InstEntry := (s.insts.find? (fun p => p.2.inst.toNat == inst)).map (·.2)

/-- Records of an instance, by prototype slot. -/
def State.instRecs (s : State) (inst : Nat) : List Nat :=
  match s.instHome inst with
  | some e => e.recs
  | none => []

/-! ## Channel bindings (01: R25, R26, R433) -/

/-- The fields of a channel binding. -/
structure Bind where
  ch : Nat
  send : Bool
  slots : Nat
  pch : Nat
  dirn : Nat
  peer : Nat
  ratio : Nat
  period : Nat
  deriving DecidableEq, Repr

def bindOf (b : List Byte) : Bind :=
  { ch := leAt b 0 1 % 8, send := leAt b 1 1 == 0, slots := leAt b 2 1, pch := leAt b 3 1 % 8, dirn := leAt b 3 1 / 16 % 4,
    peer := leAt b 4 2, ratio := leAt b 6 2, period := leAt b 8 4 }

/-- The camp tile at a neighbour's place (01: R26): 0 east, 1 west, 2 south, 3 north. -/
def neighbour (w h ct dirn : Nat) : Option Nat :=
  let c := ct % w
  let r := ct / w
  match dirn with
  | 0 => if c + 1 < w then some (ct + 1) else none
  | 1 => if 0 < c then some (ct - 1) else none
  | 2 => if r + 1 < h then some (ct + w) else none
  | _ => if 0 < r then some (ct - w) else none

/-- The other end of a binding: record and camp tile. -/
def State.peerOf (s : State) (rk inv ct : Nat) (b : Bind) : Option (Nat × Nat) :=
  let r := s.recOf rk
  if b.slots == 0 then (neighbour r.cw r.ch ct b.dirn).map (fun c => (rk, c))
  else match (s.instRecs r.inst.toNat)[b.peer]? with
    | none => none
    | some k => if ct < (s.recOf k).tilesN && inv < (s.recOf k).limit then some (k, ct) else none

/-- The binding at the other end. -/
def State.peerBind (s : State) (k ch : Nat) : Option Bind := ((s.recOf k).binds.map bindOf).find? (fun b => b.ch == ch)

/-! ## Stream regions (20: R408) -/

/-- A strand by what it is: record, invocation, camp tile. -/
abbrev StrandId := Nat × Nat × Nat

def Strand.ident (t : Strand) : StrandId := (t.rk, t.inv, t.ctile)

/-- The strands that one is joined to by a channel. -/
def State.peersOf (s : State) (x : StrandId) : List StrandId :=
  ((s.recOf x.1).binds.map bindOf).filterMap (fun b =>
    if b.peer == 0xFFFE then none else (s.peerOf x.1 x.2.1 x.2.2 b).map (fun p => (p.1, x.2.1, p.2)))

/-- The closure of `todo` under channels, `seen` being closed but for it. -/
def State.regionFrom (s : State) : Nat → List StrandId → List StrandId → List StrandId
  | _, [], seen => seen
  | 0, _, seen => seen
  | n + 1, x :: r, seen =>
    if seen.contains x then s.regionFrom n r seen else s.regionFrom n (s.peersOf x ++ r) (x :: seen)

/-- The slot in which a strand runs. -/
def State.slotOf (s : State) (x : StrandId) : Option Nat :=
  (s.strands.find? (fun p => p.1 < 4096 && p.2.scstate != 0 && p.2.ident == x)).map (·.1)

/-- It has ended: it executed `TRET`, or its invocation or record has. -/
def State.strandOver (s : State) (x : StrandId) : Bool :=
  let r := s.recOf x.1
  let i := r.inv x.2.1
  match r.st with
  | .retired | .failed | .free => true
  | _ => (Tbl.find r.invs x.2.1).isSome && (i.exits.contains x.2.2 || i.st == .ended || i.st == .finished || i.st == .lost)

/-- The stream region of a strand. -/
def State.regionIds (s : State) (sid : Nat) : List StrandId := s.regionFrom 65536 [(s.strand sid).ident] []
/-- Its strands that stand in slots. -/
def State.region (s : State) (sid : Nat) : List Nat := (s.regionIds sid).filterMap s.slotOf
/-- One of its strands has yet to start, or is saved. -/
def State.regionAway (s : State) (sid : Nat) : Bool :=
  (s.regionIds sid).any (fun x => (s.slotOf x).isNone && !s.strandOver x)
/-- Every task of the region has `ROLLBACK`. -/
def State.rollbackRegion (s : State) (sid : Nat) : Bool := (s.regionIds sid).all (fun x => (s.recOf x.1).rollback)

end Sys2Proof.Machine
end

