-- ==== Sys2Proof/Machine/Stream.lean ====
section
/-! DEFINITION. Stream.lean: channels, tokens and marker waves (13: R308-R318; 12: R290), and what a wave does: snapshots,
span completion, rate checks, stops and breakpoints (20: R408-R413, R422, R423). -/

namespace Sys2Proof.Machine

/-! ## Channel ends -/

def StrandCore.chEnd (c : StrandCore) (i : Nat) : ChEnd := c.c.getD i .empty
def StrandCore.setEnd (c : StrandCore) (i : Nat) (e : ChEnd) : StrandCore := { c with c := c.c.setIfInBounds i e }
def Chan.empty : Chan :=
  { slots := 0, tokens := [], due := [], put := 0, took := 0, sSid := none, rSid := none, left := 0, port := none, away := false, gone := false }
def State.chan (s : State) (k : Nat) : Chan := Tbl.get s.chans k .empty
def State.updChan (s : State) (k : Nat) (f : Chan → Chan) : State := { s with chans := Tbl.put s.chans k (f (s.chan k)) }
def State.endOf (s : State) (sid c : Nat) : ChEnd := (s.strand sid).core.chEnd c
def State.updEnd (s : State) (sid c : Nat) (f : ChEnd → ChEnd) : State :=
  s.updCoreOf sid (fun k => k.setEnd c (f (k.chEnd c)))
def State.chanOf (s : State) (sid c : Nat) : Chan := s.chan (s.endOf sid c).chan
def StrandCore.ends (c : StrandCore) (dir : BitVec 2) : List Nat := (List.range 8).filter (fun i => (c.chEnd i).dir == dir)
def State.recvEnds (s : State) (sid : Nat) : List Nat := (s.strand sid).core.ends 2
/-- Send ends not closed. -/
def State.openEnds (s : State) (sid : Nat) : List Nat :=
  ((s.strand sid).core.ends 1).filter (fun i => !(s.endOf sid i).closed)

/-- Room for `n` more tokens in a channel with slots. A receive end that is being saved grants no credit (18: R382), and no token
passes a marker that waits for its slot. -/
def Chan.room (c : Chan) (n : Nat) : Bool := !c.away && c.due.isEmpty && c.tokens.length + n ≤ c.slots

/-- The tokens that the receive end sees: on a zero-slot channel a marker comes before a data token that its sender offered and that is
not yet sent. -/
def Chan.view (c : Chan) : List Token := if c.slots == 0 then c.due.map Token.marker ++ c.tokens else c.tokens

/-- Markers that wait take the slots that are free. -/
def Chan.flushed (c : Chan) : Chan :=
  if c.slots == 0 || c.away then c
  else
    let n := min c.due.length (c.slots - c.tokens.length)
    { c with tokens := c.tokens ++ (c.due.take n).map Token.marker, due := c.due.drop n, put := c.put + n }

/-- The end of channel `k` in a strand marks that a token passed it (20: R419). -/
def State.markMoved (s : State) (k : Nat) (sid : Option Nat) : State :=
  match sid with
  | none => s
  | some sid => s.updCoreOf sid (fun c => { c with c := c.c.map (fun e => if e.dir != 0 && e.chan == k then { e with moved := true } else e) })

/-- Markers that wait on channel `k` go out as there is room. -/
def State.flushDue (s : State) (k : Nat) : State :=
  let c := s.chan k
  let s := s.updChan k Chan.flushed
  if (s.chan k).put == c.put then s else s.markMoved k c.sSid

/-- Append a token. -/
def State.chanPut (s : State) (k : Nat) (t : Token) : State :=
  let s := s.updChan k (fun c => { c with tokens := c.tokens ++ [t], put := c.put + 1 })
  if (s.chan k).slots == 0 then s else s.markMoved k (s.chan k).sSid

/-- Append a marker, now or when there is room; on a zero-slot channel the receiver takes it (13: R308). -/
def State.markerOut (s : State) (k : Nat) (stop : Bool) : State :=
  (s.updChan k (fun c => { c with due := c.due ++ [stop] })).flushDue k

/-- Remove the token at the head. An end token stays (13: R313). -/
def State.chanTake (s : State) (k : Nat) : State :=
  let c := s.chan k
  let s := s.markMoved k c.rSid
  if c.slots == 0 then
    (s.updChan k (fun c => if c.due.isEmpty then { c with tokens := c.tokens.drop 1, took := c.took + 1 } else { c with due := c.due.drop 1 })).markMoved
      k c.sSid
  else (s.updChan k (fun c => { c with tokens := c.tokens.drop 1, took := c.took + 1 })).flushDue k

/-- The receiver takes the end token at the head of a zero-slot channel: its sender goes on, the token stays. It passes both ends then. -/
def State.finTaken (s : State) (k : Nat) : State :=
  let c := s.chan k
  if c.slots == 0 && c.view.head? == some .fin && c.took != c.put then
    ((s.updChan k (fun c => { c with took := c.put })).markMoved k c.rSid).markMoved k c.sSid
  else s

def satAdd32 (x : BitVec 32) (n : Nat) : BitVec 32 := BitVec.ofNat 32 (sat32 (x.toNat + n))

/-- A data token counts at an end. -/
def ChEnd.count (e : ChEnd) : ChEnd := { e with span := satAdd32 e.span 1, total := satAdd32 e.total 1, sent := e.sent + 1 }
def ChEnd.mark (e : ChEnd) : ChEnd := { e with marks := e.marks + 1 }

/-- `CHAN_ERROR` (13: R309). -/
def State.chanErr (s : State) (c reason : Nat) : Out :=
  .next ((s.updEnd s.sid c (fun e => { e with reason := BitVec.ofNat 8 reason })).trap cChanError (BitVec.ofNat 64 (c + reason * 256)))

/-- One of an instruction that already owes a rate trap: that trap comes first, and the instruction executes again after it (log 20). -/
def State.chanErrDue (s : State) (c reason : Nat) (imb : Option Word) : Out :=
  match imb with
  | none => s.chanErr c reason
  | some arg => .next (s.trap cRate arg)

/-! ## Spans (20: R408-R411) -/

/-- `a` is at or past wave `n` (mod 2^32). -/
def pastWave (a n : BitVec 32) : Bool := (a - n).toNat < 2 ^ 31

/-- When every strand of the region has passed wave `n`, it is complete (one that has yet to start, or is saved, has not): the stores of earlier spans are performed, their undo
granules and outside tokens go, and older snapshots go (20: R408, R409). -/
def State.waveComplete (s : State) (sid : Nat) (n : BitVec 32) : State :=
  let r := s.region sid
  if !s.regionAway sid && r.all (fun x => pastWave (s.strand x).core.spanno n) then
    r.foldl (fun s x =>
      let old (sp : BitVec 32) : Bool := !pastWave sp n
      let free (p : PStore) : PStore := { p with held := false }
      let now := ((s.strand x).pend.filter (fun p => p.held && old p.span)).map free
      let s := s.updStrand x (fun t => { t with pend := t.pend.map (fun p => if p.held && old p.span then free p else p) })
      let s := s.drain x now.contains
      s.updStrand x (fun t => { t with
        undo := t.undo.filter (fun u => !old u.1), outside := t.outside.filter (fun u => !old u.1),
        snaps := t.snaps.filter (fun z => pastWave z.wave n), spanBad := t.spanBad.filter (fun b => !old b) })) s
  else s

/-- Vectors in a chain that the strand's stream runs stand before its queue in a snapshot. -/
def State.unpipe (s : State) (sid : Nat) (c : StrandCore) : StrandCore :=
  match c.e.wait with
  | some (.stream ch _ qa _) =>
    let t := s.tile (sidTile sid)
    if t.chainOwner.get ch.toFin == some sid then
      c.setQueue qa ((t.chainPipe.get ch.toFin).map (fun p => (⟨p.2.1, p.2.2, false⟩ : QEntry)) ++ c.queue qa)
    else c
  | _ => c

/-- The snapshot of a wave just passed (20: R408): its resume point follows the instruction of sequencer `e` that passed it. -/
def State.snapshotNow (s : State) (sid : Nat) (e : Option Bool) : State :=
  let t := s.strand sid
  if s.rollbackRegion sid then
    if 4 ≤ t.snaps.length then s.spanUnprotected sid
    else
      let s := s.settleLoads sid
      let t := s.strand sid
      let c := match e with
        | some e => t.core.setSeq e (t.core.seq e).adv
        | none => t.core
      let m := s.mx (sidTile sid)
      let z : Snapshot :=
        { wave := t.core.spanno, core := s.unpipe sid c, mx := if m.owner == some sid then some m else none,
          full := (s.tile (sidTile sid)).full.filter (fun g => t.base / 128 ≤ g && g < (t.base + t.size) / 128), sums := s.sumsOf sid }
      s.updStrand sid (fun t => { t with snaps := z :: t.snaps })
  else s

/-! ## Waves (13: R314) -/

/-- The rate check of a wave (20: R413): an event for each failing end, and the argument of the trap. -/
def State.rateCheck (s : State) (sid : Nat) : State × Option Word :=
  let inn := ((s.recvEnds sid).map (fun i => (s.endOf sid i).span.toNat)).sum
  let cap (n : Nat) : Nat := min n (2 ^ 24 - 1)
  let bad := ((s.strand sid).core.ends 1).filterMap (fun i =>
    let e := s.endOf sid i
    let a := bitsOf e.ratio 0 8
    let b := bitsOf e.ratio 8 8
    if e.ratio != 0 && e.span.toNat * a != inn * b then
      some (BitVec.ofNat 64 (cap e.span.toNat * 2 ^ 40 + cap inn * 2 ^ 16 + i)) else none)
  (bad.foldl (fun s arg => s.evLogOf sid 0x09 arg 0) s, bad.head?)

/-- Before a wave can pass: the receive ends that are not aligned (13: R314), and the send ends into which a walker's row is going (02: R66). -/
def State.waveBlock (s : State) (sid : Nat) : List Nat :=
  (s.recvEnds sid).filter (fun i => match (s.chanOf sid i).view with
    | .marker _ :: _ => false
    | .fin :: _ => false
    | _ => true) ++ (s.openEnds sid).filter ((s.strand sid).core.rowUnder 1)

/-- An end that blocks does so on an ended peer (13: R309, reason 6). -/
def State.peerGone (s : State) (sid i : Nat) : Bool :=
  let c := s.chanOf sid i
  c.gone && ((s.endOf sid i).dir == 1 || c.view.isEmpty)

/-- The marker or end token at the head of receive end `i` counts as aligned: the marker goes. -/
def State.takeMarker (s : State) (sid i : Nat) : State :=
  let k := (s.endOf sid i).chan
  match (s.chan k).view with
  | .marker _ :: _ => (s.chanTake k).updEnd sid i ChEnd.mark
  | _ => s.finTaken k

/-- The cut of `ConsumeWave` (13: R314): markers are taken, `SPANNO` advances, the wave actions apply, and markers go out, those
without room waiting. The answer holds the argument of a rate trap and whether the wave carries a stop (`flag`, or one of its
markers). `e` is the sequencer whose instruction passes it, none when none does. -/
def State.waveCut (s : State) (sid : Nat) (flag : Bool) (e : Option Bool) : State × Option Word × Bool :=
  let rs := s.recvEnds sid
  let stop := flag || rs.any (fun i => (s.chanOf sid i).view.head? == some (.marker true))
  let s := rs.foldl (fun s i => s.takeMarker sid i) s
  let (s, imb) := if rs.isEmpty then (s, none) else s.rateCheck sid
  let s := s.updCoreOf sid (fun c => { c with spanno := c.spanno + 1, c := c.c.map (fun x => { x with span := 0 }) })
  let s := s.snapshotNow sid e
  let s := s.waveComplete sid (s.strand sid).core.spanno
  ((s.openEnds sid).foldl (fun s i => (s.markerOut (s.endOf sid i).chan stop).updEnd sid i ChEnd.mark) s, imb, stop)

/-- Park after a stop wave or at a breakpoint: a fault record with cause BREAK (20: R422, R423). What a blocked instruction keeps
stays, and it issues again after the resume. -/
def State.parkBreak (s : State) (a : Agent) (addr : Word) : State :=
  let s := (s.settleLoads a.sid).faultRecord a cBreak 0 addr [0, 0, 0, 0] akTrap
  (s.updSeqOf a (fun q => { q with woken := true })).park a.sid .debug

/-- A rate trap held until the instruction is done (20: R413). -/
def State.rateTrap (s : State) (imb : Option Word) (o : State → Out) : Out :=
  match imb with
  | none => o s
  | some arg => .next (s.trapNext cRate arg)

/-- The open send ends on which a marker still waits. -/
def State.dueEnds (s : State) (sid : Nat) : List Nat := (s.openEnds sid).filter (fun i => !(s.chanOf sid i).due.isEmpty)

/-- After the cut: wait until every marker is out, then `k`. -/
def State.waveTail (s : State) (tok : Nat) (imb : Option Word) (k : State → Option Word → Out) : Out :=
  let l := s.dueEnds s.sid
  match l.find? (s.peerGone s.sid) with
  | some i => (s.updChan (s.endOf s.sid i).chan (fun c => { c with due := [] })).chanErrDue i 6 imb
  | none => if l.isEmpty then k s imb else .next (s.block (.waveOut tok imb))

/-- `ConsumeWave` (13: R314) by the executing instruction, which has moved `tok` tokens, then `k`. After a wave with a stop the strand
parks, and the instruction goes on when it is resumed (20: R422). -/
def State.consumeWave (s : State) (tok : Nat) (imb : Option Word) (k : State → Option Word → Out) : Out :=
  let l := s.waveBlock s.sid
  match l.find? (s.peerGone s.sid) with
  | some i => s.chanErrDue i 6 imb
  | none =>
    if !l.isEmpty then .next (s.block (.wave tok imb))
    else
      let (s, imb', stop) := s.waveCut s.sid false (some s.cur.e)
      let imb := imb.or imb'
      if stop then .next ((s.block (.waveOut tok imb)).parkBreak s.cur (s.core.spanno.setWidth 64))
      else s.waveTail tok imb k

/-! ### What a blocked channel instruction keeps in a context image (18: R382, R386; log 15) -/

/-- The tokens it has moved, the stage it is in, and the rate trap it owes. -/
def chanWord (tok stage : Nat) (imb : Option Word) : Nat := (imb.getD 0).toNat + tok % 1024 * 32 + stage * 8
def waitOfWord (w : Word) : Wait :=
  let tok := bitsOf w 5 10
  let imb := if bitsOf w 16 48 == 0 then none else some (setBits w 3 13 0)
  match bitsOf w 3 2 with
  | 0 => .chan 0 tok none imb
  | 1 => .wave tok imb
  | _ => .waveOut tok imb
/-- The wait of a channel instruction that issues again, also after a restore. -/
def Seq.chanWait (q : Seq) : Option Wait :=
  match q.wait with
  | some (.saved w) => some (waitOfWord w)
  | w => w

/-- Its token stands already offered on end `c`, a zero-slot channel. -/
def Seq.offered (q : Seq) (c : Nat) : Bool :=
  match q.chanWait with
  | some (.chan c' _ (some _) _) => c' == c
  | _ => false

/-! ## Sending (13: R310, R315; 12: R290) -/

/-- A source's lowest send end with a marker period (13: R315). -/
def State.periodEnd (s : State) (sid : Nat) : Option Nat := ((s.strand sid).core.ends 1).find? (fun i => (s.endOf sid i).mperiod != 0)

/-- After a data token of the strand is accepted on end `c`: counts, and a source's periodic wave. -/
def State.sentOne (s : State) (c tok : Nat) (k : State → Out) : Out :=
  let s := s.updEnd s.sid c ChEnd.count
  let e := s.endOf s.sid c
  if (s.recvEnds s.sid).isEmpty && s.periodEnd s.sid == some c && e.sent % e.mperiod.toNat == 0 then
    s.consumeWave (tok + 1) none (fun s _ => k s)
  else k s

/-- Send one data token on channel end `c`, `tok` tokens of the instruction having gone before. -/
def State.sendOne (s : State) (c tok : Nat) (v : VWord) (k : State → Out) : Out :=
  let e := s.endOf s.sid c
  let ch := s.chan e.chan
  if e.dir == 0 then s.chanErr c 1
  else if e.dir == 2 then s.chanErr c 2
  else if e.closed then s.chanErr c 3
  else if s.core.rowUnder 1 c && !s.seq.offered c then .next (s.block (.chan c tok none none))
  else if ch.slots == 0 then
    match s.seq.chanWait with
    | some (.chan _ _ (some o) _) =>
      if o < ch.took then s.sentOne c tok (fun s => k s)
      else if ch.gone then s.chanErr c 6 else .next (s.block (.chan c tok (some o) none))
    | _ =>
      if ch.gone then s.chanErr c 6
      else .next ((s.chanPut e.chan (.data v (s.core.etc != 0))).block (.chan c tok (some ch.put) none))
  else if ch.room 1 then (s.chanPut e.chan (.data v (s.core.etc != 0))).sentOne c tok k
  else if ch.gone then s.chanErr c 6
  else .next (s.block (.chan c tok none none))

def State.clearWait (s : State) : State := s.updSeq (fun q => { q with wait := none })

def execCsend (c : BitVec 3) (va : BitVec 5) (s : State) : Out :=
  match s.seq.chanWait with
  | some (.waveOut t i) => s.waveTail t i (fun s _ => done s)
  | _ => s.sendOne c.toNat 0 (s.v va) done

/-- The tokens of `MSEND` from token `tok` of `n` on (12: R290). -/
def State.msendFrom (c ab first n : Nat) (tok : Nat) (s : State) : Nat → Out
  | 0 => done s
  | fuel + 1 =>
    if 4 * n ≤ tok then done s
    else
      let r := first + tok / 4
      if (s.mx s.myTile).owned ab r then .next (s.block (.accRow tok))
      else
        let v := vecOf 32 32 (fun i => (s.mx s.myTile).accAt ab r (32 * (tok % 4) + i))
        s.sendOne c tok v (fun s => s.clearWait.msendFrom c ab first n (tok + 1) fuel)

/-- `MSEND` (12: R290): each row as four tokens under the rules of `CSEND`. -/
def execMsend (c : BitVec 3) (ab : BitVec 1) (first n : BitVec 7) (s : State) : Out :=
  s.claimed (fun s =>
    let go (tok : Nat) (s : State) : Out := s.msendFrom c.toNat ab.toNat first.toNat (n.toNat + 1) tok (4 * (n.toNat + 1) + 1)
    match s.seq.chanWait with
    | some (.waveOut t i) => s.waveTail t i (fun s _ => go t s.clearWait)
    | some (.chan _ t _ _) => go t s
    | some (.accRow t) => go t s
    | _ => go 0 s)

/-! ## Receiving (13: R311, R312; 20: R423) -/

/-- A breakpoint register matches end `c` of a strand at one of its next `n` data tokens: the register and the token number. -/
def State.bpIn (s : State) (sid c n : Nat) : Option (Nat × Nat) :=
  let t := s.strand sid
  let k := (s.endOf sid c).total.toNat
  ((List.range 4).find? (fun b =>
    let w := s.bps.getD b 0
    let m := bitsOf w 32 32
    k < m && m ≤ k + n && bitsOf w 0 3 == c && (bitsOf w 16 16 == 0xFFFF || bitsOf w 16 16 == t.ctile) &&
      s.dbgTref.toNat / 32 == t.tref.toNat / 32 && !t.bpSeen.contains (b, m))).map (fun b => (b, bitsOf (s.bps.getD b 0) 32 32))
/-- At its next data token. -/
def State.bpHit (s : State) (sid c : Nat) : Option (Nat × Nat) := s.bpIn sid c 1

/-- The breakpoint fires: the strand parks before the instruction that would take the token. -/
def State.bpFire (s : State) (a : Agent) (c : Nat) (hit : Nat × Nat) : State :=
  let s := s.updStrand a.sid (fun t => { t with bpSeen := hit :: t.bpSeen })
  s.parkBreak a (BitVec.ofNat 64 (c * 2 ^ 32 + hit.2))

/-- Take the data token at the head of end `c`: its data and error bit. -/
def State.takeData (s : State) (sid c : Nat) (v : VWord) (err : Bool) : State :=
  let k := (s.endOf sid c).chan
  let s := if (s.chan k).port.isSome then
      s.updStrand sid (fun t => if t.spanCapable then { t with outside := (t.core.spanno, c, .data v err) :: t.outside } else t)
    else s
  let s := (s.chanTake k).updEnd sid c (fun e => { e.count with errs := if err then satAdd32 e.errs 1 else e.errs })
  let s := if err then s.etcInc sid else s
  if (s.strand sid).spanCapable && 512 < (s.strand sid).spanGranules then s.spanUnprotected sid else s

/-- The loop of `CRECV`. -/
def State.crecvLoop (s : State) (vd : BitVec 5) (c : Nat) (gb : Option (BitVec 5)) (imb : Option Word) : Nat → Out
  | 0 => .next (s.block (.chan c 0 none imb))
  | fuel + 1 =>
    let code (s : State) (n : Word) : State := match gb with
      | some b => s.gPut b n
      | none => s
    match (s.chanOf s.sid c).view with
    | [] => if (s.chanOf s.sid c).gone then s.chanErrDue c 6 imb else .next (s.block (.chan c 0 none imb))
    | .marker _ :: _ => s.consumeWave 0 imb (fun s imb => s.crecvLoop vd c gb imb fuel)
    | .fin :: _ =>
      match gb with
      | none => s.chanErrDue c 4 imb
      | some _ => (code (s.finTaken (s.endOf s.sid c).chan) 3).rateTrap imb done
    | .data v err :: _ =>
      match s.bpHit s.sid c with
      | some hit =>
        .next ((match imb with
          | none => s.clearWait
          | some _ => s.block (.chan c 0 none imb)).bpFire s.cur c hit)
      | none => (code ((s.takeData s.sid c v err).vPut vd v) 0).rateTrap imb done

def State.crecv (s : State) (vd : BitVec 5) (c : Nat) (gb : Option (BitVec 5)) : Out :=
  let e := s.endOf s.sid c
  let n := (s.chan e.chan).view.length + 1
  if e.dir == 0 then s.chanErr c 1
  else if e.dir == 1 then s.chanErr c 2
  else match s.seq.chanWait with
    | some (.waveOut t i) => s.waveTail t i (fun s imb => s.crecvLoop vd c gb imb n)
    | some (.wave _ imb) => s.crecvLoop vd c gb imb n
    | some (.chan _ _ _ imb) => s.crecvLoop vd c gb imb n
    | _ => s.crecvLoop vd c gb none n

def execCrecv (vd : BitVec 5) (c : BitVec 3) (s : State) : Out := s.crecv vd c.toNat none
def execCrecvS (vd : BitVec 5) (c : BitVec 3) (b : BitVec 5) (s : State) : Out := s.crecv vd c.toNat (some b)

def execCpeek (vd : BitVec 5) (c : BitVec 3) (b : BitVec 5) (s : State) : Out :=
  let e := s.endOf s.sid c.toNat
  if e.dir == 0 then s.chanErr c.toNat 1
  else if e.dir == 1 then s.chanErr c.toNat 2
  else match (s.chan e.chan).view with
    | [] => s.ret b 1
    | .data v _ :: _ => (s.vPut vd v).ret b 0
    | .marker _ :: _ => s.ret b 2
    | .fin :: _ => s.ret b 3

/-- `BREAKPOINT` (20: R423): it fires at a strand whose next E instruction would take the token. -/
def execBreakpoint (sid bp : Nat) (s : State) : Out :=
  let q := (s.strand sid).core.e
  let next : Option Nat := match (q.block[q.idx]?).bind (fun i => decode? i.raw) with
    | some (.crecv _ c) => some c.toNat
    | some (.crecvS _ c _) => some c.toNat
    | _ => none
  match next with
  | none => .next s
  | some c =>
    match (s.chanOf sid c).view, s.bpHit sid c with
    | .data _ _ :: _, some (b, n) =>
      if b == bp && (s.endOf sid c).dir == 2 && (s.strand sid).scstate == 1 then .next (s.bpFire ⟨sid, true⟩ c (b, n)) else .next s
    | _, _ => .next s

/-! ## Markers, close, status (13: R313, R315-R318) -/

def execCmark (s : State) : Out :=
  match s.seq.chanWait with
  | some (.waveOut t i) => s.waveTail t i (fun s _ => done s)
  | _ => if (s.recvEnds s.sid).isEmpty then s.consumeWave 0 none (fun s _ => done s) else s.chanErr 0 5

def execCwaitm (s : State) : Out :=
  match s.seq.chanWait with
  | some (.waveOut t i) => s.waveTail t i (fun s imb => s.rateTrap imb done)
  | _ =>
    if (s.recvEnds s.sid).isEmpty then done s
    else s.consumeWave 0 none (fun s imb => s.rateTrap imb done)

/-- Token number `o` offered on a zero-slot channel has been taken. A receiver that has ended takes every token (log 21). -/
def Chan.taken (ch : Chan) (o : Nat) : Bool := o < ch.took || (ch.rSid.isNone && 0 < ch.left)

/-- The executing instruction appends an end token, or the one before it, to send end `c`: `sent` when it is accepted (13: R308, R313; 02:
R67). -/
def State.tokenOut (s : State) (c : Nat) (tok : Token) (sent : State → Out) : Out :=
  let e := s.endOf s.sid c
  let ch := s.chan e.chan
  if s.core.rowUnder 1 c && !s.seq.offered c then .next (s.block (.chan c 0 none none))
  else if ch.slots == 0 then
    match s.seq.chanWait with
    | some (.chan c' n (some o) i) =>
      if c' == c then
        if ch.taken o then sent (if o < ch.took then s else s.markMoved e.chan (some s.sid))
        else if ch.gone then s.chanErr c 6 else .next (s.block (.chan c n (some o) i))
      else .next ((s.chanPut e.chan tok).block (.chan c 0 (some ch.put) none))
    | _ => .next ((s.chanPut e.chan tok).block (.chan c 0 (some ch.put) none))
  else if ch.room 1 then sent (s.chanPut e.chan tok)
  else if ch.gone then s.chanErr c 6
  else .next (s.block (.chan c 0 none none))

/-- Append an end token to a send end and close it; `k` when it is done. -/
def State.closeEnd (s : State) (c : Nat) (k : State → Out) : Out :=
  s.tokenOut c .fin (fun s => k (s.updEnd s.sid c (fun e => { e with closed := true })).clearWait)

def execCclose (c : BitVec 3) (s : State) : Out :=
  let e := s.endOf s.sid c.toNat
  if e.dir == 0 then s.chanErr c.toNat 1
  else if e.dir == 2 then s.chanErr c.toNat 2
  else if e.closed then s.chanErr c.toNat 3
  else s.closeEnd c.toNat done

def tokKind (t : Option Token) : Nat :=
  match t with
  | none => 0
  | some (.data _ _) => 1
  | some (.marker _) => 2
  | some .fin => 3

def tokErr (t : Option Token) : Bool :=
  match t with
  | some (.data _ e) => e
  | _ => false

/-- The words of `CSTAT` (13: R317). -/
def State.cstat (s : State) (sid c sel : Nat) : Nat :=
  let e := s.endOf sid c
  let ch := s.chan e.chan
  if e.dir == 0 then 0
  else match sel with
    | 0 =>
      let closed := if e.dir == 1 then e.closed else ch.view.contains .fin
      (if ch.slots == 0 then 0 else ch.tokens.length % 256) * 65536 + ch.slots % 256 * 256 +
        (if tokErr ch.view.head? then 64 else 0) + tokKind ch.view.head? * 16 + (if closed then 8 else 0) + e.dir.toNat
    | 1 => e.span.toNat * 2 ^ 32 + e.total.toNat
    | _ => e.mperiod.toNat * 2 ^ 32 + (e.marks - (if e.dir == 1 then BitVec.ofNat 32 ch.due.length else 0)).toNat

def execCstat (d : BitVec 5) (c : BitVec 3) (sel : BitVec 6) (s : State) : Out :=
  s.ret d (BitVec.ofNat 64 (s.cstat s.sid c.toNat sel.toNat))

def execCerr (d : BitVec 5) (c : BitVec 3) (s : State) : Out :=
  let e := s.endOf s.sid c.toNat
  if e.dir == 0 then s.ret d 0
  else (s.updEnd s.sid c.toNat (fun e => { e with errs := 0, reason := 0 })).ret d
    (BitVec.ofNat 64 (e.errs.toNat + e.reason.toNat * 2 ^ 32))

end Sys2Proof.Machine
end

