-- ==== Sys2Proof/Machine/Walker.lean ====
section
/-! DEFINITION. Walker.lean: walkers, their control and their rows (02: R63-R71; 10: R227-R232). -/

namespace Sys2Proof.Machine

/-! ## Descriptors (02: R63-R65) -/

structure WDesc where
  base   : Nat
  elem   : Nat
  levels : Nat
  kind   : Nat
  res    : Nat                    -- TARGET[5:3]
  num    : Nat
  store  : Bool
  index  : Bool
  gated  : Bool
  feclr  : Bool
  iq     : Nat
  flagHi : Nat                    -- FLAGS[7:6]
  window : Nat
  wlo    : Nat
  count  : List Nat
  stride : List Int
  rowlen : Nat
  zero   : Nat
  deriving DecidableEq, Repr

def wdesc (d : BitVec 512) : WDesc :=
  { base := bitsOf d 0 64, elem := bitsOf d 64 8, levels := bitsOf d 72 8, kind := bitsOf d 86 2, res := bitsOf d 83 3,
    num := bitsOf d 80 3, store := d.getLsbD 88, index := d.getLsbD 89, gated := d.getLsbD 90, feclr := d.getLsbD 91,
    iq := bitsOf d 92 2, flagHi := bitsOf d 94 2, window := bitsOf d 96 32, wlo := bitsOf d 128 64,
    count := (List.range 4).map (fun l => bitsOf d (192 + 32 * l) 32),
    stride := (List.range 4).map (fun l => sxt (bitsOf d (320 + 32 * l) 32) 32),
    rowlen := bitsOf d 448 32, zero := bitsOf d 480 32 }

def elemOk (t : Nat) : Bool := t ≤ 14 && t != 13

/-- Status 1 (02: R63, R64, R68, R69). DESIGN CHOICE (log 22): `GATED` without `STORE` is not malformed; such a walker is an ordinary load. -/
def WDesc.malformed (x : WDesc) : Bool :=
  let used (l : Nat) : Bool := l < x.levels
  !elemOk x.elem || x.levels < 1 || 4 < x.levels || (x.index && x.levels != 1) || x.kind == 3 || x.res != 0 ||
    (x.kind == 2 && x.num != 0) || x.flagHi != 0 || x.window == 0 || x.zero != 0 || x.rowlen < 1 || 4096 < x.rowlen ||
    (List.range 4).any (fun l => if used l then x.count.getD l 0 == 0 else x.count.getD l 0 != 0 || x.stride.getD l 0 != 0) ||
    (x.feclr && x.base / 2 ^ 56 == 0) || (x.gated && (64 < x.count.getD 0 0 || 128 < x.rowlen))

/-- Status 2. -/
def WDesc.misdirected (x : WDesc) (c : StrandCore) : Bool :=
  (x.kind == 0 && (if x.store then x.num < 4 else 4 ≤ x.num)) ||
    (x.kind == 1 && (c.chEnd x.num).dir != (if x.store then 2 else 1)) || (x.kind == 2 && x.store) || (x.index && x.gated)

/-- Status 3 (02: R65). DESIGN CHOICE (log 22): a local window of an indexed walker must lie within the allocation too. -/
def WDesc.outOfWindow (x : WDesc) (t : Strand) : Bool :=
  let span (pick : Int → Int) : Int := ((List.range x.levels).map (fun l => pick (((x.count.getD l 0 : Int) - 1) * x.stride.getD l 0))).sum
  let lo := (x.base : Int) + span (min 0)
  let hi := (x.base : Int) + span (max 0) + x.rowlen - 1
  let n := x.window * 256
  (!x.index && !((x.wlo : Int) ≤ lo && hi < (x.wlo + n : Nat))) ||
    (x.base / 2 ^ 56 == 0xFE && !(x.wlo / 2 ^ 56 == 0xFE && t.localOk (x.wlo % 2 ^ 56) n))

/-- Status 5. -/
def WDesc.badPort (x : WDesc) (tile : Nat) : Bool :=
  x.kind == 2 && (x.elem < 8 || 11 < x.elem || x.rowlen != rowBytes x.elem || isXTile tile)

/-- The status of `WCFG` (02: R64). DESIGN CHOICE (log 22): of several cases 4 stands before 1, 2, 3 and 5, in this order. -/
def WDesc.status (x : WDesc) (t : Strand) (tile : Nat) : Nat :=
  if x.malformed then 1 else if x.misdirected t.core then 2 else if x.outOfWindow t then 3 else if x.badPort tile then 5 else 0

/-! ## Control (10: R227-R232) -/

def StrandCore.walker (c : StrandCore) (w : Nat) : Walker := c.w.getD w .empty
def StrandCore.setWalker (c : StrandCore) (w : Nat) (x : Walker) : StrandCore := { c with w := c.w.setIfInBounds w x }
def State.walkerOf (s : State) (sid w : Nat) : Walker := (s.strand sid).core.walker w
def State.updWalker (s : State) (sid w : Nat) (f : Walker → Walker) : State :=
  s.updCoreOf sid (fun c => c.setWalker w (f (c.walker w)))

def execWcfg (d : BitVec 5) (w : BitVec 3) (a : BitVec 5) (s : State) : Out :=
  let x := s.core.walker w.toNat
  if x.st == .running || x.st == .faulted then s.ret d 4
  else
    let (st, desc) : Nat × BitVec 512 :=
      match (if (s.g a).toNat % 64 == 0 then s.localRange s.sid (s.g a) 64 else none) with
      | none => (1, x.desc)
      | some k => let b := BitVec.ofNat 512 (s.rd k 64); ((wdesc b).status s.me s.myTile, b)
    let x' : Walker := if st == 0 then { Walker.empty with desc := desc, st := .configured } else { x with st := .idle }
    (s.updWalker s.sid w.toNat (fun _ => x')).ret d (BitVec.ofNat 64 st)

/-- Rows of the first group, when it is complete. -/
def groupRows : List GateRow → Option Nat
  | [] => none
  | r :: l => if r.last then some 1 else (groupRows l).map (· + 1)

/-- The walker wants a bit for its oldest complete group since cycle `now`, or has none (02: R68). -/
def Walker.asks (x : Walker) (now : Word) : Walker := { x with req := if (groupRows x.gate).isSome && x.go == 0 then some now else none }

def execWgo (d : BitVec 5) (w : BitVec 3) (s : State) : Out :=
  let x := s.core.walker w.toNat
  match x.st with
  | .configured | .done =>
    (s.updWalker s.sid w.toNat (fun x => { Walker.empty with desc := x.desc, st := .running })).ret d 0
  | .halted => (s.updWalker s.sid w.toNat (fun x => { x with st := .running, stop := false }.asks s.cycle)).ret d 0
  | _ => s.ret d 4

def execWhalt (w : BitVec 3) (s : State) : Out :=
  let x := s.core.walker w.toNat
  if x.st != .running then done s
  else if x.mid || 0 < x.go then .next ((s.updWalker s.sid w.toNat (fun x => { x with stop := true })).block (.whalt w.toNat))
  else done (s.updWalker s.sid w.toNat (fun x => { x with st := .halted, stop := false }))

def wstateCode (s : WState) : Nat :=
  match s with
  | .idle => 0
  | .configured => 1
  | .running => 2
  | .faulted => 3
  | .halted => 4
  | .done => 5

/-- The loop counters that `WSTAT` and a fault record give: the next iteration, or that of the row whose commit faulted. -/
def Walker.shownCnt (x : Walker) : Vector (BitVec 32) 4 :=
  match x.gate with
  | r :: _ => if 0 < x.go then r.cnt else x.cnt
  | [] => x.cnt

/-- Status word `sel` of a walker (10: R231). -/
def Walker.word (x : Walker) (sel : Nat) : Nat :=
  let d := wdesc x.desc
  let shown := x.st == .running || x.st == .faulted || x.st == .halted
  let c (l : Nat) : Nat := if shown then (x.shownCnt.getD l 0).toNat else 0
  match sel with
  | 0 => wstateCode x.st + (if d.index then 8 else 0) + (if d.gated then 16 else 0) + x.gate.length * 32
  | 1 => c 0 + (if d.index then 0 else c 1 * 2 ^ 32)
  | _ => c 2 + c 3 * 2 ^ 32

def execWstat (d : BitVec 5) (w : BitVec 3) (sel : BitVec 5) (s : State) : Out :=
  s.ret d (if w = 0 then 0 else BitVec.ofNat 64 ((s.core.walker w.toNat).word sel.toNat))

/-- Rows of the incomplete group go (10: R232). -/
def dropOpenGroup (l : List GateRow) : List GateRow := (l.reverse.dropWhile (fun r => !r.last)).reverse

def execWidx (d : BitVec 5) (w : BitVec 3) (lvl : BitVec 5) (a : BitVec 5) (s : State) : Out :=
  let x := s.core.walker w.toNat
  let de := wdesc x.desc
  let v := s.g a
  if x.st == .idle || x.st == .running || x.st == .faulted then s.ret d 4
  else if de.levels ≤ lvl.toNat || 2 ^ 32 ≤ v.toNat || de.count.getD lvl.toNat 0 ≤ v.toNat then s.ret d 1
  else
    (s.updWalker s.sid w.toNat (fun x =>
      let cnt := if x.st == .halted then x.cnt else Vector.replicate 4 0
      { x with st := .halted, fin := false, cnt := cnt.setIfInBounds lvl.toNat (v.setWidth 32),
               gate := if x.st == .halted then dropOpenGroup x.gate else [] })).ret d 0

/-! ## Rows (02: R65-R69, R71) -/

/-- Address of the next row: affine, or from index `ix`. -/
def Walker.rowAddr (x : Walker) (d : WDesc) (ix : Int) : Word :=
  if d.index then wrap64 (d.base + ix * d.stride.getD 0 0)
  else wrap64 (d.base + ((List.range 4).map (fun l => ((x.cnt.getD l 0).toNat : Int) * d.stride.getD l 0)).sum)

/-- Advance the counters; true when the last iteration is done. -/
def stepCounters (count : List Nat) (levels : Nat) (c : Vector (BitVec 32) 4) : Nat → Nat → Vector (BitVec 32) 4 × Bool
  | _, 0 => (c, true)
  | l, fuel + 1 =>
    if levels ≤ l then (c, true)
    else
      let n := (c.getD l 0).toNat + 1
      if n < count.getD l 0 then (c.setIfInBounds l (BitVec.ofNat 32 n), false)
      else stepCounters count levels (c.setIfInBounds l 0) (l + 1) fuel

/-- The row is done: the next iteration, or `DONE` (02: R70). A gated walker is done when its last group is released. -/
def Walker.rowDone (x : Walker) (d : WDesc) : Walker :=
  let (c, last) := stepCounters d.count d.levels x.cnt 0 4
  let x := { x with cnt := c, buf := [], mid := false, bad := false, offer := none }
  if last then (if x.gate.isEmpty then { x with st := .done, stop := false } else { x with fin := true }) else x

/-- The wait is on the walker's target (02: R71): a stream waits on its source when that is empty, on its target when it is full. -/
def waitsOn (c : StrandCore) (d : WDesc) (w : Option Wait) : Bool :=
  match w with
  | some (.queueEmpty q) | some (.queueFull q) => d.kind == 0 && d.num == q
  | some (.stream _ qd qa _) =>
    d.kind == 0 && (if d.store then d.num == qd.toNat && 8 ≤ (c.queue qd).length else d.num == qa.toNat && (c.queue qa).isEmpty)
  | some (.chan e _ _ _) => d.kind == 1 && d.num == e
  | _ => false

/-- A wave that waits does so on the ends that are not aligned, and on those on which its markers have no room (13: R308, R314). -/
def State.waveWaitsOn (s : State) (sid : Nat) (d : WDesc) (w : Option Wait) : Bool :=
  d.kind == 1 && (match w with
    | some (.wave _ _) => (s.waveBlock sid).contains d.num
    | some (.waveOut _ _) => (s.dueEnds sid).contains d.num
    | _ => false)

/-- A running strand with a sequencer blocked on the target of a faulted walker parks, for a breakpoint as one (02: R71; 20: R423). -/
def State.parkOnFault (s : State) (sid : Nat) : State :=
  let t := s.strand sid
  let hit := t.core.w.toList.filter (fun w => w.st == .faulted && [t.core.a.wait, t.core.e.wait].any (fun x =>
    waitsOn t.core (wdesc w.desc) x || s.waveWaitsOn sid (wdesc w.desc) x))
  if t.scstate != 1 || hit.isEmpty then s else s.park sid (if hit.all (·.brk) then .debug else .w0)

/-- A fault of walker `w` (02: R71, 18: R379): the record at once; the strand parks when it blocks on the target. -/
def State.walkerFault (s : State) (sid w : Nat) (c : Cause) (addr : Word) (ak : Nat) : State :=
  let x := s.walkerOf sid w
  let s := (s.logWalkOf sid c addr).faultRecord ⟨sid, false⟩ c w addr (x.shownCnt.toList.map (·.toNat)) ak
  let s := s.updWalker sid w (fun x => { x with st := .faulted, stop := false, brk := c == cBreak })
  let s := if c == cBreak || (s.strand sid).pendCause != 0 then s
    else s.updStrand sid (fun t => { t with pendCause := c, pendArg := addr, pendWho := BitVec.ofNat 8 w })
  s.parkOnFault sid

def WDesc.entries (d : WDesc) : Nat := (d.rowlen + 127) / 128

/-- Granules of a row at a local address. -/
def localGrans (va : Word) (n : Nat) : List Nat := granules (offOf va) n

/-- A walker of a strand that is being saved stops at the end of an outermost iteration, or, when forced, of any (18: R382). -/
def State.walkerPaused (s : State) (sid : Nat) (x : Walker) (d : WDesc) : Bool :=
  let t := s.strand sid
  t.saveReq.isSome && !x.mid && (t.saveForced || (List.range (d.levels - 1)).all (fun l => x.cnt.getD l 0 == 0))

/-- The walker's index for the next row, when one is at hand: element cnt[0] mod 32 of the head entry of its index queue. -/
def State.walkerIndex (s : State) (sid : Nat) (x : Walker) (d : WDesc) : Option Int :=
  if d.index then
    match (s.strand sid).core.queue (BitVec.ofNat 3 (4 + d.iq)) with
    | [] => none
    | e :: _ => some (sxt (elem e.v 32 ((x.cnt.getD 0 0).toNat % 32)) 32)
  else some 0

/-- The head entry of the index queue leaves after its last index is taken. DESIGN CHOICE (log 22): also when `COUNT[0]` ends within it. -/
def State.popIndex (s : State) (sid : Nat) (x : Walker) (d : WDesc) : State :=
  let n := (x.cnt.getD 0 0).toNat
  if d.index && (n % 32 == 31 || n + 1 == d.count.getD 0 0) then s.popQ sid (BitVec.ofNat 3 (4 + d.iq)) else s

def WDesc.inWindow (d : WDesc) (va : Word) : Bool := d.wlo ≤ va.toNat && va.toNat + d.rowlen ≤ d.wlo + d.window * 256

/-! ### Load rows -/

/-- The next token of a source's walker on end `c` starts a wave (13: R315). -/
def State.walkerWaves (s : State) (sid c : Nat) : Bool :=
  let e := s.endOf sid c
  (s.recvEnds sid).isEmpty && s.periodEnd sid == some c && (e.sent + 1) % e.mperiod.toNat == 0

/-- A new row does not enter a target that another walker's row is entering (02: R66). -/
def State.rowWaits (s : State) (sid : Nat) (d : WDesc) (x : Walker) : Bool :=
  x.buf.length == d.entries && (s.strand sid).core.rowUnder d.kind d.num

/-- Move the entries of the current row to the target as far as there is room. A row of at most 8 entries enters its queue at once. -/
def State.walkerPush (s : State) (sid w : Nat) (d : WDesc) : Nat → State
  | 0 => s
  | fuel + 1 =>
    let x := s.walkerOf sid w
    match x.buf with
    | [] => s.updWalker sid w (fun x => x.rowDone d)
    | e :: r =>
      let popped (s : State) : State := s.updWalker sid w (fun x => { x with buf := r, offer := none })
      if s.rowWaits sid d x then s
      else if d.kind == 0 then
        let q := BitVec.ofNat 3 d.num
        let s := s.queueOrder sid q
        if 8 < ((s.strand sid).core.queue q).length + (if d.entries ≤ 8 then x.buf.length else 1) then s
        else (popped (s.updCoreOf sid (fun c => c.push q e))).walkerPush sid w d fuel
      else if d.kind == 1 then
        let k := (s.endOf sid d.num).chan
        let ch := s.chan k
        let sent (s : State) : State :=
          let waves := s.walkerWaves sid d.num
          let s := popped (s.updEnd sid d.num ChEnd.count)
          if waves then (s.waveCut sid false none).1 else s
        let dropped : State := (s.etcInc sid).updWalker sid w (fun x => x.rowDone d)
        if ch.slots == 0 then
          match x.offer with
          | some o => if o < ch.took then (sent s).walkerPush sid w d fuel else if ch.gone then dropped else s
          | none =>
            if ch.gone then dropped
            else (s.chanPut k (.data e.v e.err)).updWalker sid w (fun x => { x with offer := some ch.put })
        else if ch.room 1 then (sent (s.chanPut k (.data e.v e.err))).walkerPush sid w d fuel
        else if ch.gone then dropped
        else s
      else
        -- the matrix row port: the row is delivered (log 12)
        let tile := sidTile sid
        if s.edges < (s.mx tile).portFree then s
        else (s.updMx tile (fun m => { m with portFree := s.edges + (if tapered d.elem then 1 else 4) })).updWalker sid w (fun x => x.rowDone d)

/-- A load row that has been read goes to its target. -/
def State.walkerRead (s : State) (sid w : Nat) (d : WDesc) : State := (s.readRow sid w).walkerPush sid w d (d.entries + 1)

/-- Begin a load row: its wait for full bits, then, at once or later, its read (02: R69; 03: R96, R100). -/
def State.walkerLoad (s : State) (sid w : Nat) (d : WDesc) : State :=
  let x := s.walkerOf sid w
  match s.walkerIndex sid x d with
  | none => s
  | some ix =>
    let va := x.rowAddr d ix
    let start (s : State) (b : List Byte) (err : Bool) : State :=
      ((s.popIndex sid x d).updWalker sid w (fun x => { x with mid := true, addr := va, bad := err, buf := entriesOf err b d.entries })).walkerPush
        sid w d (d.entries + 1)
    if d.index && !d.inWindow va then start (s.etcInc sid) [] true
    else
      let fe := d.feclr && spaceOf va == 0xFE && (s.strand sid).localOk (offOf va) d.rowlen
      if fe && !(s.tile (sidTile sid)).isFull (localGrans va d.rowlen) then s
      else if s.strictHeld sid va d.rowlen .load then s
      else
        let s := if fe then s.acquire sid 1 else s
        match s.lateParts sid va d.rowlen with
        | some ps => ((s.touch false ps).popIndex sid x d).updWalker sid w (fun x => { x with mid := true, addr := va, bad := false, rd := ps })
        | none => match s.loadBytes sid va d.rowlen .load .row with
          | .fault c a => s.walkerFault sid w c a akLoad
          | .bad s => start s [] true
          | .ok b s => start (if fe then s.updTile (sidTile sid) (fun t => t.clearFull (localGrans va d.rowlen)) else s) b false

/-! ### Store rows -/

/-- Take up to `n` entries for a store row into the walker's buffer. -/
def State.walkerTake (s : State) (sid w : Nat) (d : WDesc) : Nat → State
  | 0 => s
  | n + 1 =>
    let into (s : State) (e : QEntry) : State := s.updWalker sid w (fun x => { x with buf := x.buf ++ [e], mid := true })
    if d.kind == 0 then
      let q := BitVec.ofNat 3 d.num
      match (s.strand sid).core.queue q with
      | [] => s
      | e :: _ => (into (s.popQ sid q) e).walkerTake sid w d n
    else
      match (s.chanOf sid d.num).view with
      | .data v err :: _ => (into (s.takeData sid d.num v err) ⟨v, err, false⟩).walkerTake sid w d n
      | _ => s

/-- Data entries at hand for a store row, up to the first token that is not data. -/
def State.walkerReady (s : State) (sid : Nat) (d : WDesc) : Nat :=
  if d.kind == 0 then ((s.strand sid).core.queue (BitVec.ofNat 3 d.num)).length
  else ((s.chanOf sid d.num).view.takeWhile (fun t => match t with
    | .data _ _ => true
    | _ => false)).length

/-- Bytes of a store row. -/
def rowOf (d : WDesc) (l : List QEntry) : List Byte := (l.flatMap (fun e => bytesOfV e.v)).take d.rowlen

/-- Write a row; a walker with `FECLR` sets the bits after it. -/
def State.walkerWrite (s : State) (sid w : Nat) (d : WDesc) (va : Word) (b : List Byte) (k : State → State) : State :=
  match s.storeBytes sid va b false with
  | .fault c a => s.walkerFault sid w c a akStore
  | .bad s => k s
  | .ok s =>
    k (if d.feclr && spaceOf va == 0xFE then s.updTile (sidTile sid) (fun t => t.setFull (localGrans va b.length)) else s)

/-- The breakpoint at one of the tokens that a row takes from its channel now. -/
def State.walkerBp (s : State) (sid : Nat) (d : WDesc) (need : Nat) : Option (Nat × Nat) :=
  if d.kind == 1 then s.bpIn sid d.num (min need (s.walkerReady sid d)) else none

/-- The source will hold the whole row at once: a queue that has 8 entries, a channel with slots enough and data only. -/
def State.walkerWhole (s : State) (sid : Nat) (d : WDesc) : Bool :=
  if d.kind == 0 then d.entries ≤ 8
  else
    let c := s.chanOf sid d.num
    d.entries ≤ c.slots && s.walkerReady sid d == c.view.length

/-- One store row. A row that its source can hold is taken at once, a longer one as its entries come. -/
def State.walkerStore (s : State) (sid w : Nat) (d : WDesc) : State :=
  let x := s.walkerOf sid w
  let n := d.entries
  match s.walkerIndex sid x d with
  | none => s
  | some ix =>
    let va := x.rowAddr d ix
    let ch := s.chanOf sid d.num
    let fin (s : State) : State := (s.popIndex sid x d).updWalker sid w (fun x => x.rowDone d)
    if d.gated && 64 ≤ x.gate.length then s
    else
      let err := d.index && !d.inWindow va
      let flt : Option (Cause × Word) := if err || d.gated || x.mid then none else match s.resolve sid va d.rowlen .store with
        | .fault c a => some (c, a)
        | _ => none
      match flt with
      | some (c, a) => s.walkerFault sid w c a akStore
      | none =>
        let need := n - x.buf.length
        if s.walkerReady sid d < need && !x.mid && s.walkerWhole sid d && !(d.kind == 1 && ch.gone) then s
        else if !x.mid && s.strictHeld sid va d.rowlen .store then s
        else match s.walkerBp sid d need with
          | some hit => (s.updStrand sid (fun t => { t with bpSeen := hit :: t.bpSeen })).walkerFault sid w cBreak
              (BitVec.ofNat 64 (d.num * 2 ^ 32 + hit.2)) akTrap
          | none =>
            let s := s.walkerTake sid w d need
            let x := s.walkerOf sid w
            if x.buf.length < n then
              if d.kind == 1 && ch.gone && (s.chanOf sid d.num).view.isEmpty then fin (s.etcInc sid) else s
            else if err then fin (s.etcInc sid)
            else if d.gated then
              let last := (x.cnt.getD 0 0).toNat + 1 == d.count.getD 0 0
              let row : GateRow := ⟨va, vOfBytes (padTo 128 (rowOf d x.buf)), last, x.cnt⟩
              fin (s.updWalker sid w (fun x => let y := { x with gate := x.gate ++ [row] }; if y.req.isNone then y.asks s.cycle else y))
            else s.walkerWrite sid w d va (rowOf d x.buf) fin

/-- A row of walker `w` under way that will not end before a save goes back to where it came from: the iteration is performed again
after the restore (18: R382). A load row none of which has reached its queue; a store row whose entries fit where they were. -/
def State.walkerUndo (s : State) (sid w : Nat) : State :=
  let x := s.walkerOf sid w
  let d := wdesc x.desc
  let clear (s : State) : State := s.updWalker sid w (fun x => { x with buf := [], mid := false, bad := false })
  let errs := (x.buf.filter (·.err)).length
  let less (v : BitVec 32) (n : Nat) : BitVec 32 := if v == BitVec.allOnes 32 then v else BitVec.ofNat 32 (v.toNat - n)
  if !x.mid then s
  else if !d.store then
    if d.kind == 0 && x.buf.length == d.entries then
      clear (if d.feclr && !x.bad then s.updTile (sidTile sid) (fun t => t.setFull (localGrans x.addr d.rowlen)) else s)
    else s
  else if d.kind == 0 then
    let q := BitVec.ofNat 3 d.num
    let l := x.buf ++ (s.strand sid).core.queue q
    if 8 < l.length then s
    else clear (s.updCoreOf sid (fun c => { c.setQueue q l with etc := less c.etc errs }))
  else
    let k := (s.endOf sid d.num).chan
    let l := x.buf.map (fun e => Token.data e.v e.err)
    if (s.chan k).slots == 0 || 64 < l.length + (s.chan k).tokens.length then s
    else
      let s := s.updChan k (fun c => { c with tokens := l ++ c.tokens, took := c.took - l.length })
      let s := s.updEnd sid d.num (fun e => { e with span := less e.span l.length, total := less e.total l.length, sent := e.sent - l.length, errs := less e.errs errs })
      clear (s.updCoreOf sid (fun c => { c with etc := less c.etc errs }))

/-- `WALKER_ITERATION`: a running walker moves one row, or part of one, as its target allows. -/
def execWalkerIteration (sid w : Nat) (s : State) : Out :=
  let x := s.walkerOf sid w
  let d := wdesc x.desc
  let t := s.strand sid
  if x.st != .running || w == 0 || t.scstate == 3 || (x.fin && !x.stop) || s.walkerPaused sid x d then .next s
  else if x.stop && !x.mid && x.go == 0 then .next (s.updWalker sid w (fun x => { x with st := .halted, stop := false }))
  else if x.fin then .next s
  else if d.store then .next (s.walkerStore sid w d)
  else if x.mid then .next (if x.rd.isEmpty then s.walkerPush sid w d (d.entries + 1) else s.walkerRead sid w d)
  else .next (s.walkerLoad sid w d)

/-! ### Gated groups (02: R68) -/

/-- Write the committed rows, oldest first. -/
def State.gateWrite (s : State) (sid w : Nat) (d : WDesc) : Nat → State
  | 0 =>
    s.updWalker sid w (fun x => if x.fin && x.gate.isEmpty then { x with st := .done, fin := false, stop := false } else x.asks s.cycle)
  | n + 1 =>
    match (s.walkerOf sid w).gate with
    | [] => s
    | g :: r =>
      s.walkerWrite sid w d g.addr ((bytesOfV g.v).take d.rowlen)
        (fun s => (s.updWalker sid w (fun x => { x with gate := r, go := x.go - 1 })).gateWrite sid w d n)

/-- `BRBQ` on A asked for the head bit before the walker did (02: R68). -/
def State.brbqFirst (s : State) (sid : Nat) (x : Walker) : Bool :=
  let q := (s.strand sid).core.a
  q.wait == some .bqEmpty && q.waitAt.toNat < (x.req.getD s.cycle).toNat

/-- `GATED_GROUP_RELEASE`: one bit of the E-to-A branch-outcome queue commits or discards the oldest complete group. -/
def execGatedGroupRelease (sid w : Nat) (s : State) : Out :=
  let x := s.walkerOf sid w
  let d := wdesc x.desc
  if x.st != .running || (s.strand sid).scstate == 3 then .next s
  else if 0 < x.go then .next (s.gateWrite sid w d x.go)
  else match groupRows x.gate, (s.strand sid).core.bqEA with
    | some n, b :: r =>
      if s.brbqFirst sid x then .next s
      else
        let s := s.updCoreOf sid (fun c => { c with bqEA := r })
        if b then .next ((s.updWalker sid w (fun x => { x with go := n, req := none })).gateWrite sid w d n)
        else .next ((s.updWalker sid w (fun x => { x with gate := x.gate.drop n, req := none })).gateWrite sid w d 0)
    | _, _ => .next s

end Sys2Proof.Machine
end

