-- ==== Sys2Proof/Machine/Sync.lean ====
section
/-! DEFINITION. Sync.lean: full bits, queues, semaphores, barriers and the cycle counter (10: R235, R245-R253), with the timed
events that end their waits. -/

namespace Sys2Proof.Machine

/-! ## Shared -/

/-- The strand, or service core, runs. -/
def State.runs (s : State) (sid : Nat) : Bool := (s.strand sid).scstate == 1

/-- Wait data of a sequencer. -/
def State.waitOf (s : State) (a : Agent) : Option Wait := ((s.strand a.sid).core.seq a.e).wait

/-- A release at `POD` comes after every prior PST of the strand (03: R100, R103), and, on E, after its summary operations (05: R156). -/
def State.afterPsts (s : State) (k : State → Out) : Out :=
  s.afterSums (fun s => if s.pstPending s.sid then .next (s.block .fence) else k s)
/-- What such a release waits for is there. -/
def State.releaseReady (s : State) (a : Agent) : Bool := (!a.e || (s.sumsOf a.sid).isEmpty) && !s.pstPending a.sid

/-- The release of the executing instruction at a scope, then `k`. -/
def State.releaseThen (s : State) (scope : Nat) (k : State → Out) : Out :=
  if scope == 5 then s.afterPsts (fun s => k (s.release s.sid scope)) else s.afterSums (fun s => k (s.release s.sid scope))

/-! ## Full bits (10: R235) -/

/-- Granules of the range of a full-bit instruction; none when it is not a local range of the allocation. -/
def State.febRange (s : State) (a b : BitVec 5) : Option (List Nat) :=
  if s.g b == 0 then some []
  else match s.localRange s.sid (s.g a) (s.g b).toNat with
    | some _ => some (granules (offOf (s.g a)) (s.g b).toNat)
    | none => none

def execFebClr (a b : BitVec 5) (s : State) : Out :=
  match s.febRange a b with
  | none => done (s.errorResponse s.sid 0 (s.g a))
  | some gs => done (s.updTile s.myTile (fun t => t.clearFull gs))

/-- A release at `TILE` that no span can undo (20: R410). -/
def execFebSet (a b : BitVec 5) (s : State) : Out :=
  match s.febRange a b with
  | none => done (s.errorResponse s.sid 0 (s.g a))
  | some [] => done s
  | some gs => (s.spanBreak s.sid).releaseThen 1 (fun s => done (s.updTile s.myTile (fun t => t.setFull gs)))

def execWaitf (a b : BitVec 5) (s : State) : Out :=
  match s.febRange a b with
  | none => done (s.errorResponse s.sid 0 (s.g a))
  | some [] => done s
  | some gs =>
    if (s.tile s.myTile).isFull gs then done (s.acquire s.sid 1)
    else .next (s.block (.fullBits (gs.headD 0) gs.length))

/-! ## Queues (10: R245) -/

def execQpush (q : BitVec 3) (a : BitVec 5) (s : State) : Out :=
  if s.me.queueFull q then .next (s.block (.queueFull q.toNat))
  else done ((s.queueOrder s.sid q).updCore (fun c => c.push q (scalarEntry (s.g a))))

def execQpop (d : BitVec 5) (q : BitVec 3) (s : State) : Out :=
  match s.core.queue q with
  | [] => .next (s.block (.queueEmpty q.toNat))
  | e :: _ => (s.popQ s.sid q).ret d (e.v.setWidth 64)

def execBqpop (n : BitVec 5) (s : State) : Out := s.popBq (fun b s => s.ret n (bit01 b))

/-! ## Semaphores (10: R246) -/

def satInc16 (x : BitVec 16) : BitVec 16 := if x = BitVec.allOnes 16 then x else x + 1

/-- A signal to a semaphore of a strand (02: R57). -/
def State.signal (s : State) (sid h : Nat) : State :=
  s.updCoreOf sid (fun c => { c with h := c.h.setIfInBounds h (satInc16 (c.h.getD h 0)) })

def execSems (h : BitVec 4) (s : State) : Out :=
  (s.spanBreak s.sid).releaseThen 5 (fun s => done (s.signal s.sid h.toNat))

/-- A slot that holds a strand. -/
def Strand.live (t : Strand) : Bool := t.scstate != 0
/-- A slot that takes signals: one being saved or restored is as an empty one (18: R382). -/
def Strand.signalled (t : Strand) : Bool := t.scstate == 1 || t.scstate == 2 || t.scstate == 3

/-- A remote signal, dropped and logged in the cases of R246. -/
def execSemsRemote (h : BitVec 4) (a : BitVec 5) (s : State) : Out :=
  let w := s.g a
  (s.spanBreak s.sid).releaseThen 5 (fun s =>
    let dst := bitsOf w 0 12
    let t := s.strand dst
    if bitsOf w 12 52 != 0 || !t.signalled || t.ptag != s.me.ptag then done (s.violOf s.sid 3 w) else done (s.signal dst h.toNat))

def execSemw (h : BitVec 4) (s : State) : Out :=
  let n := s.core.h.get h.toFin
  if n == 0 then .next (s.block (.sem h.toNat))
  else done ((s.updCore (fun c => { c with h := c.h.set h.toNat (n - 1) h.isLt })).acquire s.sid 5)

/-! ## Barrier wires (10: R247-R249) -/

def State.row (s : State) (k : Nat) : Wire := Tbl.get s.rows k .empty
def State.col (s : State) (k : Nat) : Wire := Tbl.get s.cols k .empty
def State.updRow (s : State) (k : Nat) (f : Wire → Wire) : State := { s with rows := Tbl.put s.rows k (f (s.row k)) }
def State.updCol (s : State) (k : Nat) (f : Wire → Wire) : State := { s with cols := Tbl.put s.cols k (f (s.col k)) }

def selKind (sel : Word) : Nat := bitsOf sel 0 2
/-- The scope of a barrier: `DIE` for wires, `POD` for counting barriers (03: R111). -/
def selScope (sel : Word) : Nat := if selKind sel == 3 then 5 else 3
def selBar (sel : Word) : Nat := bitsOf sel 2 6
def selX (sel : Word) : Nat := bitsOf sel 8 16
def selY (sel : Word) : Nat := bitsOf sel 24 16
def selMask (sel : Word) : BitVec 32 := BitVec.ofNat 32 (bitsOf sel 8 32)

/-- An open phase of another kind, mask or pitch. -/
def Wire.clash (w : Wire) (sel : Word) (p : BitVec 12) : Bool :=
  w.opened && !(w.kind.toNat == selKind sel && w.mask == selMask sel && w.ptag == p)

def Wire.has (w : Wire) (pos : Nat) : Bool := w.arrived.any (fun a => a.1 == pos)

/-- The positions of a wire's open phase: x on a row wire, y on a column wire. -/
def Wire.mask16 (w : Wire) (col : Bool) : Nat := if col then bitsOf w.mask 16 16 else bitsOf w.mask 0 16

/-- Every position of the mask has arrived. -/
def Wire.complete (w : Wire) (col : Bool) : Bool :=
  w.opened && !w.arrived.isEmpty && (List.range 16).all (fun i => !(w.mask16 col).testBit i || w.has i)

/-- An arrival opens a phase or joins it. -/
def Wire.join (w : Wire) (sel : Word) (p : BitVec 12) : Wire :=
  { w with opened := true, kind := BitVec.ofNat 2 (selKind sel), mask := selMask sel, ptag := p }
def Wire.arrive (w : Wire) (pos sid now : Nat) : Wire := { w with arrived := w.arrived ++ [(pos, sid)], last := now }

/-- A mesh row wire that nobody holds any more closes (10: R249, R252). -/
def Wire.closeIf (w : Wire) : Wire :=
  if w.arrived.isEmpty && w.toCol.isEmpty && w.held.isEmpty then { w with opened := false } else w

/-! ## Counting barriers (10: R250) -/

def State.cbar (s : State) (k : Nat) : CBar := Tbl.get s.cbars k .empty
def State.updCbar (s : State) (k : Nat) (f : CBar → CBar) : State := { s with cbars := Tbl.put s.cbars k (f (s.cbar k)) }

/-- An armed barrier with enough arrivals releases. -/
def State.cbarRelease (s : State) (k : Nat) : State :=
  let b := s.cbar k
  if b.armed && b.n ≤ b.count then
    let s := s.updCbar k (fun b => { b with armed := false, count := b.count - b.n, phase := b.phase + 1 })
    { s with arrivals := s.arrivals.map (fun a =>
        if a.bkind == 3 && a.die * 64 + a.bnum == k then { a with done := true } else a) }
  else s

/-- One arrival, unless 2^20 are held; `none` when it is dropped. -/
def State.cbarArrive (s : State) (k : Nat) : Option State :=
  if 2 ^ 20 ≤ (s.cbar k).count then none else some ((s.updCbar k (fun b => { b with count := b.count + 1 })).cbarRelease k)

/-- Whether a die's counting barrier is assigned to a pitch, or to a set it belongs to (17: R354 `PCBAR`). -/
def State.cbarOwned (s : State) (die b p : Nat) : Bool :=
  s.pitches.any (fun x => (x.2.pcbar.getD die 0).getLsbD b && s.tagAdmits x.1 p)

/-! ## BARH (10: R248) -/

def State.barhStatus (s : State) (sel b : Word) : Nat :=
  let t := s.myTile
  let die := t / 256
  let kind := selKind sel
  let p := s.me.ptag
  let row := s.row (die * 16 + tileY t)
  let col := s.col (die * 16 + tileX t)
  if bitsOf sel 40 24 != 0 || (kind != 3 && (selBar sel != 0 || b != 0)) || (kind == 0 && selY sel != 0) ||
      (kind == 1 && selX sel != 0) || (kind == 3 && 2 ^ 20 < b.toNat) then 4
  else if ((kind == 0 || kind == 2) && !(selX sel).testBit (tileX t)) || ((kind == 1 || kind == 2) && !(selY sel).testBit (tileY t)) ||
      (kind == 3 && !s.cbarOwned die (selBar sel) p.toNat) then 2
  else if ((kind == 0 || kind == 2) && row.clash sel p) || ((kind == 1 || kind == 2) && col.clash sel p) then 3
  else if (kind == 0 && row.has (tileX t)) || (kind == 1 && col.has (tileY t)) ||
      (kind == 2 && (row.has (tileX t) || row.toCol.any (fun a => a.1 == tileX t) || row.held.contains (tileX t))) ||
      (kind == 3 && b != 0 && (s.cbar (die * 64 + selBar sel)).armed) then 1
  else 0

/-- Keep the strand's last recorded arrival of a kind (and counting barrier). -/
def State.noteArrival (s : State) (x : Arrival) : State :=
  { s with arrivals := x :: s.arrivals.filter (fun a => !(a.sid == x.sid && a.bkind == x.bkind && (x.bkind != 3 || a.bnum == x.bnum))) }

/-- Record an accepted arrival of the executing strand. -/
def State.barhRecord (s : State) (sel b : Word) : State :=
  let t := s.myTile
  let die := t / 256
  let kind := selKind sel
  let p := s.me.ptag
  let rk := die * 16 + tileY t
  let ck := die * 16 + tileX t
  let s := s.noteArrival ⟨s.sid, BitVec.ofNat 2 kind, if kind == 3 then selBar sel else 0, die, if kind == 0 then rk else ck, sel, false, false⟩
  match kind with
  | 0 => s.updRow rk (fun w => (w.join sel p).arrive (tileX t) s.sid s.prog)
  | 1 => s.updCol ck (fun w => (w.join sel p).arrive (tileY t) s.sid s.prog)
  | 2 => (s.updRow rk (fun w => (w.join sel p).arrive (tileX t) s.sid s.prog)).updCol ck (fun w => w.join sel p)
  | _ =>
    let k := die * 64 + selBar sel
    if b == 0 then (s.cbarArrive k).getD (s.evLogOf s.sid 0x0C (BitVec.ofNat 64 (selBar sel)) 0)
    else (s.updCbar k (fun c => { c with armed := true, n := b.toNat })).cbarRelease k

/-- The sense an arrival records: that of the wire it arrives on; a counting barrier has none. -/
def State.barSense (s : State) (sel : Word) : Bool :=
  let t := s.myTile
  match selKind sel with
  | 0 => (s.row (t / 256 * 16 + tileY t)).sense
  | 1 => (s.col (t / 256 * 16 + tileX t)).sense
  | 2 => (s.row (t / 256 * 16 + tileY t)).sense
  | _ => false

def execBarh (d a b : BitVec 5) (s : State) : Out :=
  let sel := s.g a
  let n := s.g b
  let s := s.spanBreak s.sid
  match s.barhStatus sel n with
  | 0 => s.releaseThen (selScope sel) (fun s => (s.barhRecord sel n).ret d (BitVec.ofNat 64 (if s.barSense sel then 256 else 0)))
  | st => s.ret d (BitVec.ofNat 64 st)

/-- `WIRE_RELEASE` (10: R249; 17: R373): 6 cycles after the last arrival. On a mesh's row wire the released tiles go on to their columns. -/
def execWireRelease (die wire : Nat) (col : Bool) (s : State) : Out :=
  let k := die * 16 + wire
  let w := if col then s.col k else s.row k
  if !w.complete col || s.prog < w.last + 24 then .next s
  else if !col && w.kind == 2 then
    .next (s.updRow k (fun w => { w with
      sense := !w.sense, arrived := [], toCol := w.toCol ++ w.arrived, held := w.held ++ w.arrived.map (·.1) }))
  else
    let s : State := { s with arrivals := s.arrivals.map (fun a =>
      if a.bkind == w.kind && a.wire == k && w.arrived.any (fun p => p.2 == a.sid) then { a with done := true } else a) }
    let closed (x : Wire) : Wire := { x with sense := !x.sense, arrived := [], opened := false }
    if !col then .next (s.updRow k closed)
    else
      let s := s.updCol k closed
      .next (if w.kind == 2 then
        w.arrived.foldl (fun s p => s.updRow (die * 16 + p.1) (fun r => { r with held := r.held.erase wire }.closeIf)) s
      else s)

/-- `MESH_COLUMN_ARRIVAL` (10: R249): the tiles of a released row arrive on their column wires, 8 cycles after its last arrival. -/
def execMeshColumnArrival (die row : Nat) (s : State) : Out :=
  let k := die * 16 + row
  let w := s.row k
  if w.toCol.isEmpty || s.prog < w.last + 32 then .next s
  else
    let s := w.toCol.foldl (fun s p => s.updCol (die * 16 + p.1) (fun c => c.arrive row p.2 s.prog)) s
    .next (s.updRow k (fun w => { w with toCol := [] }))

/-! ## BARW (10: R251, R252) -/

def State.arrivalOf (s : State) (sid : Nat) (sel : Word) : Option Arrival :=
  s.arrivals.find? (fun a => a.sid == sid && a.bkind.toNat == selKind sel && (selKind sel != 3 || a.bnum == selBar sel))

def State.dropArrival (s : State) (x : Arrival) : State := { s with arrivals := s.arrivals.filter (fun a => a != x) }

/-- Positions of the awaited wire's mask that have not arrived. -/
def State.missing (s : State) (a : Arrival) : Nat :=
  if a.bkind == 3 then 0
  else
    let col := a.bkind != 0
    let w := if col then s.col a.wire else s.row a.wire
    let m := if col then selY a.sel else selX a.sel
    let got := w.opened && w.kind == a.bkind && w.mask == selMask a.sel
    (List.range 16).foldl (fun n i => if m.testBit i && !(got && w.has i) then n + 2 ^ i else n) 0

def State.barArg (s : State) (a : Arrival) (sel : Word) : Word :=
  BitVec.ofNat 64 ((if a.withdrawn then 2 ^ 63 else 0) + s.missing a * 65536 + bitsOf sel 0 16)

/-- `BARTIMEO` of the strand's pitch (17: R354): the cycle of the time-out, none when it is 0 or CYCLE never gets there. -/
def State.barDeadline (s : State) : Option Word :=
  let n := (s.pitch s.me.ptag.toNat).pbarto
  if n == 0 || 2 ^ 64 ≤ s.cycle.toNat + n.toNat then none else some (s.cycle + n)

def execBarw (a : BitVec 5) (s : State) : Out :=
  let sel := s.g a
  match s.arrivalOf s.sid sel with
  | none => done s
  | some x =>
    if x.withdrawn then .next ((s.dropArrival x).trap cBarTimeout (s.barArg x sel))
    else if x.done then done ((s.dropArrival x).acquire s.sid (selScope sel))
    else match s.seq.wait with
      | some (.bar dl) => .next (s.block (.bar dl))
      | _ => .next (s.block (.bar s.barDeadline))

/-! ## Timed events -/

/-- `SLEEPC_WAKE` (09: R211): the sleeping instruction is done. -/
def execSleepcWake (who : Agent) (s : State) : Out :=
  match s.waitOf who with
  | some (.sleep w) => if w.toNat ≤ s.cycle.toNat && s.runs who.sid then .next (s.updSeqOf who Seq.adv) else .next s
  | _ => .next s

/-- The selector of a blocked `BARW`. -/
def Seq.barSel (q : Seq) : Option Word :=
  match (q.block[q.idx]?).bind (fun i => decode? i.raw) with
  | some (.barw a) => some (q.gGet a)
  | _ => none

/-- `BAR_TIMEOUT` (10: R251): the trap at the sequencer that waits; the arrival stays recorded. -/
def execBarTimeout (who : Agent) (s : State) : Out :=
  let q := (s.strand who.sid).core.seq who.e
  match q.wait, q.barSel with
  | some (.bar (some dl)), some sel =>
    match s.arrivalOf who.sid sel with
    | none => .next s
    | some x =>
      if x.done || s.cycle.toNat < dl.toNat || !s.runs who.sid then .next s
      else .next ({ s with cur := who }.trap cBarTimeout (s.barArg x sel))
  | _, _ => .next s

/-- `SCALAR_READ_BUFFER_EXPIRY` (03: R90): a line leaves 4,096 cycles after its fill. -/
def execScalarReadBufferExpiry (tile line : Nat) (s : State) : Out :=
  .next (s.updTile tile (fun t => { t with srb := t.srb.filter (fun l => l.line != line || s.cycle.toNat < l.fill.toNat + 4096) }))

def execCyc (n : BitVec 5) (s : State) : Out := s.ret n s.cycle

end Sys2Proof.Machine
end

