-- ==== Sys2Proof/Machine/Copy.lean ====
section
/-! DEFINITION. Copy.lean: copies: descriptors, issue, slots and tickets, rows, merging and completion (10: R241-R244; 03: R104-R106;
01: R44), and the record operations that they share with the dispatcher. -/

namespace Sys2Proof.Machine

/-! ## Task references (01: R18) -/

/-- Fields of a task reference (01: R18). -/
def trefPkg (t : Word) : Nat := bitsOf t 54 10
def trefInst (t : Word) : Nat := bitsOf t 5 32
/-- Die and record index as a record key. -/
def trefKey (t : Word) : Nat := bitsOf t 52 2 * 32768 + bitsOf t 37 15
def trefAmt (t : Word) : Nat := bitsOf t 0 5 + 1

def mkTref (pkg rk inst : Nat) : Word := BitVec.ofNat 64 (pkg * 2 ^ 54 + recDie rk * 2 ^ 52 + rk % 32768 * 2 ^ 37 + inst * 32)
/-- The tref of a record, `AMT` 0. -/
def State.trefOf (s : State) (rk : Nat) : Word := mkTref s.pkg.toNat rk (s.recOf rk).inst.toNat

/-! ## Copies in progress -/

/-- Scratchpad tile and granules of a part, none for global memory. -/
def Part.grans (p : Part) : Option (Nat × List Nat) :=
  match p.slot with
  | some _ => none
  | none => some ((p.key - 0x10000000000000) / 0x400000, granules (p.key % 0x400000) p.len)

/-- Set the full bits that rows of a copy fill (02: R72). -/
def State.setRowBits (s : State) (r : CpRow) : State :=
  r.dst.foldl (fun s p => match p.grans with
    | some (t, gs) => s.updTile t (fun x => x.setFull gs)
    | none => s) s

/-- The error response of a row: counted for a strand, logged for the pitch (03: R86). -/
def State.copyError (s : State) (c : Copy) (vk : Nat) (va : Word) : State :=
  match c.owner with
  | .strand sid _ _ _ _ => s.errorResponse sid vk va
  | .staging rk inv ct _ => s.violLog ((s.recOf rk).inv inv).die c.ptag.toNat vk (((s.recOf rk).inv inv).tiles.getD ct 0) va (s.trefOf rk)
  | .writeback rk inv ct _ => s.violLog ((s.recOf rk).inv inv).die c.ptag.toNat vk (((s.recOf rk).inv inv).tiles.getD ct 0) va (s.trefOf rk)
  | .restore rk inv ct => s.violLog ((s.recOf rk).inv inv).die c.ptag.toNat vk (((s.recOf rk).inv inv).tiles.getD ct 0) va (s.trefOf rk)
  | .ended rk inv => s.violLog ((s.recOf rk).inv inv).die c.ptag.toNat vk (((s.recOf rk).inv inv).tiles.getD 0 0) va (s.trefOf rk)

/-! ### What copies read and write (03: R91, R104, R106, R108) -/

/-- The agent of a copy: on the tile whose strand issued it; a staging copy on its destination tile (03: R98). -/
def State.copyAgent (s : State) (id : Nat) (c : Copy) : Who :=
  let at_ (rk inv ct : Nat) : Who := copyWho id (((s.recOf rk).inv inv).tiles.getD ct 0) rk inv
  match c.owner with
  | .strand sid _ _ _ _ => copyWho id (sidTile sid) (s.strand sid).rk (s.strand sid).inv
  | .ended rk inv => at_ rk inv 0
  | .staging rk inv ct _ => at_ rk inv ct
  | .writeback rk inv ct _ => at_ rk inv ct
  | .restore rk inv ct => at_ rk inv ct

/-- The release of a copy when full bits that it fills are set (03: R106). -/
def State.copyRelease (s : State) (id : Nat) (c : Copy) : State := s.releaseBy (s.copyAgent id c) 1 false

/-- A row's bytes as the copies `ids`, which read it together, find them. -/
def State.copyParts (s : State) (ids : List Nat) : List Part → List Byte × State
  | [] => ([], s)
  | p :: r =>
    let (c, s1) := s.readPart (ids.map .copy) (unitsOf 4 p.len p.key p.len) (p.ord == .loose)
    let (b, s2) := s1.copyParts ids r
    ((List.range p.len).map (fun i => (cellOf c (p.key + i)).getD (s.byteUnder p.slot (p.key + i))) ++ b, s2)

/-- Read the source of a row: zeros where a line refuses. -/
def State.copyRead (s : State) (ids : List Nat) (c : Copy) (r : CpRow) : List Byte × State :=
  match s.partsRefusal false r.src with
  | some vk => (List.replicate r.len 0, s.copyError c vk r.sva)
  | none => (s.touch false r.src).copyParts ids r.src

/-- Write a row at its destination, and its full bits with `FEM`. A masked row is zeros (01: R24). -/
def State.copyWrite (s : State) (id : Nat) (c : Copy) (r : CpRow) (b : List Byte) : State :=
  let b := if r.src.isEmpty then List.replicate r.len 0 else b
  let s := match s.partsRefusal true r.dst with
    | some vk => s.copyError c vk r.dva
    | none =>
      let cells := (keysOf r.dst).zip b
      ((s.touch true r.dst).unpoison r.dst).putUnits (s.copyAgent id c) (r.dst.any (·.ord == .loose)) (wordUnits 4 cells.length cells)
  if c.fem then (s.copyRelease id c).setRowBits r else s

def Copy.setDone (c : Copy) (j : Nat) : Copy :=
  match c.rows[j]? with
  | some r => { c with rows := c.rows.set j { r with done := true } }
  | none => c

/-- Its row `j` reads a source. -/
def Copy.reads (c : Copy) (j : Nat) : Bool := (c.rows[j]?).any (fun r => !r.src.isEmpty)

/-- The copies that a row read of copy `id` serves: its own and those merged with it (01: R44). -/
def State.merged (s : State) (id : Nat) : List (Nat × Copy) := s.copies.filter (fun p => p.1 == id || p.2.leader == some id)

/-- A copy whose leader reads for it. -/
def State.follows (s : State) (c : Copy) : Bool :=
  match c.leader with
  | some l => (Tbl.find s.copies l).isSome
  | none => false

/-- `COPY_ROW_WRITE`: one row is read and written, in no promised order of rows (03: R104). A copy that may merge reads when its 64
cycles are over; then all merged ones read once (01: R44). DESIGN CHOICE (log 70): a row is read whole before any of it is written, so where
its source and destination overlap no word receives a value that the copy wrote in that row. -/
def execCopyRowWrite (c row : Nat) (s : State) : Out :=
  match Tbl.find s.copies c with
  | none => .next s
  | some x =>
    match x.rows[row]? with
    | none => .next s
    | some r =>
      if r.done || s.follows x || (x.merge.isSome && s.cycle.toNat < x.since.toNat + 64) then .next s
      else
        let l := s.merged c
        let readers := l.filter (fun p => p.2.reads row)
        let (b, s) : List Byte × State := match readers.findSome? (fun (p : Nat × Copy) => p.2.rows[row]?) with
          | some r => s.copyRead (readers.map (·.1)) x r
          | none => ([], s)
        .next (l.foldl (fun (s : State) (p : Nat × Copy) =>
          match p.2.rows[row]? with
          | some r => { (s.copyWrite p.1 p.2 r b) with copies := Tbl.put s.copies p.1 (p.2.setDone row) }
          | none => s) s)

/-- `COPY_COMPLETION` (10: R243): every write is performed; the completion action is done and the slot is free. A ticket waits for
room in its queue. -/
def execCopyCompletion (c : Nat) (s : State) : Out :=
  match Tbl.find s.copies c with
  | none => .next s
  | some x =>
    if !(x.rows.all (·.done)) then .next s
    else
      let fin (s : State) : State :=
        let s := (if x.fem then s else x.rows.foldl (fun s r => s.setRowBits r) s).copyRelease c x
        { s with copies := Tbl.del s.copies c }
      match x.owner with
      | .strand sid slot q h t =>
        let full : Bool := match q with
          | some q => (s.strand sid).queueFull (BitVec.ofNat 3 q)
          | none => false
        if full then .next s
        else
          let s := fin s
          let s := match q with
            | some q => (s.queueOrder sid (BitVec.ofNat 3 q)).updCoreOf sid (fun k => k.push (BitVec.ofNat 3 q) { scalarEntry t with acq := true })
            | none => s
          let s := match h with
            | some h => s.signal sid h
            | none => s
          .next (s.updCoreOf sid (fun k => { k with cps := k.cps.setIfInBounds slot { k.cps.getD slot .empty with copy := none } }))
      | .staging rk inv _ _ => .next ((fin s).updInv rk inv (fun i => { i with copies := i.copies.erase c }))
      | .writeback rk inv _ _ => .next ((fin s).updInv rk inv (fun i => { i with copies := i.copies.erase c }))
      | .restore rk inv _ => .next ((fin s).updInv rk inv (fun i => { i with copies := i.copies.erase c }))
      | .ended rk inv => .next ((fin s).updInv rk inv (fun i => { i with copies := i.copies.erase c }))

/-- Start a copy: it takes an identity, knows nothing yet, and merges with the earliest one in its cluster with the same key, issued within
64 cycles (01: R44). -/
def State.startCopy (s : State) (c : Copy) : State × Nat :=
  let id := Tbl.fresh s.copies s.nextId (s.copies.length + 1)
  let ld := match c.merge with
    | none => none
    | some k => (s.copies.find? (fun p => p.2.merge == some k && p.2.leader.isNone && s.cycle.toNat < p.2.since.toNat + 64)).map (·.1)
  ({ s.newParty (.copy id) with copies := Tbl.put s.copies id { c with leader := ld }, nextId := id + 1 }, id)

/-! ## Issue (10: R241-R243) -/

/-- The fields of a descriptor. -/
structure CpDesc where
  src : Word
  dst : Word
  rows : Nat
  ety : Nat
  flags : Nat
  rowbytes : Nat
  sstride : Int
  dstride : Int
  deriving DecidableEq, Repr

def cpDesc (b : List Byte) : CpDesc :=
  { src := BitVec.ofNat 64 (leAt b 0 8), dst := BitVec.ofNat 64 (leAt b 8 8), rows := leAt b 16 2, ety := leAt b 18 1,
    flags := leAt b 19 1, rowbytes := leAt b 20 4, sstride := sxt (leAt b 24 4) 32, dstride := sxt (leAt b 28 4) 32 }

def CpDesc.fem (x : CpDesc) : Bool := x.flags % 2 == 1
def CpDesc.mcast (x : CpDesc) : Bool := x.flags / 2 % 2 == 1
def isScratch (va : Word) : Bool := spaceOf va == 0xFD || spaceOf va == 0xFE

/-- The descriptor keeps R241. -/
def CpDesc.ok (x : CpDesc) : Bool :=
  1 ≤ x.rows && x.rows ≤ 4096 && elemOk x.ety && x.flags < 4 && 1 ≤ x.rowbytes && x.rowbytes ≤ 65536 &&
    (!x.fem || isScratch x.dst)

def CpDesc.srcRow (x : CpDesc) (j : Nat) : Word := x.src + BitVec.ofInt 64 (j * x.sstride)
def CpDesc.dstRow (x : CpDesc) (j : Nat) : Word := x.dst + BitVec.ofInt 64 (j * x.dstride)

/-- What the issue of a copy comes to, before a slot is taken. -/
inductive CpPlan where
  | fault (c : Cause) (addr : Word) (ak : Nat)
  | refused (log : Option Word)
  | rows (l : List CpRow)
  deriving DecidableEq, Repr

def faultOf (ak : Nat) (r : Res) : Option (Cause × Word × Nat) :=
  match r with
  | .fault c a => some (c, a, ak)
  | _ => none
def partsOf (r : Res) : List Part :=
  match r with
  | .ok p => p
  | _ => []

/-- Space checks first, then the ranges in scratchpad, then the translations, source rows before destination rows (10: R226,
R242). -/
def State.planCopy (s : State) (sid : Nat) (x : CpDesc) : CpPlan :=
  let js := List.range x.rows
  let space (f : Nat → Word) : Option Word := (js.find? (fun j => s.spaceFault sid (f j) x.rowbytes)).map f
  match space x.srcRow, space x.dstRow with
  | some a, _ => .fault cBounds a akCopySrc
  | none, some a => .fault cBounds a akCopyDst
  | none, none =>
    let sr := js.map (fun j => (x.srcRow j, s.resolve sid (x.srcRow j) x.rowbytes .load))
    let dr := js.map (fun j => (x.dstRow j, s.resolve sid (x.dstRow j) x.rowbytes .store))
    match (sr ++ dr).find? (fun p => p.2 == .bad) with
    | some (a, _) => .refused (some a)
    | none =>
      match (sr.filterMap (fun p => faultOf akCopySrc p.2) ++ dr.filterMap (fun p => faultOf akCopyDst p.2)).head? with
      | some (c, a, ak) => .fault c a ak
      | none => .rows ((sr.zip dr).map (fun p => ⟨partsOf p.1.2, partsOf p.2.2, p.1.1, p.2.1, x.rowbytes, false⟩))

def nextGen (g : BitVec 4) : BitVec 4 := if g = 15 then 1 else g + 1

/-- A ticket (10: R243). -/
def ticketOf (slot : Nat) (gen : BitVec 4) (prom : BitVec 56) : Word :=
  BitVec.ofNat 64 (slot * 2 ^ 60 + gen.toNat * 2 ^ 56 + prom.toNat)

/-- The promise and the choice of slot are free values (log 2). -/
def State.freeProm (s : State) (k : Nat) : BitVec 56 := (s.free k).setWidth 56

def StrandCore.freeSlots (c : StrandCore) : List Nat := (List.range 16).filter (fun i => (c.cps.getD i .empty).copy.isNone)

/-- The copy-issuing instructions (10: R242). DESIGN CHOICE (log 70): of the refusals, the range cases whose address is logged are those of a
source or destination row that fails 03: R84 or R85, by the first such row; a descriptor address outside the allocation is not logged. -/
def State.copyIssue (s : State) (d a : BitVec 5) (disp : BitVec 32) (m : Bool) (q : Option Nat) (h : Option Nat) : Out :=
  let s := ((s.spanBreak s.sid).settleLoads s.sid).drain s.sid allKinds
  let va := s.ea a disp
  let refuse (s : State) (log : Option Word) : Out :=
    let s := s.etcInc s.sid
    let s := match log with
      | some x => s.violOf s.sid 1 x
      | none => s
    s.ret d 0
  match s.localRange s.sid va 32 with
  | none => refuse s none
  | some k =>
    if va.toNat % 32 != 0 then refuse s none
    else
      let x := cpDesc (s.rdBytes k 32)
      if !x.ok then refuse s none
      else match s.planCopy s.sid x with
        | .fault c a ak => .next (s.w0Fault c a ak)
        | .refused log => refuse s log
        | .rows l =>
          let free := s.core.freeSlots
          if free.isEmpty then .next (s.block .copySlot)
          else
            let slot := free.getD ((s.free 0).toNat % free.length) 0
            let gen := nextGen (s.core.cps.getD slot .empty).gen
            let prom := s.freeProm 1
            let t := ticketOf slot gen prom
            let key : Option MergeKey := if m || x.mcast then
                some ⟨clusterOf s.myTile, s.me.ptag, x.src, x.rows, x.rowbytes, BitVec.ofInt 64 x.sstride, BitVec.ofNat 8 x.ety,
                  offOf x.dst - s.me.base⟩ else none
            -- its reads come after every prior access of the strand (03: R104)
            let (s, id) := s.startCopy ⟨.strand s.sid slot q h t, s.me.ptag, l, x.fem, s.cycle, key, none⟩
            let s := s.passKnowledge (.strand s.sid) (.copy id)
            (s.updCore (fun c => { c with cps := c.cps.setIfInBounds slot ⟨gen, prom, some id⟩ })).ret d t

def execCpy (d a : BitVec 5) (disp : BitVec 32) (s : State) : Out := s.copyIssue d a disp false none none
def execCpym (d a : BitVec 5) (disp : BitVec 32) (s : State) : Out := s.copyIssue d a disp true none none
def execCpyq (d a : BitVec 5) (disp : BitVec 32) (q : BitVec 3) (s : State) : Out := s.copyIssue d a disp false (some q.toNat) none
def execCpyc (d a : BitVec 5) (disp : BitVec 32) (h : BitVec 4) (s : State) : Out := s.copyIssue d a disp false none (some h.toNat)

/-! ## CPYW (10: R244; 03: R105) -/

/-- The copy that a ticket names is still under way. -/
def StrandCore.ticketLive (c : StrandCore) (t : Word) : Bool :=
  let x := c.cps.getD (bitsOf t 60 4) .empty
  x.copy.isSome && x.gen.toNat == bitsOf t 56 4

/-- Sleep until `w`, then complete or take `PROMISE_MISS` with a new estimate. -/
def State.cpywAt (s : State) (t w : Word) : Out :=
  if bitsOf s.cycle 0 56 < w.toNat then .next (s.block (.ticket t w))
  else if !s.core.ticketLive t then done (s.acquire s.sid 1)
  else
    let est := s.freeProm 0
    let slot := bitsOf t 60 4
    let s := s.updCore (fun c => { c with cps := c.cps.setIfInBounds slot { c.cps.getD slot .empty with prom := est } })
    .next (s.trap cPromiseMiss (setBits t 0 56 est.toNat))

def execCpyw (n : BitVec 5) (s : State) : Out :=
  match s.seq.wait with
  | some (.ticket t w) => s.cpywAt t w
  | _ =>
    let t := s.g n
    if bitsOf t 56 4 == 0 then done s
    else if !s.core.ticketLive t then done (s.acquire s.sid 1)
    else s.cpywAt t (BitVec.ofNat 64 (max (bitsOf t 0 56) (s.core.cps.getD (bitsOf t 60 4) .empty).prom.toNat))

/-- `CPYW_WAKE`: CYCLE has reached the promise. -/
def execCpywWake (who : Agent) (s : State) : Out :=
  match s.waitOf who with
  | some (.ticket t w) => if w.toNat ≤ bitsOf s.cycle 0 56 && s.runs who.sid then { s with cur := who }.cpywAt t w else .next s
  | _ => .next s

end Sys2Proof.Machine
end

