-- ==== Sys2Proof/Machine/Wires.lean ====
section
/-! DEFINITION. Wires.lean: what travels between dies and between modules: routes, ports, send allowances, and flits with their numbers,
acknowledgements and relays (19: R390-R392, R396, R398). -/

namespace Sys2Proof.Machine

def State.link (s : State) (k : Nat) : Link := Tbl.get s.links k .empty
def State.updLink (s : State) (k : Nat) (f : Link → Link) : State := { s with links := Tbl.put s.links k (f (s.link k)) }

/-- A message leaves the module. -/
def State.emit (s : State) (m : OutMsg) : State := { s with outbox := s.outbox ++ [m] }

/-! ## Routes and ports (19: R396, R398) -/

def rtepochAddr : Nat := 0xFFF3000001000

/-- The route entry of a package. -/
def State.route (s : State) (pkg : Nat) : BitVec 32 := BitVec.ofNat 32 (s.rd (routeBase + 4 * (pkg % 1024)) 4)
def routeValid (e : BitVec 32) : Bool := e.getLsbD 31
def routePorts (e : BitVec 32) : List Nat := (List.range 12).filter (fun i => e.getLsbD i)

/-- The port that carries a source's packets to a package, when its entry is valid; 12, no port, when the entry names none. -/
def State.portFor (s : State) (src pkg : Nat) : Option Nat :=
  let e := s.route pkg
  if routeValid e then
    let ps := routePorts e
    let h := bitsOf (h64 (BitVec.ofNat 64 src) (BitVec.ofNat 64 pkg) 0 0) 32 32
    some (ps.getD (h % max 1 ps.length) 12)
  else none

/-- LSTATE 1, the send allowance, and credit of the far end, which waits in LOCKED without one (19: R398; 21: R430). -/
def State.portOpen (s : State) (k : Nat) : Bool := k < 12 && (s.link k).st == 1 && (s.link k).credit

/-- A message leaves through a port: its flit is kept for a resend until it is acknowledged (19: R394). -/
def State.sendPort (s : State) (k : Nat) (m : OutMsg) : State :=
  (s.updLink k (fun l => { l with unacked := l.unacked ++ [⟨l.txNext, s.cycle, s.cycle, l.key, false, m⟩], txNext := l.txNext + 1 })).emit m

/-- A packet of source number `src` for another package: through its port, or held for it behind the packets that wait there; none when
the entry is invalid. -/
def State.sendPkt (s : State) (src : Nat) (m : OutMsg) : Option State :=
  (s.portFor src m.pkg).map (fun p =>
    if s.portOpen p && !(s.heldPkts.any (fun h => h.port == p)) then s.sendPort p m
    else { s with heldPkts := s.heldPkts ++ [⟨p, src, s.cycle, m⟩] })

/-- One whose refusal, when the entry is invalid, tells nobody: a truss message, whose chunk is then redone in time (06: R168), an answer, an
announcement (log 72). -/
def State.trySend (s : State) (src : Nat) (m : OutMsg) : State := (s.sendPkt src m).getD s

/-- Dropped truss packets count for their pitch (06: R162). -/
def State.trussDrop (s : State) (p : BitVec 12) : State := s.updPitch p.toNat (fun x => { x with ptrdrop := ctrAdd x.ptrdrop 1 })

/-- A truss message that has waited for 2^20 cycles (06: R162). -/
def State.heldOld (s : State) (h : HeldPkt) : Bool := h.msg.kind == 7 && h.since.toNat + 2 ^ 20 ≤ s.cycle.toNat

/-- It is dropped. -/
def State.dropHeldLate (s : State) : State :=
  (s.heldPkts.filter s.heldOld).foldl (fun s h => s.trussDrop h.msg.ptag) { s with heldPkts := s.heldPkts.filter (fun h => !s.heldOld h) }

/-- The packets held for a port are routed again by the table as it stands; those with no valid entry go (19: R398). -/
def State.rerouteHeld (s : State) (port : Nat) : State :=
  let s := s.dropHeldLate
  (s.heldPkts.filter (fun h => h.port == port)).foldl (fun s h =>
    match s.portFor h.src h.msg.pkg with
    | none => s
    | some p => if s.portOpen p then s.sendPort p h.msg else { s with heldPkts := s.heldPkts ++ [{ h with port := p }] })
    { s with heldPkts := s.heldPkts.filter (fun h => h.port != port) }

/-! ## Between dies (19: R389-R392) -/

/-- The dies of a pair. -/
def pairDies (p : Nat) : Nat × Nat := [(0, 1), (0, 2), (0, 3), (1, 2), (1, 3), (2, 3)].getD p (0, 0)
def pairOf (a b : Nat) : Nat := ((List.range 6).find? (fun p => pairDies p == (min a b, max a b))).getD 6
/-- The viaducts of a pair. -/
def pairLinks (p : Nat) : List Nat := (List.range 6).map (fun v => 32 + 6 * p + v)
/-- Those that are ACTIVE. -/
def State.upLinks (s : State) (p : Nat) : List Nat := (pairLinks p).filter (fun k => (s.link k).st == 1)
def State.pairUp (s : State) (a b : Nat) : Bool := !(s.upLinks (pairOf a b)).isEmpty
/-- The third die that relays for two: the lowest one with an ACTIVE viaduct to each. -/
def State.relayDie (s : State) (a b : Nat) : Option Nat := (List.range 4).find? (fun c => c != a && c != b && s.pairUp a c && s.pairUp c b)
/-- Two dies reach each other, directly or through a third die. -/
def State.reach (s : State) (a b : Nat) : Bool := a == b || s.pairUp a b || (s.relayDie a b).isSome

/-- A viaduct is down, and a die does not reach the one at which a port stands: what it sends there ends as if the peer did not answer
(19: R392; log 40). -/
def State.portCut (s : State) (die port : Nat) : Bool :=
  s.links.any (fun p => 32 ≤ p.1 && p.1 < 68 && p.2.st == 7) && !s.reach die (Config.portDie port % 4)

/-- The link whose numbers a direction of a pair uses. -/
def orderLink (p : Nat) (back : Bool) : Nat := 32 + 6 * p + (if back then 1 else 0)

/-- A way that leads nowhere: its flit is lost (19: R392). -/
def noWay : Nat × Nat := (255, 0)

/-- A message sets out from die `a` for die `b` as a flit over an ACTIVE viaduct, which of them is a free choice, or towards the relay. -/
def State.cross (s : State) (a b : Nat) (m : OutMsg) : State × Option (Nat × Nat) :=
  if a == b then (s, none)
  else match if s.pairUp a b then some b else s.relayDie a b with
    | none => (s, some noWay)
    | some c =>
      let p := pairOf a c
      let up := s.upLinks p
      let k := up.getD ((s.free (2 ^ 50 + p)).toNat % max 1 up.length) (32 + 6 * p)
      let o := orderLink p (c < a)
      let n := (s.link o).txNext
      let s := s.updLink o (fun l => { l with txNext := l.txNext + 1 })
      (s.updLink k (fun l => { l with unacked := l.unacked ++ [⟨n, s.cycle, s.cycle, 0, c < a, m⟩] }), some (o, n))

/-- The die at which a direction of a pair ends. -/
def orderEnd (o : Nat) : Nat := let d := pairDies ((o - 32) / 6); if (o - 32) % 6 == 0 then d.2 else d.1

/-- What a decrement, a seal or a truss packet is as the load of a flit. -/
def DMsg.load (x : DMsg) : OutMsg := ⟨4, 0, x.ptag, [x.tref, BitVec.ofNat 64 x.amt, if x.isSeal then 1 else 0]⟩
def TPkt.load (x : TPkt) : OutMsg := ⟨7, 0, x.ptag, [BitVec.ofNat 64 x.gid, BitVec.ofNat 64 x.chunk]⟩
/-- The die of a node or leaf; the module root is on die 0 (06: R158). -/
def nodeDie (n : Nat) : Nat := if 2000 ≤ n then 0 else if 1000 ≤ n then (n - 1000) / 256 else if n == 84 then 0 else n / 21
/-- The die that a decrement or a seal is for. -/
def DMsg.dest (x : DMsg) : Nat := bitsOf x.tref 52 2

/-- A decrement or a seal sets out. One for another module leaves from the die where it is. -/
def State.addMsg (s : State) (x : DMsg) : State :=
  let (s, v) := s.cross x.die (if trefPkg x.tref == s.pkg.toNat then x.dest else x.die) x.load
  { s with msgs := s.msgs ++ [{ x with via := v }] }

/-- A truss packet sets out. -/
def State.putPkt (s : State) (p : TPkt) : State :=
  let id := Tbl.fresh s.packets s.nextId (s.packets.length + 1)
  let (s, v) := s.cross p.die (nodeDie p.node) p.load
  { s with packets := Tbl.put s.packets id { p with via := v }, nextId := id + 1 }

/-- Flit `n` of a direction is delivered: what it carries is at the next die, and goes on from there if that is only the relay. -/
def State.delivered (s : State) (o n : Nat) : State :=
  let d := orderEnd o
  let s := (s.msgs.zipIdx).foldl (fun (s : State) (x : DMsg × Nat) =>
    if x.1.via == some (o, n) then
      let (s, v) := s.cross d x.1.dest x.1.load
      { s with msgs := s.msgs.set x.2 { x.1 with die := d, via := v } }
    else s) s
  s.packets.foldl (fun (s : State) (x : Nat × TPkt) =>
    if x.2.via == some (o, n) then
      let (s, v) := s.cross d (nodeDie x.2.node) x.2.load
      { s with packets := Tbl.put s.packets x.1 { x.2 with die := d, via := v } }
    else s) s

/-- The flits of an order link that are next in their turn, delivered. -/
def State.deliverFlits (s : State) (o : Nat) : Nat → State
  | 0 => s
  | k + 1 =>
    let l := s.link o
    if l.early.contains l.rxNext then
      let n := l.rxNext
      ((s.updLink o (fun l => { l with early := l.early.filter (· != n), rxNext := n + 1 })).delivered o n).deliverFlits o k
    else s

/-- A flit arrives at the end of a direction: a duplicate is discarded, one ahead of its turn waits (19: R390). -/
def State.receiveFlit (s : State) (o n : Nat) : State :=
  let l := s.link o
  if n < l.rxNext || l.early.contains n then s
  else (s.updLink o (fun l => { l with early := insertNat n l.early })).deliverFlits o (l.early.length + 1)

/-- The messages that flits carried and that were not delivered go over the relay, or, without one, nowhere (19: R392). -/
def State.relayLost (s : State) (fl : List (Nat × Nat)) : State :=
  let s := (s.msgs.zipIdx).foldl (fun (s : State) (x : DMsg × Nat) =>
    if x.1.via.any fl.contains then
      let (s, v) := s.cross x.1.die x.1.dest x.1.load
      { s with msgs := s.msgs.set x.2 { x.1 with via := v } }
    else s) s
  s.packets.foldl (fun (s : State) (x : Nat × TPkt) =>
    if x.2.via.any fl.contains then
      let (s, v) := s.cross x.2.die (nodeDie x.2.node) x.2.load
      { s with packets := Tbl.put s.packets x.1 { x.2 with via := v } }
    else s) s

end Sys2Proof.Machine
end

