-- ==== Sys2Proof/Machine/Pod.lean ====
section
/-! DEFINITION. Pod.lean: pod memory, routes, fences and drains (06: R170-R172; 10: R240; 13: R319-R321; 19: R396, R397). -/

namespace Sys2Proof.Machine

/-- The request of an access leaves. -/
def State.podSend (s : State) (a : PodAcc) (port : Nat) : State :=
  s.sendPort port ⟨a.kind.toNat, a.pkg.toNat, (s.recOf a.rk).ptag,
    [a.addr, BitVec.ofNat 64 a.n, a.val, a.cmp, a.aop.setWidth 64, (Tbl.get s.peers a.pkg.toNat 0).setWidth 64]⟩

/-- A port takes the packets of a tile's accesses: it is open, and the tile's die reaches it. -/
def State.podWay (s : State) (src port : Nat) : Bool := s.portOpen port && !s.portCut (src / 256) port

/-! ## The strand of an access -/

/-- The live strand of a record's invocation and camp tile. -/
def State.strandAt (s : State) (rk inv ct : Nat) : Option Nat :=
  (s.strands.find? (fun p => p.1 < 4096 && p.2.live && p.2.rk == rk && p.2.inv == inv && p.2.ctile == ct)).map (·.1)

/-- The strand that takes the outcome of an access, if it stands in a slot: one that was stopped takes none (06: R172, 20: R406). -/
def State.podStrand (s : State) (a : PodAcc) : Option Nat := if a.dead then none else s.strandAt a.rk a.inv a.ctile

/-- Nobody takes the outcome of these accesses any more: their strands have been stopped. -/
def State.deadAccs (s : State) (f : PodAcc → Bool) : State :=
  { s with podOut := s.podOut.map (fun p => if f p.2 then (p.1, { p.2 with dead := true }) else p) }

/-- An error of a PST, held for its strand with the first failing address (06: R172). -/
def State.holdPst (s : State) (sid : Nat) (reset : Bool) (addr : Word) : State :=
  s.updCoreOf sid (fun c => if reset then { c with heldRst := c.heldRst.or (some addr) } else { c with heldUnr := c.heldUnr.or (some addr) })

/-- The held error that is taken first. -/
def StrandCore.held (c : StrandCore) : Option (Cause × Word) :=
  match c.heldRst, c.heldUnr with
  | some a, _ => some (cPeerReset, a)
  | none, some a => some (cPeerUnreachable, a)
  | none, none => none

/-- Take it as a trap: the instruction is not executed (06: R172). DESIGN CHOICE (log 71): with both errors held, R172 says that PEER_RESET
is taken, and not what becomes of the other; the model keeps PEER_UNREACHABLE held for the next such instruction. -/
def State.takeHeld (s : State) (c : Cause) (a : Word) : State :=
  (s.updCore (fun k => if c == cPeerReset then { k with heldRst := none } else { k with heldUnr := none })).trap c a

/-! ## The operation of an atomic (10: R237) -/

/-- `Op(old, x, y)` of width `w` bits; `none` is Keep. Operations are numbered from `AADD` in opcode order. -/
def atomicOp (op w old x y : Nat) : Option Nat :=
  match op with
  | 0 => some ((old + x) % 2 ^ w)
  | 1 => some (if sxt x w < sxt old w then x else old)
  | 2 => some (if sxt old w < sxt x w then x else old)
  | 3 => some (min old x)
  | 4 => some (max old x)
  | 5 => some (old &&& x)
  | 6 => some (old ||| x)
  | 7 => some (old ^^^ x)
  | 8 => some x
  | 9 => if old == y then some x else none
  | 10 => some (if x ≤ old then 0 else old + 1)
  | _ => some (fmtF32.add old x)

def State.valOf (s : State) (ks : List Nat) : Nat := natOfBytes (ks.map s.byte)

/-- A write of one unit by a strand, or, by `none`, by an agent outside the module. -/
def State.putBy (s : State) (who : Option Who) (loose : Bool) (c : List (Nat × Byte)) : State :=
  match who with
  | some p => s.putUnit p loose c
  | none => (s.settleKeys (c.map (·.1))).putCells c

/-- Read and write a location indivisibly at its home; the old value (03: R92). It finds the newest write there, and its own is performed at
once. -/
def State.atomicAt (s : State) (ks : List Nat) (op x y : Nat) : Nat × State :=
  let s := s.settleKeys ks
  let old := s.valOf ks
  match atomicOp op (8 * ks.length) old x y with
  | some v => (old, s.putCells (ks.zip (bytesLE v ks.length)))
  | none => (old, s)

/-! ## Issue (13: R319, R320) -/

/-- An access that its target performs on the translated parts, at the home slice. -/
def State.podPerform (s : State) (who : Option Who) (kind : Nat) (ps : List Part) (op n x y : Nat) : Nat × State :=
  let s := s.touch (kind != 0) ps
  let ks := keysOf ps
  let loose := ps.any (·.ord == .loose)
  match kind with
  | 0 =>
    let (c, s) := s.ghosts (who.toList.map (·.party)) loose ks
    (natOfBytes (ks.map (fun k => (cellOf c k).getD (s.byte k))), s)
  | 1 => (0, (s.unpoison ps).putBy who loose (ks.zip (bytesLE x n)))
  | _ => s.atomicAt ks op x y

def podNeed (kind : Nat) : Need := match kind with
  | 0 => .load
  | 1 => .store
  | _ => .atomic

/-- Translate a target range in a pitch: the parts, or the kind of the violation. -/
def State.podTarget (s : State) (die p : Nat) (kind : Nat) (addr : Word) (n : Nat) : Except Nat (List Part) :=
  if 0x100000000000000 < addr.toNat + n then .error 2
  else match s.globalParts die p (podNeed kind) addr.toNat n 2 with
    | .error _ => .error 2
    | .ok ps => match s.partsRefusal (kind == 1) ps with
      | some vk => .error vk
      | none => .ok ps

/-- The result of a completed load or atomic: its register, its acquire, the next instruction. -/
def State.podDone (s : State) (a : Agent) (d : BitVec 5) (v : Word) (acq : Option Nat) : State :=
  let s := s.updSeqOf a (fun q => (q.gPut d v).adv)
  match acq with
  | some scope => s.acquire a.sid scope
  | none => s

/-- An access to the issuing module itself (06: R170). It bypasses the scalar read buffer, whose copy of the line goes (03: R90, R99). -/
def State.podLocal (s : State) (kind : Nat) (addr : Word) (n : Nat) (d : BitVec 5) (x y op : Nat) (acq : Option Nat) : Out :=
  let t := s.me
  match s.podTarget (sidDie s.sid) t.ptag.toNat kind addr n with
  | .error vk =>
    let s := s.errorResponse s.sid vk addr
    if kind == 1 then done s else s.ret d 0
  | .ok ps =>
    let ks := keysOf ps
    if ps.any isStrictPart && s.pstPending s.sid then .next (s.block .fence)
    else
      let s := s.inOrder s.sid ks
      let s := s.drain s.sid (fun p => p.cells.any (fun c => ks.contains c.1) || (p.ord == .strict && ps.any (·.ord == .strict)))
      let (old, s) := s.podPerform (some (s.whoOf s.sid)) kind ps op n x y
      let s := (ps.flatMap Part.lines).foldl (fun s l => s.dropSrbLine s.myTile l) s
      if kind == 1 then done s else .next (s.podDone s.cur d (BitVec.ofNat 64 old) acq)

/-- `PLD`, `PST` and `PATOM` (13: R320). A load or atomic whose strand is blocked on its reply stays blocked. -/
def State.podAccess (s : State) (kind : BitVec 2) (d b a : BitVec 5) (disp : BitVec 24) (n : Nat) (x y : Word) (op : BitVec 4)
    (rel acq : Option Nat) : Out :=
  let addr := s.ea a disp
  let pkg := s.g b
  if spaceOf addr != 0 || bitsOf pkg 10 54 != 0 then .next (s.w0Fault cBounds addr (if kind == 0 then akLoad else if kind == 1 then akStore else akAtomic))
  else if addr.toNat % n != 0 then .next (s.trap cAlign addr)
  else match s.seq.wait with
    | some (.podReply id) => .next (s.block (.podReply id))
    | _ =>
      let issue (s : State) : Out :=
        let p := bitsOf pkg 0 10
        if p == s.pkg.toNat then s.podLocal kind.toNat addr n d (x.toNat % 2 ^ (8 * n)) (y.toNat % 2 ^ (8 * n)) op.toNat acq
        else
          -- whether the page is STRICT the target knows: earlier STRICT stores are performed first (03: R95)
          let s := s.drain s.sid isStrict
          match s.portFor s.myTile p with
          | none =>
            if kind == 1 then done (s.holdPst s.sid false addr) else .next (s.trap cPeerUnreachable addr)
          | some port =>
            let t := s.me
            let id := Tbl.fresh s.podOut s.nextId (s.podOut.length + 1)
            let acc : PodAcc := ⟨t.rk, t.inv, t.ctile, kind, BitVec.ofNat 10 p, addr, n, d, x, y, op, acq, s.cycle, s.myTile,
              if s.podWay s.myTile port then none else some port, false, 0⟩
            let s := { s with podOut := Tbl.put s.podOut id acc, nextId := id + 1 }
            let s := if s.podWay s.myTile port then s.podSend acc port else s
            if kind == 1 then done s else .next (s.block (.podReply id))
      let s := s.spanBreak s.sid
      match rel with
      | some scope => s.releaseThen scope issue
      | none => issue s

def podSize (sz : BitVec 2) : Nat := 8 / 2 ^ sz.toNat

def execPld (d b a : BitVec 5) (sz : BitVec 2) (disp : BitVec 24) (s : State) : Out :=
  s.podAccess 0 d b a disp (podSize sz) 0 0 0 none none
def execPst (b a c : BitVec 5) (sz : BitVec 2) (disp : BitVec 24) (s : State) : Out :=
  s.podAccess 1 0 b a disp (podSize sz) (s.g c) 0 0 none none
def execPatom (d : BitVec 5) (w : BitVec 1) (b a c e : BitVec 5) (aop : BitVec 4) (ord : BitVec 2) (scope : BitVec 3)
    (disp : BitVec 24) (s : State) : Out :=
  s.podAccess 2 d b a disp (if w == 0 then 4 else 8) (s.g c) (s.g e) aop
    (if ord.getLsbD 1 then some scope.toNat else none) (if ord.getLsbD 0 then some scope.toNat else none)

/-! ## Replies (06: R171, R172) -/

def State.dropPod (s : State) (id : Nat) : State := { s with podOut := Tbl.del s.podOut id }

/-- A PST whose strand is saved keeps its outcome until the strand is back; of a strand that is gone for good there is none (log 13). -/
def State.podWaits (s : State) (a : PodAcc) : Bool := a.kind == 1 && !a.dead && !s.strandOver (a.rk, a.inv, a.ctile)

/-- The access is over while its strand has no slot. -/
def State.podKeep (s : State) (id : Nat) (a : PodAcc) (res : Nat) : State :=
  if s.podWaits a && res != 0 then
    if a.ended == 0 then { s with podOut := Tbl.put s.podOut id { a with ended := res, port := none } } else s
  else s.dropPod id

/-- An access ends with an error of its strand: a trap of the waiting instruction, or a held one. -/
def State.podFail (s : State) (id : Nat) (a : PodAcc) (reset : Bool) : State :=
  match s.podStrand a with
  | none => s.podKeep id a (if reset then 2 else 3)
  | some sid =>
    let s := s.dropPod id
    if a.kind == 1 then s.holdPst sid reset a.addr
    else if s.waitOf ⟨sid, false⟩ == some (.podReply id) then
      let cur := s.cur
      { ({ s with cur := ⟨sid, false⟩ }.trap (if reset then cPeerReset else cPeerUnreachable) a.addr) with cur := cur }
    else s

/-- The oldest flit of a port is acknowledged by a reply that comes back through it. -/
def State.ackFlit (s : State) (port : Nat) : State := s.updLink port (fun l => { l with unacked := l.unacked.drop 1 })

/-- `POD_REPLY` (06: R171, R172): dropped unless it bears the incarnation recorded for the peer. -/
def execPodReply (id : Nat) (inc : BitVec 8) (ans : PodAnswer) (s : State) : Out :=
  match Tbl.find s.podOut id with
  | none => .next s
  | some a =>
    if a.port.isSome || a.ended != 0 || (s.portFor a.src a.pkg.toNat).any (s.portCut (a.src / 256)) then .next s
    else if ans == .unreachable then .next (s.podFail id a false)
    else if inc != Tbl.get s.peers a.pkg.toNat 0 then .next s
    else
      let s := match s.portFor a.src a.pkg.toNat with
        | some port => s.ackFlit port
        | none => s
      match s.podStrand a with
      | none => .next (s.podKeep id a (if ans == .error then 1 else 0))
      | some sid =>
        let s := s.dropPod id
        let v : Word := match ans with
          | .value v => BitVec.ofNat 64 (v.toNat % 2 ^ (8 * a.n))
          | _ => 0
        let s := if ans == .error then s.etcInc sid else s
        if a.kind == 1 then .next s
        else if s.waitOf ⟨sid, false⟩ == some (.podReply id) then .next (s.podDone ⟨sid, false⟩ a.d v a.acq)
        else .next s

/-- `POD_REPLY_TIMEOUT` (06: R172). -/
def execPodReplyTimeout (id : Nat) (s : State) : Out :=
  match Tbl.find s.podOut id with
  | none => .next s
  | some a => .next (if s.cycle.toNat < a.since.toNat + 2 ^ 20 || a.ended != 0 then s else s.podFail id a false)

/-- A new incarnation of a peer is learned: every access outstanding to it ends with PEER_RESET (06: R171). -/
def State.learnInc (s : State) (pkg : Nat) (inc : BitVec 8) : State :=
  if Tbl.get s.peers pkg 0 == inc then s
  else
    let s := { s with peers := Tbl.put s.peers pkg inc }
    (s.podOut.filter (fun p => p.2.pkg.toNat == pkg && p.2.ended == 0)).foldl (fun s p => s.podFail p.1 p.2 true) s

/-- A strand that is back receives the outcomes of its PSTs, oldest first. -/
def State.podBack (s : State) (sid : Nat) : State :=
  let t := s.strand sid
  (s.podOut.filter (fun p => p.2.ended != 0 && p.2.of t)).foldl (fun s p =>
    let s := s.dropPod p.1
    if p.2.ended == 1 then s.etcInc sid else s.holdPst sid (p.2.ended == 2) p.2.addr) s

def execIncarnationAnnouncement (pkg : BitVec 10) (inc : BitVec 8) (s : State) : Out := .next (s.learnInc pkg.toNat inc)

/-- What is held for a port is routed again by the table as it stands: accesses with no valid entry get the response for unreachable
peers (19: R398). -/
def State.reroute (s : State) (port : Nat) : State :=
  let s := s.rerouteHeld port
  (s.podOut.filter (fun p => p.2.port == some port)).foldl (fun s p =>
    match s.portFor p.2.src p.2.pkg.toNat with
    | none => s.podFail p.1 p.2 false
    | some q =>
      if s.podWay p.2.src q then ({ s with podOut := Tbl.put s.podOut p.1 { p.2 with port := none } }).podSend p.2 q
      else { s with podOut := Tbl.put s.podOut p.1 { p.2 with port := some q } }) s

/-- What waits for an open port, and has a way to it, leaves through it. -/
def State.portFlow (s : State) (port : Nat) : State :=
  if !s.portOpen port then s
  else
    let s := s.dropHeldLate
    let s := (s.heldPkts.filter (fun h => h.port == port)).foldl (fun s h => s.sendPort port h.msg)
      { s with heldPkts := s.heldPkts.filter (fun h => h.port != port) }
    (s.podOut.filter (fun p => p.2.port == some port)).foldl (fun s p =>
      if s.podWay p.2.src port then ({ s with podOut := Tbl.put s.podOut p.1 { p.2 with port := none } }).podSend p.2 port else s) s

/-! ## A request from another module (06: R170-R172; 03: R103) -/

/-- A reply to a package; it bears the source number of its request (DEDUCED, log 26). -/
def State.reply (s : State) (src : BitVec 10) (srcNo : Nat) (ptag : BitVec 12) (st v : Nat) : State :=
  s.trySend srcNo ⟨3, src.toNat, ptag, [BitVec.ofNat 64 st, BitVec.ofNat 64 v, s.incarnation.setWidth 64]⟩

/-- The pod access of another module: dropped on a wrong incarnation, refused without a join, otherwise performed. The reply leaves. -/
def State.podServe (s : State) (src : BitVec 10) (srcNo : Nat) (pitch : BitVec 12) (inc : BitVec 8) (kind : Nat) (addr : Word) (n : Nat)
    (x y : Word) (op : Nat) : State :=
  if inc != s.incarnation then s
  else match s.joins.find? (fun j => j.pkg == src && j.pitch == pitch) with
    | none => s.reply src srcNo pitch 1 0
    | some j =>
      if s.pstate j.ptag.toNat != 1 then s.reply src srcNo j.ptag 1 0
      else match s.podTarget 0 j.ptag.toNat kind addr n with
        | .error vk => (s.violLog 0 j.ptag.toNat vk 0xFFFF addr 0).reply src srcNo j.ptag 1 0
        | .ok ps =>
          let (old, s) := s.podPerform none kind ps op n (x.toNat % 2 ^ (8 * n)) (y.toNat % 2 ^ (8 * n))
          s.reply src srcNo j.ptag 0 old

/-- A packet for another package goes on by this module's table; with no valid entry its sender gets the response for unreachable peers
(19: R396). -/
def State.forwardPkt (s : State) (src target : BitVec 10) (srcNo kind : Nat) (ptag : BitVec 12) (data : List Word) : State :=
  match s.sendPkt srcNo ⟨kind, target.toNat, ptag, data⟩ with
  | some s => s
  | none => s.reply src srcNo ptag 2 0

/-! ## Fences and drains (10: R240, 03: R102; 13: R321) -/

/-- What a fence of kind `k` at `scope` performs; held stores first for REL and FULL (20: R410). -/
def State.fenceDrain (s : State) (k scope : Nat) : State :=
  if k == 0 then s.acquire s.sid scope
  else
    let s := s.spanBreak s.sid
    if k == 2 && 3 ≤ scope then (s.releaseAll s.sid scope).acquireAs s.sid scope true
    else
      let s := s.release s.sid scope
      if k == 2 then s.acquire s.sid scope else s

/-- The wait of a `FULL` or `REL` fence at `POD`, and the held error it takes. -/
def State.podFence (s : State) (k : State → Out) : Out :=
  if s.pstPending s.sid then .next (s.block .fence)
  else match s.core.held with
    | some (c, a) => .next (s.takeHeld c a)
    | none => k s

def execFence (kind : BitVec 2) (scope : BitVec 3) (s : State) : Out :=
  let s := s.fenceDrain kind.toNat scope.toNat
  if kind != 0 && scope == 5 then s.podFence done else done s

/-- Ports that a mask names. -/
def maskPorts (m : Nat) : List Nat := (List.range 12).filter (fun i => m.testBit i)

def State.drainLeft (s : State) (m : Nat) : List Nat := (maskPorts m).filter (fun p => !(s.link p).drained)

/-- A drain marker is appended to a port (19: R398); the port leaves ACTIVE (21: R427). -/
def State.startDrain (s : State) (p : Nat) : State :=
  let ep := BitVec.ofNat 32 (s.rd rtepochAddr 4)
  (s.updLink p (fun l => { l with st := 2, drained := false, epoch := ep })).sendPort p ⟨5, (s.link p).pkg.toNat, 0, [BitVec.ofNat 64 p]⟩

def execDrain (d a : BitVec 5) (s : State) : Out :=
  let m := s.g a
  match s.seq.wait with
  | some (.drain dl) => if (s.drainLeft m.toNat).isEmpty then s.ret d 0 else .next (s.block (.drain dl))
  | _ =>
    (s.fenceDrain 2 5).podFence (fun s =>
      if bitsOf m 0 12 == 0 || bitsOf m 12 52 != 0 || !(s.pitch s.me.ptag.toNat).pctl.getLsbD 10 then s.ret d 1
      else if (maskPorts m.toNat).any (fun p => (s.link p).st != 1) then s.ret d 2
      else
        let s := (maskPorts m.toNat).foldl (fun s p => s.startDrain p) s
        .next (s.block (.drain (s.cycle + 0x100000))))

/-- The register operands of a blocked `DRAIN`. -/
def Seq.drainOps (q : Seq) : Option (BitVec 5 × Word) :=
  match (q.block[q.idx]?).bind (fun i => decode? i.raw) with
  | some (.drain d a) => some (d, q.gGet a)
  | _ => none

/-- `DRAIN_TIMEOUT` (13: R321): status 3 and the ports that did not answer. -/
def execDrainTimeout (who : Agent) (s : State) : Out :=
  let q := (s.strand who.sid).core.seq who.e
  match q.wait, q.drainOps with
  | some (.drain dl), some (d, m) =>
    let left := s.drainLeft m.toNat
    if s.cycle.toNat < dl.toNat || left.isEmpty || !s.runs who.sid then .next s
    else .next (s.updSeqOf who (fun q => (q.gPut d (BitVec.ofNat 64 (3 + (left.map (fun p => 2 ^ (12 + p))).sum))).adv))
  | _, _ => .next s

end Sys2Proof.Machine
end

