-- ==== Sys2Proof/Machine/Tasks.lean ====
section
/-! DEFINITION. Tasks.lean: task references, instances, decrements, seals, successors and the task instructions but `TRET`
(01: R13-R38, R432; 13: R325-R331). -/

namespace Sys2Proof.Machine

/-! ## Records as memory (01: R21, R28) -/

def rstateCode (s : RState) : Nat :=
  match s with
  | .free => 0
  | .building => 1
  | .waiting => 2
  | .staging => 3
  | .ready => 4
  | .running => 5
  | .draining => 6
  | .retired => 7
  | .parked => 8
  | .failed => 9
  | .partialRet => 10

def b01 (b : Bool) : Nat := if b then 1 else 0

/-- 64-bit word `w` of a record. -/
def Rec.word (r : Rec) (w : Nat) : Nat :=
  match w with
  | 0 => r.ptag.toNat * 2 ^ 16 + r.fmt.toNat * 2 ^ 14 + b01 r.streamlink * 2 ^ 13 + b01 r.rollback * 2 ^ 12 +
      b01 r.idem * 2 ^ 11 + r.prio.toNat * 2 ^ 8 + r.kind.toNat * 16 + rstateCode r.st + r.count.toNat * 2 ^ 32
  | 1 => b01 r.live * 2 ^ 31 + r.init.toNat + r.fan.toNat * 2 ^ 32
  | 2 => r.spad.toNat * 2 ^ 16 + r.diemask.toNat * 2 ^ 10 + r.tkind.toNat * 2 ^ 8 + r.h.toNat * 16 + r.w.toNat +
      r.inst.toNat * 2 ^ 32
  | 3 => r.entryA.toNat
  | 4 => r.entryE.toNat
  | 5 => r.params.toNat
  | 6 => r.succ.toNat
  | 7 => r.nchan.toNat * 2 ^ 32 + r.nops.toNat * 2 ^ 24 + r.scope.toNat * 2 ^ 16 + r.nsucc.toNat
  | 8 => r.ops.toNat
  | 9 => r.chans.toNat
  | 10 => r.recs.toNat
  | 11 => r.donemap.toNat
  | 12 => r.save.toNat
  | 13 => r.retired.toNat * 2 ^ 32 + r.reccount.toNat
  | 14 => r.tstart.toNat
  | _ => r.slot.toNat * 2 ^ 16 + r.tid.toNat

/-- The record that 128 bytes describe (01: R21); the state is not read from them. -/
def recOfBytes (b : List Byte) : Rec :=
  let w (o : Nat) : Nat := leAt b o 4
  let d (o : Nat) : Word := BitVec.ofNat 64 (leAt b o 8)
  let f (o lo n : Nat) : Nat := w o / 2 ^ lo % 2 ^ n
  { Rec.empty with
    ptag := BitVec.ofNat 12 (f 0 16 12), fmt := BitVec.ofNat 2 (f 0 14 2), streamlink := f 0 13 1 == 1, rollback := f 0 12 1 == 1,
    idem := f 0 11 1 == 1, prio := BitVec.ofNat 3 (f 0 8 3), kind := BitVec.ofNat 4 (f 0 4 4), init := BitVec.ofNat 24 (f 8 0 24),
    fan := BitVec.ofNat 32 (w 0xC), spad := BitVec.ofNat 8 (f 0x10 16 8), diemask := BitVec.ofNat 4 (f 0x10 10 4),
    tkind := BitVec.ofNat 2 (f 0x10 8 2), h := BitVec.ofNat 4 (f 0x10 4 4), w := BitVec.ofNat 4 (f 0x10 0 4),
    entryA := d 0x18, entryE := d 0x20, params := d 0x28, succ := d 0x30, nchan := BitVec.ofNat 8 (leAt b 0x3C 1),
    nops := BitVec.ofNat 8 (leAt b 0x3B 1), scope := BitVec.ofNat 8 (leAt b 0x3A 1), nsucc := BitVec.ofNat 16 (leAt b 0x38 2),
    ops := d 0x40, chans := d 0x48, recs := d 0x50, donemap := d 0x58, save := d 0x60, slot := BitVec.ofNat 16 (leAt b 0x7A 2),
    tid := BitVec.ofNat 16 (leAt b 0x78 2) }

/-- A record enters a state. -/
def State.setRec (s : State) (rk : Nat) (st : RState) : State := s.updRec rk (fun r => { r with st := st, since := s.cycle })

/-- An event of a record in its pitch's event log; `TILE` 0xFFFF. -/
def State.recEvent (s : State) (rk code : Nat) (d0 d1 : Word) : State :=
  s.evLog (recDie rk) (s.recOf rk).ptag.toNat code 0xFFFF (s.trefOf rk) d0 d1

/-! ## Instances (01: R14, R15) -/

def instKey (die e : Nat) : Nat := die * 8192 + e

/-- The entry of an instance on a die. -/
def State.instOn (s : State) (die inst : Nat) : Option (Nat × InstEntry) :=
  s.insts.find? (fun p => p.1 / 8192 == die && p.2.inst.toNat == inst)
/-- `n` FREE records of a die from index `i` on, circularly. -/
def State.freeRecs (s : State) (die : Nat) (i n : Nat) : Nat → List Nat
  | 0 => []
  | fuel + 1 =>
    if n == 0 then []
    else
      let rk := die * 32768 + i % 32768
      if (s.recOf rk).st == .free then rk :: s.freeRecs die (i + 1) (n - 1) fuel else s.freeRecs die (i + 1) n fuel

/-- The next instance number: 0 and 0xFFFF_FFFF are skipped. -/
def nextInst (c : BitVec 32) : BitVec 32 := if c = 0 then 1 else if c = 0xFFFFFFFF then 1 else c

/-- Records given to the prototypes of one die after another: `pool` holds each die's. -/
def assignRecs (pool : Nat → List Nat) : List (Nat × Rec) → List Nat
  | [] => []
  | (d, _) :: r => (pool d).headD 0 :: assignRecs (fun x => if x == d then (pool x).drop 1 else pool x) r

/-- The template an issuer may instantiate (01: R15). -/
def State.templateFor (s : State) (issuer tid : Nat) : Option Template :=
  match Tbl.find s.templates tid with
  | some t => if tid < 4096 && (issuer == 0 || t.ptag.toNat == issuer) then some t else none
  | none => none

/-- `TINST` (01: R15): status, instance number, record of each prototype. Which FREE slots are taken is a free choice. -/
def State.instantiate (s : State) (issuer tid : Nat) (slots : Word) : State × Nat × Nat × List Nat :=
  let num := nextInst s.instCtr
  match s.templateFor issuer tid with
  | none => ({ s with instCtr := num + 1 }, 2, 0, [])
  | some t =>
    let s := { s with instCtr := num + 1 }
    let need (d : Nat) : Nat := (t.protos.filter (fun p => p.1 == d)).length
    let start (d : Nat) : Nat := (s.free d).toNat % 32768
    let pools := (List.range 4).map (fun d => if need d == 0 then [] else s.freeRecs d (start d) (need d) 32768)
    let pool (d : Nat) : List Nat := pools.getD d []
    let entry (d : Nat) : Option Nat := (List.range 8192).find? (fun e => (Tbl.find s.insts (instKey d e)).isNone)
    let dies := (List.range 4).filter (fun d => need d != 0)
    if dies.any (fun d => (pool d).length < need d || (entry d).isNone) then (s, 1, num.toNat, [])
    else
      let rks := assignRecs pool t.protos
      let s := dies.foldl (fun (s : State) d =>
        let x : InstEntry := ⟨num, BitVec.ofNat 16 tid, BitVec.ofNat 12 issuer, slots, false, need d, rks⟩
        { s with insts := Tbl.put s.insts (instKey d ((entry d).getD 0)) x }) s
      let s := (rks.zip t.protos).foldl (fun (s : State) (p : Nat × Nat × Rec) =>
        let x : Rec :=
          { p.2.2 with
            st := .building, count := p.2.2.init.setWidth 32, live := false, reccount := 0, retired := 0, tstart := 0,
            inst := num, since := s.cycle }
        { s with recs := Tbl.put s.recs p.1 x }) s
      (s, 0, num.toNat, rks)

/-! ## Fault records of the dispatchers (18: R378, R379) -/

/-- Post a staging fault: to the quadrant of camp tile 0 of the invocation, or to the home die's first core. -/
def State.stagingRecord (s : State) (rk : Nat) (inv : Option Nat) (c : Cause) (addr : Word) : State :=
  let r := s.recOf rk
  let tile : Option Nat := (inv.map (fun i => (r.inv i).tiles)).bind List.head?
  let core := match tile with
    | some t => quadCore t
    | none => recDie rk * 4
  s.postCore core (faultBytes s.cycle r.ptag.toNat c 16 (tile.getD 0xF000) addr [0, 0, 0, 0] 0 (s.trefOf rk) akStaging (inv.getD 0))

/-- What a faulted dispatcher access leaves to be read: a staging record, or for a poisoned line, whose cause no such record bears (07: R193),
an entry in the violation log (log 23). -/
def State.noteFault (s : State) (rk : Nat) (inv : Option Nat) (c : Cause) (addr : Word) : State :=
  let p := (s.recOf rk).ptag.toNat
  if c == cUncorrectable then s.violLog (recDie rk) p 5 0xFFFF addr (s.trefOf rk)
  else (if c == cXlateMiss then s.logWalk (recDie rk) p addr 0xFFFF (s.trefOf rk) else s).stagingRecord rk inv c addr

/-- A dispatcher access faults: it waits for a retry, and nothing else does (01: R432). -/
def State.dispFault (s : State) (rk : Nat) (a : HeldAcc) (inv : Option Nat) (c : Cause) (addr : Word) : State :=
  (s.noteFault rk inv c addr).updRec rk (fun r => { r with waits := if r.waits.contains a then r.waits else r.waits ++ [a] })

/-! ## Dispatcher-held translations (01: R51, R432) -/

/-- Physical page for a page of the record's pitch, held or taken now. -/
def State.heldPage (s : State) (rk page : Nat) (w : Bool) : Except Cause (Nat × State) :=
  let r := s.recOf rk
  match r.held.find? (fun h => h.1 == page && h.2.1 == w) with
  | some h => .ok (h.2.2.1, s)
  | none =>
    match s.translate (recDie rk) r.ptag.toNat (page * 65536) ⟨true, w, false⟩ with
    | .error c => .error c
    | .ok (pa, _) =>
      let size := match s.leaf (recDie rk) r.ptag.toNat (page * 65536) with
        | .ok (_, _, n) => n
        | .error _ => 65536
      .ok (pa, s.updRec rk (fun r => { r with held := (page, w, pa, size) :: r.held }))

/-- Keys of `n` bytes at `va`, through held translations. -/
def State.heldKeys (s : State) (rk : Nat) (w : Bool) (va n : Nat) : Nat → Except (Cause × Nat) (List Nat × State)
  | 0 => .ok ([], s)
  | fuel + 1 =>
    if n == 0 then .ok ([], s)
    else if 2 ^ 56 ≤ va then .error (cBounds, va)
    else match s.heldPage rk (va / 65536) w with
      | .error c => .error (c, va)
      | .ok (pa, s) =>
        let m := min n (65536 - va % 65536)
        match s.heldKeys rk w (va + m) (n - m) fuel with
        | .error x => .error x
        | .ok (l, s) => .ok ((List.range m).map (fun i => pa + va % 65536 + i) ++ l, s)

/-- A line under these keys is poisoned: the access waits for a retry, as one that faulted (log 23). -/
def State.poisonAt (s : State) (l : List Nat) : Bool := l.any (fun k => s.poison.contains (k / 128))

def State.dispRead (s : State) (rk : Nat) (va n : Nat) : Except (Cause × Nat) (List Byte × State) :=
  match s.heldKeys rk false va n (n / 65536 + 2) with
  | .error x => .error x
  | .ok (l, s) => if s.poisonAt l then .error (cUncorrectable, va) else .ok (s.readAs ⟨.past, none, none, some (recDie rk)⟩ 5 l)

/-- A write of a poisoned line in part waits; one of the whole line clears the poison (20: R403). -/
def State.dispWrite (s : State) (rk : Nat) (va : Nat) (b : List Byte) : Except (Cause × Nat) State :=
  match s.heldKeys rk true va b.length (b.length / 65536 + 2) with
  | .error x => .error x
  | .ok (l, s) =>
    let whole (n : Nat) : Bool := (lineKeys n).all l.contains
    if s.poisonAt (l.filter (fun k => !whole (k / 128))) then .error (cUncorrectable, va)
    else .ok { (s.settleKeys l).putCells (l.zip b) with poison := s.poison.filter (fun n => !whole n) }

/-- The value of a slot of the record's instance. -/
def State.slotValue (s : State) (rk slot : Nat) : Except (Cause × Nat) (Word × State) :=
  match s.instHome (s.recOf rk).inst.toNat with
  | none => .ok (0, s)
  | some e => match s.dispRead rk (e.slots.toNat + 8 * slot) 8 with
    | .error x => .error x
    | .ok (b, s) => .ok (BitVec.ofNat 64 (natOfBytes b), s)

/-! ## Decrements sent (01: R19, R20, R36) -/

/-- A decrement leaves a die, with the source number of its sender (19: R396): a tile, or a dispatcher. -/
def State.sendDec (s : State) (die src : Nat) (tref : Word) (amt : Nat) (skip : Bool) (p : BitVec 12) : State :=
  s.addMsg ⟨false, tref &&& ~~~0x1F#64, amt, skip, p, s.cycle, src, die, none⟩

/-- A pitch's stale-message counter and the event that goes with it (01: R16, R20). -/
def State.stale (s : State) (die : Nat) (p : BitVec 12) (tref : Word) : State :=
  (s.updPitch p.toNat (fun x => { x with pstale := ctrAdd x.pstale 1 })).evLog die p.toNat 5 0xFFFF tref tref 0

/-- Successor entry `i` resolved: the tref it names, none when it names an empty slot. DESIGN CHOICE (log 24): the `DIE` field of an entry
with `INST` = 0 is not used; the record is on its prototype's die. -/
def State.resolveSucc (s : State) (rk : Nat) (e : Word) : Except (Cause × Nat) (Option Word × State) :=
  let r := s.recOf rk
  let recNo := bitsOf e 37 15
  if trefInst e == 0 then
    match (s.instRecs r.inst.toNat)[recNo]? with
    | some k => .ok (some (s.trefOf k), s)
    | none => .ok (none, s)
  else if trefInst e == 0xFFFFFFFF then
    match s.slotValue rk recNo with
    | .error x => .error x
    | .ok (v, s) => .ok (if v == 0 then none else some v, s)
  else .ok (some e, s)

/-- Send the successor entries from `i` on; a faulted access leaves the rest for a retry, the state kept (01: R432). After the
last one the record is RETIRED. -/
def State.sendFrom (s : State) (rk i : Nat) (skip : Bool) : Nat → State
  | 0 => s
  | fuel + 1 =>
    let r := s.recOf rk
    if r.nsucc.toNat ≤ i then (s.setRec rk .retired).updRec rk (fun r => { r with sending := none, held := [], waits := [] })
    else
      let wait (s : State) (c : Cause) (a : Nat) : State :=
        (s.dispFault rk .send none c (BitVec.ofNat 64 a)).updRec rk (fun r => { r with sending := some (i, skip) })
      match s.dispRead rk (r.succ.toNat + 8 * i) 8 with
      | .error (c, a) => wait s c a
      | .ok (b, s) =>
        let e : Word := BitVec.ofNat 64 (natOfBytes b)
        match s.resolveSucc rk e with
        | .error (c, a) => wait s c a
        | .ok (none, s) => ((s.updPitch r.ptag.toNat (fun x => { x with pstale := ctrAdd x.pstale 1 })).recEvent rk 5 0 0).sendFrom rk (i + 1) skip fuel
        | .ok (some t, s) => (s.sendDec (recDie rk) (1040 + recDie rk) t (trefAmt e) skip r.ptag).sendFrom rk (i + 1) skip fuel

/-- The release of a retirement at its record's `SCOPE`, reckoned from each tile of each camp (03: R108): of all that its strands, its copies
and its write-backs wrote, and of what its strands knew. -/
def State.retireRelease (s : State) (rk : Nat) : State :=
  let r := s.recOf rk
  let marks : List Rel := r.invs.flatMap (fun p => p.2.tiles.map (fun t =>
    ⟨⟨.task rk, some t, some (rk, p.1), some (t / 256)⟩, r.scope.toNat, true⟩))
  (s.updOlds (fun o => if o.knows (.task rk) || o.who.inv.map (·.1) == some rk then marks.foldl OldVal.mark o else o)).newParty (.task rk)

/-- Retire: decrements in list order, then the state (01: R29, R36). -/
def State.retire (s : State) (rk : Nat) (skip : Bool) : State := (s.retireRelease rk).sendFrom rk 0 skip ((s.recOf rk).nsucc.toNat + 1)

/-! ## Entering STAGING, triggers and seals (01: R29, R31, R32) -/

/-- Words of the DONEMAP (01: R51). -/
def Rec.mapWords (r : Rec) (cap : Nat) : Nat :=
  let n := if r.kind == 1 then r.fan.toNat else if r.kind == 2 then cap else 1
  (n + 63) / 64

/-- Translations are taken for every page of a range, without an access. -/
def State.holdRange (s : State) (rk : Nat) (w : Bool) (va n : Nat) : Except (Cause × Nat) State :=
  match s.heldKeys rk w va n (n / 65536 + 2) with
  | .error x => .error x
  | .ok (_, s) => .ok s

def split16 (n : Nat) (b : List Byte) : Nat → List (List Byte)
  | 0 => []
  | k + 1 => b.take n :: split16 n (b.drop n) k

/-- What the home dispatcher does when a record first enters STAGING (01: R51, R432): hold the translations, read the operand and
channel tables, clear the DONEMAP. DESIGN CHOICE (log 24): both tables are read here, once, through dispatcher-held translations. -/
def State.holdAll (s : State) (rk : Nat) : Except (Cause × Nat) State := do
  let r := s.recOf rk
  let s ← s.holdRange rk false r.succ.toNat (8 * r.nsucc.toNat)
  let slots := match s.instHome r.inst.toNat with
    | some e => (e.slots.toNat, ((Tbl.find s.templates e.tid.toNat).map Template.nslots).getD 0)
    | none => (0, 0)
  let s ← s.holdRange rk false slots.1 (8 * slots.2)
  let (ops, s) ← s.dispRead rk r.ops.toNat (32 * r.nops.toNat)
  let (chs, s) ← s.dispRead rk r.chans.toNat (16 * r.nchan.toNat)
  let s := s.updRec rk (fun r => { r with opsT := split16 32 ops r.nops.toNat, binds := split16 16 chs r.nchan.toNat })
  let (cap, s) ← if r.kind == 2 then do
      let (b, s) ← s.dispRead rk r.recs.toNat 4
      let s ← s.holdRange rk false r.recs.toNat (32 + 32 * natOfBytes b)
      pure (natOfBytes b, s)
    else pure (0, s)
  if r.donemap == 0 then pure s
  else s.dispWrite rk r.donemap.toNat (List.replicate (8 * r.mapWords cap) 0)

/-- A sealed empty list retires its record (01: R38). -/
def State.emptyList (s : State) (rk : Nat) : State :=
  let r := s.recOf rk
  if r.st == .staging && r.kind == 2 && r.listSealed && r.reccount == 0 && r.sending.isNone && r.heldTr then s.retire rk false else s

def State.enterStaging (s : State) (rk : Nat) : State :=
  match s.holdAll rk with
  | .error (c, a) => s.dispFault rk .enter none c (BitVec.ofNat 64 a)
  | .ok s => (s.updRec rk (fun r => { r with heldTr := true })).emptyList rk

/-- A trigger (01: R29): skipped, a control record, or staging. -/
def State.trigger (s : State) (rk : Nat) : State :=
  let r := s.recOf rk
  if r.init != 0 && !r.live then s.retire rk true
  else if r.kind == 4 then s.retire rk false
  else (s.setRec rk .staging).enterStaging rk

/-- A seal reaches a die: every record of the instance leaves BUILDING (01: R17, R29). -/
def State.sealDie (s : State) (die inst : Nat) : State :=
  match s.instOn die inst with
  | none => s
  | some (k, e) =>
    let s := { s with insts := Tbl.put s.insts k { e with isSealed := true } }
    (e.recs.filter (fun rk => recDie rk == die && (s.recOf rk).st == .building)).foldl (fun s rk =>
      if 0 < (s.recOf rk).count.toInt then s.setRec rk .waiting else s.trigger rk) s

/-- Whether the instance is sealed, or being sealed. -/
def State.isSealed (s : State) (inst : Nat) : Bool := s.insts.any (fun p => p.2.inst.toNat == inst && p.2.isSealed)

def State.instDies (s : State) (inst : Nat) : List Nat :=
  (List.range 4).filter (fun d => (s.instOn d inst).isSome)

/-- Mark the seal at the home die. -/
def State.beginSeal (s : State) (inst : Nat) : State :=
  match s.insts.find? (fun p => p.2.inst.toNat == inst) with
  | some (k, e) => { s with insts := Tbl.put s.insts k { e with isSealed := true } }
  | none => s

/-- Seal an instance at once, die after die: what a host's `LAUNCH` and an ingress port do. -/
def State.sealNow (s : State) (inst : Nat) : State := (s.instDies inst).foldl (fun s d => s.sealDie d inst) s

/-- Message `m` leaves the list. -/
def State.dropMsg (s : State) (m : Nat) : State := { s with msgs := s.msgs.take m ++ s.msgs.drop (m + 1) }

/-- `SEAL` (01: R17). -/
def execSeal (m : Nat) (s : State) : Out :=
  match s.msgs[m]? with
  | none => .next s
  | some x => if x.isSeal && x.via.isNone then .next ((s.dropMsg m).sealDie x.dest (trefInst x.tref)) else .next s

/-! ## Decrements received (01: R20, R32-R35) -/

def minCount : Int := -16777216

/-- R32 on a record in BUILDING or WAITING. -/
def State.applyDec (s : State) (rk a : Nat) (skip : Bool) : State :=
  let r := s.recOf rk
  let c := r.count.toInt
  let excess : Int := max 0 (a - max 0 c)
  let s := s.updRec rk (fun r => { r with count := BitVec.ofInt 32 (max (c - a) minCount), live := r.live || !skip })
  s.updPitch r.ptag.toNat (fun x => { x with pexcess := ctrAdd x.pexcess excess.toNat })

/-- A decrement at its dispatcher: stale, of a foreign pitch, or applied. One for a record of a pitch that has ended is dropped and not counted
(20: R406); a foreign pitch's is logged there too. -/
def State.decrement (s : State) (x : DMsg) : State :=
  let rk := trefKey x.tref
  let die := recDie rk
  let r := s.recOf rk
  if r.st == .free || r.inst.toNat != trefInst x.tref then s.stale die x.ptag x.tref
  else if r.ptag != x.ptag && x.ptag != 0 then s.violLog die x.ptag.toNat 4 0xFFFF x.tref x.tref
  else if s.pstate r.ptag.toNat != 1 then s
  else match r.st with
    | .building => s.applyDec rk x.amt x.skip
    | .waiting =>
      let s := s.applyDec rk x.amt x.skip
      if (s.recOf rk).count.toInt ≤ 0 && (s.recOf rk).sending.isNone then s.trigger rk else s
    | _ =>
      (s.updPitch r.ptag.toNat (fun y => { y with pexcess := ctrAdd y.pexcess x.amt })).recEvent rk 7 (BitVec.ofNat 64 x.amt) 0

def State.dispOf (s : State) (die : Nat) : Dispatcher := Tbl.get s.disp die .empty
def State.updDisp (s : State) (die : Nat) (f : Dispatcher → Dispatcher) : State :=
  { s with disp := Tbl.put s.disp die (f (s.dispOf die)) }

/-- It has been on its way for 2^20 cycles: it is lost (01: R20). -/
def State.decLate (s : State) (x : DMsg) : Bool := x.sent.toNat + 2 ^ 20 ≤ s.cycle.toNat

/-- `DECREMENT_ARRIVAL`: one per cycle and dispatcher (01: R35), once its flit is delivered (19: R390). A decrement for another module
leaves through its port, with the source number of its sender. -/
def execDecrementArrival (m : Nat) (s : State) : Out :=
  match s.msgs[m]? with
  | none => .next s
  | some x =>
    if x.isSeal || x.via.isSome || s.decLate x then .next s
    else if trefPkg x.tref != s.pkg.toNat then
      match s.portFor x.src (trefPkg x.tref) with
      | some p =>
        if s.portOpen p && !s.portCut x.die p then
          .next ((s.dropMsg m).sendPort p ⟨4, trefPkg x.tref, x.ptag, [x.tref, BitVec.ofNat 64 x.amt, bit01 x.skip, x.ptag.setWidth 64]⟩)
        else .next s
      | none => .next s
    else if (s.dispOf x.dest).decAt == some s.cycle then .next s
    else .next (((s.dropMsg m).updDisp x.dest (fun d => { d with decAt := some s.cycle })).decrement x)

/-- `LOST` (01: R20): not delivered within 2^20 cycles. -/
def execLost (m : Nat) (s : State) : Out :=
  match s.msgs[m]? with
  | none => .next s
  | some x =>
    if x.isSeal || !s.decLate x then .next s
    else .next ((s.dropMsg m).evLog x.dest x.ptag.toNat 6 0xFFFF x.tref x.tref 0)

/-! ## The task instructions (13: R325-R331) -/

/-- The record a tref names for the executing strand, or the code. Pitch 0 may act on any pitch's records (01: R15, R20; log 14). -/
def State.trefRec (s : State) (t : Word) : Except Nat Nat :=
  let rk := trefKey t
  let r := s.recOf rk
  if trefPkg t != s.pkg.toNat || r.st == .free || r.inst.toNat != trefInst t then .error 4
  else if r.ptag != s.me.ptag && s.me.ptag != 0 then .error 5
  else .ok rk

/-- A release at `POD` of every prior access of every kind, as of `TDEC` (13: R327), after the held stores (20: R410). -/
def State.podReleaseAll (s : State) (k : State → Out) : Out :=
  (s.spanBreak s.sid).afterPsts (fun s => k (s.releaseAll s.sid 5))

def State.tdec (s : State) (a : BitVec 5) (amt : BitVec 6) (skip : Bool) : Out :=
  let t := s.g a
  s.podReleaseAll (fun s => done (s.sendDec (sidDie s.sid) s.myTile t (amt.toNat + 1) skip s.me.ptag))

def execTdec (a : BitVec 5) (amt : BitVec 6) (s : State) : Out := s.tdec a amt false
def execTdecSkip (a : BitVec 5) (amt : BitVec 6) (s : State) : Out := s.tdec a amt true

/-- `TINST` (01: R15; 13: R328). Only when the instance is made is the slot table zeroed; a fault there is taken before anything is. -/
def execTinst (d a b c : BitVec 5) (s : State) : Out :=
  let tid := s.g a
  let tbl := s.g b
  let buf := s.g c
  let s := s.spanBreak s.sid
  if bitsOf tid 16 48 != 0 then s.ret d 10
  else
    let p := s.me.ptag.toNat
    let t := s.templateFor p tid.toNat
    let np := (t.map (fun t => t.protos.length)).getD 0
    let ns := (t.map Template.nslots).getD 0
    if np != 0 && (s.localRange s.sid buf (8 * np)).isNone then s.ret d 9
    else
      let (x, st, num, rks) := s.instantiate p tid.toNat tbl
      if st != 0 then x.ret d (BitVec.ofNat 64 st)
      else
        let made (z : State) : Out :=
          let z := { z with instCtr := x.instCtr, insts := x.insts, recs := x.recs }
          let z := match z.localRange z.sid buf (8 * np) with
            | some k => z.wrLocal z.sid k (rks.flatMap (fun rk => bytesLE (z.trefOf rk).toNat 8))
            | none => z
          z.ret d (BitVec.ofNat 64 (num * 2 ^ 32))
        if ns == 0 then made s
        else match s.storeBytes s.sid tbl (List.replicate (8 * ns) 0) false with
          | .fault c a => .next (s.w0Fault c a akStore)
          | .bad z => made z
          | .ok z => made z

/-- `TBIND` (01: R16): the slot is written, in the space of the pitch that instantiated, before the status returns. -/
def execTbind (d a b c : BitVec 5) (s : State) : Out :=
  let t := s.g a
  let slot := s.g b
  let v := s.g c
  let s := s.spanBreak s.sid
  match s.trefRec t with
  | .error e => s.ret d (BitVec.ofNat 64 e)
  | .ok rk =>
    let inst := (s.recOf rk).inst.toNat
    match s.instHome inst with
    | none => s.ret d 4
    | some e =>
      if s.isSealed inst then s.ret d 3
      else if ((Tbl.find s.templates e.tid.toNat).map Template.nslots).getD 0 ≤ slot.toNat then s.ret d 9
      else
        let va := e.slots + 8 * slot
        if spaceOf va != 0 then .next (s.w0Fault cBounds va akStore)
        else match s.globalParts (sidDie s.sid) e.ptag.toNat .store va.toNat 8 2 with
          | .error (c, x) => .next (s.w0Fault c x akStore)
          | .ok ps => match s.partsRefusal true ps with
            | some vk => (s.errorResponse s.sid vk va).ret d 0
            | none =>
              let s := s.drain s.sid (fun p => p.cells.any (fun x => (keysOf ps).contains x.1))
              (((s.touch true ps).unpoison ps).performCells s.sid .strict ((keysOf ps).zip (bytesLE v.toNat 8))).ret d 0

/-- `TSEAL` (01: R17, 13: R329): a release, then seals to each die in ascending order; it blocks until all are applied. -/
def execTseal (n : BitVec 5) (s : State) : Out :=
  match s.seq.wait with
  | some (.seal i) =>
    if s.msgs.any (fun m => m.isSeal && trefInst m.tref == i.toNat) then .next (s.block (.seal i)) else s.ret n 0
  | _ =>
    (s.spanBreak s.sid).releaseThen 5 (fun s =>
      match s.trefRec (s.g n) with
      | .error e => s.ret n (BitVec.ofNat 64 e)
      | .ok rk =>
        let i := (s.recOf rk).inst.toNat
        if s.isSealed i then s.ret n 3
        else
          let s := s.beginSeal i
          .next (((s.instDies i).foldl (fun s d =>
            s.addMsg ⟨true, mkTref s.pkg.toNat (d * 32768) i, 0, false, s.me.ptag, s.cycle, s.myTile, sidDie s.sid, none⟩) s).block
              (.seal (BitVec.ofNat 32 i))))

/-- The checks of the home dispatcher for `RECPUT` and `RECSEAL`. -/
def State.listRec (s : State) (t : Word) : Except Nat Nat :=
  match s.trefRec t with
  | .error e => .error e
  | .ok rk => if (s.recOf rk).kind != 2 then .error 6 else if (s.recOf rk).listSealed then .error 3 else .ok rk

/-- The tile record that a `RECPUT` names, as it reads it at issue; none where its address is refused. -/
def State.recAt (s : State) (buf : Word) : Option (List Byte) × State :=
  match s.localRange s.sid buf 32 with
  | none => (none, s)
  | some k =>
    if buf.toNat % 32 != 0 then (none, s)
    else
      let s := s.inOrder s.sid ((List.range 32).map (k + ·))
      let (c, s) := s.readPart [.strand s.sid] (unitsOf 8 32 k 32) false
      (some ((List.range 32).map (fun i => (cellOf c (k + i)).getD (s.byte (k + i)))), s)

/-- `RECPUT` (01: R38; 13: R330): the tile record is read at issue, and written, after the release, as the record's pitch; a fault there is a
w0 fault. A line that refuses gives the error response (log 23): the list's capacity then reads 0, or the tile record's bytes are lost. -/
def execRecput (d a b : BitVec 5) (s : State) : Out :=
  let t := s.g a
  let (rec, s) := match s.seq.wait with
    | some (.recput r) => (r, s)
    | _ => (s.spanBreak s.sid).recAt (s.g b)
  if !s.releaseReady s.cur then .next (s.block (.recput rec))
  else
    let s := s.releaseAll s.sid 5
    match rec with
    | none => s.ret d 9
    | some data =>
      if leAt data 12 4 != 0 then s.ret d 10
      else match s.listRec t with
        | .error e => s.ret d (BitVec.ofNat 64 e)
        | .ok rk =>
          let r := s.recOf rk
          match s.globalParts (recDie rk) r.ptag.toNat .load r.recs.toNat 4 2 with
          | .error (c, x) => .next (s.w0Fault c x akLoad)
          | .ok hp =>
            let i := r.reccount.toNat
            match s.partsRefusal false hp with
            | some vk => (s.errorResponse s.sid vk r.recs).ret d 1
            | none =>
              if s.valOf (keysOf hp) ≤ i then s.ret d 1
              else
                let va := r.recs.toNat + 32 + 32 * i
                match s.globalParts (recDie rk) r.ptag.toNat .store va 32 2 with
                | .error (c, x) => .next (s.w0Fault c x akStore)
                | .ok ps =>
                  let s := match s.partsRefusal true ps with
                    | some vk => s.errorResponse s.sid vk (BitVec.ofNat 64 va)
                    | none => (((s.touch true ps).unpoison ps).settleKeys (keysOf ps)).putCells ((keysOf ps).zip data)
                  (s.updRec rk (fun r => { r with reccount := r.reccount + 1 })).ret d (BitVec.ofNat 64 (i * 2 ^ 32))

/-- `TSTAT` (13: R331): a stale or foreign tref reads as a FREE record. -/
def execTstat (d a : BitVec 5) (w : BitVec 6) (s : State) : Out :=
  match s.trefRec (s.g a) with
  | .error _ => s.ret d 0
  | .ok rk => s.ret d (BitVec.ofNat 64 ((s.recOf rk).word w.toNat))

/-- `TPARM` (13: R331). -/
def execTparm (d a b : BitVec 5) (s : State) : Out :=
  let t := s.g a
  let v := s.g b
  let s := s.spanBreak s.sid
  match s.trefRec t with
  | .error e => s.ret d (BitVec.ofNat 64 e)
  | .ok rk =>
    if (s.recOf rk).st == .building || (s.recOf rk).st == .waiting then (s.updRec rk (fun r => { r with params := v })).ret d 0
    else s.ret d 8

/-- Free an instance on every die (01: R29): its records become FREE and its channels go. -/
def State.freeInst (s : State) (inst : Nat) : State :=
  let rks := s.instRecs inst
  { s with recs := s.recs.filter (fun p => !rks.contains p.1), insts := s.insts.filter (fun p => p.2.inst.toNat != inst),
           chans := s.chans.filter (fun p => !rks.contains (p.1 / 2 ^ 31 % 2 ^ 17)) }

def State.mayFree (s : State) (inst : Nat) : Bool :=
  (s.instRecs inst).all (fun rk => (s.recOf rk).st == .building || (s.recOf rk).st == .retired || (s.recOf rk).st == .failed ||
    (s.recOf rk).st == .free)

/-- `TFREE` (13: R331). -/
def execTfree (n : BitVec 5) (s : State) : Out :=
  let s := s.spanBreak s.sid
  match s.trefRec (s.g n) with
  | .error e => s.ret n (BitVec.ofNat 64 e)
  | .ok rk =>
    let i := (s.recOf rk).inst.toNat
    if s.mayFree i then (s.freeInst i).ret n 0 else s.ret n 7

end Sys2Proof.Machine
end

