-- ==== Sys2Proof/Machine/Ethernet.lean ====
section
/-! DEFINITION. Ethernet.lean: transport posts, packets, completions and the transport engine's state (06: R173-R175; 13: R322-R324;
19: R400). -/

namespace Sys2Proof.Machine

/-! ## Transfer descriptors and destinations -/

/-- The fields of a transfer descriptor. -/
structure XDesc where
  opk : Nat
  mode : Nat
  dest : Nat
  laddr : Word
  len : Nat
  raddr : Word
  akind : Nat
  atgt : Word
  tag : Word
  clean : Bool                    -- reserved fields zero
  deriving DecidableEq, Repr

def xdesc (b : List Byte) : XDesc :=
  { opk := leAt b 0 1, mode := leAt b 1 1, dest := leAt b 4 4, laddr := BitVec.ofNat 64 (leAt b 8 8), len := leAt b 0x10 8,
    raddr := BitVec.ofNat 64 (leAt b 0x18 8), akind := leAt b 0x20 1, atgt := BitVec.ofNat 64 (leAt b 0x28 8),
    tag := BitVec.ofNat 64 (leAt b 0x30 8), clean := leAt b 2 2 == 0 && leAt b 0x38 8 == 0 }

/-- Well-formed under 13: R322, the buffer in global space. -/
def XDesc.ok (x : XDesc) : Bool :=
  x.clean && x.opk ≤ 2 && x.mode ≤ 2 && (x.opk != 2 || (x.mode == 0 && x.dest == 0)) && 1 ≤ x.len && x.len ≤ 2 ^ 32 &&
    spaceOf x.laddr == 0

/-- The kind of the completion action is one of 06: R174. What is zero in an action is ignored (00: R10). -/
def XDesc.actOk (x : XDesc) : Bool := x.akind ≤ 3

/-- Bytes of a destination entry. -/
def State.destEntry (s : State) (i : Nat) : List Byte := if i < 65536 then s.rdBytes (destBase + 64 * i) 64 else List.replicate 64 0

/-- The entry is a connection of the pitch: valid and its own. -/
def destOwn (e : List Byte) (p : Nat) : Bool :=
  leAt e 0 2 % 2 == 1 && leAt e 0 2 / 16 % 4 != 3 && leAt e 2 2 % 4096 == p
/-- It permits a delivery mode. -/
def destMode (e : List Byte) (m : Nat) : Bool := leAt e 0 2 / 2 ^ (m + 1) % 2 == 1

/-- Posts of a pitch outstanding on a die. -/
def State.postsOf (s : State) (die p : Nat) : Nat := (s.posts.filter (fun x => x.2.die == die && x.2.ptag.toNat == p)).length

/-! ### Congestion state (06: R175; 19: R400) -/

/-- The state of a destination that has had no acknowledgement: the entry's initial window. -/
def congNew (e : List Byte) : Cong := ⟨BitVec.ofNat 32 (leAt e 0x20 4), none, [], []⟩
def State.startCong (s : State) (opk dest : Nat) (e : List Byte) : State :=
  if opk == 2 || (Tbl.find s.congs dest).isSome then s else { s with congs := Tbl.put s.congs dest (congNew e) }
def Cong.marks (x : Cong) : Nat := (x.acks.filter id).length

/-- An acknowledgement: what the state was may be read for 1,200 cycles more. -/
def Cong.ack (x : Cong) (ecn : Bool) (win rtt : BitVec 32) (now : Word) : Cong :=
  ⟨win, some rtt, (ecn :: x.acks).take 256, (now + 1200, x.win, x.rtt, x.marks) :: x.was.filter (fun o => now.toNat ≤ o.1.toNat)⟩

/-- The two words that `XCONG` reads: 256 marks do not fit the ECN field, and before an acknowledgement there is no round-trip time;
these are free values (log 27). -/
def State.congWords (s : State) (x : Cong) : Word × Word :=
  let was := x.was.filter (fun o => s.cycle.toNat ≤ o.1.toNat)
  let i := (s.free 0).toNat % (was.length + 1)
  let (win, rtt, m) := if i == 0 then (x.win, x.rtt, x.marks) else (was.map (·.2)).getD (i - 1) (x.win, x.rtt, x.marks)
  (BitVec.ofNat 64 (win.toNat * 2 ^ 32 + (rtt.getD ((s.free 1).setWidth 32)).toNat),
   if m < 256 then BitVec.ofNat 64 (256 * m) else s.free 2 &&& 0xFFFF)

/-- `XPOST` (13: R322): first the release at `POD`, then the descriptor. -/
def execXpost (d a : BitVec 5) (disp : BitVec 32) (s : State) : Out :=
  let va := s.ea a disp
  s.podReleaseAll (fun s =>
  match s.localRange s.sid va 64 with
  | none => s.ret d 1
  | some k =>
    let b := s.rdBytes k 64
    let x := xdesc b
    if va.toNat % 64 != 0 || !x.ok then s.ret d 1
    else if !x.actOk then s.ret d 2
    else if 0x100000000000000 < x.laddr.toNat + x.len then .next (s.w0Fault cBounds x.laddr (if x.opk == 2 then akStore else akLoad))
    else
      let die := sidDie s.sid
      match s.globalParts die s.me.ptag.toNat (if x.opk == 2 then .store else .load) x.laddr.toNat x.len (x.len / 65536 + 2) with
      | .error (c, ad) => .next (s.w0Fault c ad (if x.opk == 2 then akStore else akLoad))
      | .ok ps =>
        if 1024 ≤ s.postsOf die s.me.ptag.toNat then s.ret d 3
        else
          let e := s.destEntry x.dest
          if x.opk != 2 && !(destOwn e s.me.ptag.toNat && destMode e x.mode) then s.ret d 4
          else
            let id := Tbl.fresh s.posts s.nextId (s.posts.length + 1)
            let post : Post := ⟨s.me.ptag, s.myTile, die, s.me.tref, x.opk, x.mode, x.dest, e, ps, x.laddr, x.len, x.raddr, x.akind, x.atgt,
              x.tag, s.cycle, none, []⟩
            -- the engine reads after every prior access of the strand
            let s := (s.newParty (.copy id)).passKnowledge (.strand s.sid) (.copy id)
            (({ s with posts := Tbl.put s.posts id post, nextId := id + 1 }).startCong x.opk x.dest e).ret d 0)

/-! ## Packets and completions (06: R173, R174; 13: R323) -/

/-- A run of bytes joined to those that are in place. -/
def addRun (lo hi : Nat) : List (Nat × Nat) → List (Nat × Nat)
  | [] => [(lo, hi)]
  | (a, b) :: r => if hi < a then (lo, hi) :: (a, b) :: r else if b < lo then (a, b) :: addRun lo hi r else addRun (min lo a) (max hi b) r

def runBytes (l : List (Nat × Nat)) : Nat := (l.map (fun r => r.2 - r.1)).sum

/-- Bytes `[off, off+n)` of a buffer. -/
def partsRange : List Part → Nat → Nat → List Part
  | [], _, _ => []
  | p :: r, off, n =>
    if n == 0 then []
    else if p.len ≤ off then partsRange r (off - p.len) n
    else { p with key := p.key + off, len := min n (p.len - off) } :: partsRange r 0 (n - min n (p.len - off))

/-- Cells grouped by the aligned 4-byte words that hold them: what is placed as one (06: R173). -/
def wordGroups : List (Nat × Byte) → List (List (Nat × Byte))
  | [] => []
  | x :: r =>
    match wordGroups r with
    | (y :: g) :: l => if x.1 / 4 == y.1 / 4 then (x :: y :: g) :: l else [x] :: (y :: g) :: l
    | l => [x] :: l

/-- A packet's bytes end at a word, or at the end of its message. -/
def wordBound (a off n len : Nat) : Bool := (off == 0 || (a + off) % 4 == 0) && (off + n == len || (a + off + n) % 4 == 0)

/-- The transport engine, which only `PKG` and `POD` reach (03: R98). -/
def engineWho (id : Nat) : Who := ⟨.copy id, none, none, none⟩

/-- Place bytes of a message at translated parts. -/
def State.place (s : State) (who : Option Who) (ps : List Part) (data : List Byte) : State :=
  (wordGroups ((keysOf ps).zip data)).foldl (fun s u => s.putBy who (ps.any (·.ord == .loose)) u) ((s.touch true ps).unpoison ps)

/-- Bytes of a message for a posted receive: they are placed, but for the excess over its length. -/
def State.ueRecv (s : State) (id off mlen : Nat) (data : List Byte) : State :=
  match Tbl.find s.posts id with
  | none => s
  | some p =>
    let n := min (min p.len mlen - off) data.length
    if p.opk != 2 || p.mlen.any (· != mlen) || mlen < off + data.length || !wordBound p.laddr.toNat off n (min p.len mlen) then s
    else
      let s := { s with posts := Tbl.put s.posts id { p with mlen := some mlen, moved := if n == 0 && mlen != 0 then p.moved else addRun off (off + n) p.moved } }
      let ps := partsRange p.parts off n
      match s.partsRefusal true ps with
      | some vk => s.violLog p.die p.ptag.toNat vk 0xFFFF (p.laddr + BitVec.ofNat 64 off) p.tref
      | none => s.place (some (engineWho id)) ps (data.take n)

/-- Bytes at offset `off` of another module's `WRITE`: placed through the tables of the pitch that it names; a translation error loses them. -/
def State.ueWrite (s : State) (die p : Nat) (base : Word) (off mlen : Nat) (data : List Byte) : State :=
  let addr := base + BitVec.ofNat 64 off
  if s.pstate p != 1 || mlen < off + data.length || !wordBound base.toNat off data.length mlen then s
  else if 0x100000000000000 < addr.toNat + data.length then s.violLog die p 2 0xFFFF addr 0
  else match s.globalParts die p .store addr.toNat data.length (data.length / 65536 + 2) with
    | .error _ => s.violLog die p 2 0xFFFF addr 0
    | .ok ps => match s.partsRefusal true ps with
      | some vk => s.violLog die p vk 0xFFFF addr 0
      | none => s.place none ps data

/-- The Ethernet ports that a destination entry names and that are ACTIVE (19: R399, R400). -/
def State.etherPorts (s : State) (e : List Byte) : List Nat :=
  (List.range 16).filter (fun i => (leAt e 4 2).testBit i && (s.link (96 + i)).st == 1)

/-- What a destination entry puts into every packet (19: R400): the job, the remote endpoint and its address. -/
def destWords (e : List Byte) : List Word :=
  [BitVec.ofNat 64 (leAt e 0x1C 4), BitVec.ofNat 64 (leAt e 0x18 4), BitVec.ofNat 64 (leAt e 8 8), BitVec.ofNat 64 (leAt e 0x10 8)]

/-- Bytes of a posted message are read and leave through one of the destination's ports. -/
def State.ueSend (s : State) (id off n port : Nat) : State :=
  match Tbl.find s.posts id with
  | none => s
  | some p =>
    if p.opk == 2 || n == 0 || p.len < off + n || !(s.etherPorts p.entry).contains port then s
    else
      let ps := partsRange p.parts off n
      let (b, s) := match s.partsRefusal false ps with
        | some vk => (List.replicate n 0, s.violLog p.die p.ptag.toNat vk 0xFFFF (p.laddr + BitVec.ofNat 64 off) p.tref)
        | none => (s.touch false ps).copyParts [id] ps
      ({ s with posts := Tbl.put s.posts id { p with moved := addRun off (off + n) p.moved } }).emit
        ⟨10, p.dest, p.ptag, [BitVec.ofNat 64 id, BitVec.ofNat 64 off] ++ destWords p.entry ++ b.map (fun (x : Byte) => x.setWidth 64)⟩

/-- `UE_PACKET`: bytes at offset `off` of a message, or an acknowledgement, which has none. -/
def execUePacket (post : UePkt) (off : Nat) (data : List Byte) (s : State) : Out :=
  match post with
  | .recv id mlen => .next (s.ueRecv id off mlen data)
  | .write die pitch addr mlen => .next (s.ueWrite die.toNat pitch.toNat addr off mlen data)
  | .send id n port => .next (s.ueSend id off n port)
  | .ack dest ecn win rtt =>
    match Tbl.find s.congs dest with
    | none => .next s
    | some x => .next { s with congs := Tbl.put s.congs dest (x.ack ecn win rtt s.cycle) }

def State.cqKey (die p : Nat) : Nat := die * 4096 + p
def State.cq (s : State) (k : Nat) : List (Word × List Byte) := Tbl.get s.cqs k []

/-- The completion entry of 13: R323. -/
def cqEntry (p : Post) (status : Nat) (placed : Word) (now : Word) : List Byte :=
  bytesLE p.tag.toNat 8 ++ bytesLE placed.toNat 8 ++ bytesLE status 1 ++ bytesLE p.opk 1 ++ bytesLE p.akind 1 ++ bytesLE 0 1 ++
    bytesLE p.dest 4 ++ bytesLE now.toNat 8

/-- The completion action (06: R174); with a status other than 0 a decrement is a skip. -/
def State.postAction (s : State) (p : Post) (status : Nat) : State :=
  match p.akind with
  | 1 => s.sendDec p.die p.tile p.atgt (trefAmt p.atgt) (status != 0) p.ptag
  | 2 =>
    let sid := bitsOf p.atgt 0 12
    if (s.strand sid).signalled && (s.strand sid).ptag == p.ptag then s.signal sid (bitsOf p.atgt 12 4)
    else s.violLog p.die p.ptag.toNat 3 0xFFFF p.atgt p.tref
  | 3 =>
    (s.cbarArrive (bitsOf p.atgt 0 2 * 64 + bitsOf p.atgt 2 6)).getD
      (s.evLog p.die p.ptag.toNat 0x0C 0xFFFF p.tref (BitVec.ofNat 64 (bitsOf p.atgt 2 6)) 0)
  | _ => s

/-- A post completes: the entry first, then the action, a release at `POD` of what was placed (03: R111). A full queue and an earlier reliable ordered message hold it back. -/
def State.completePost (s : State) (id : Nat) (status : Nat) (placed : Word) : State :=
  match Tbl.find s.posts id with
  | none => s
  | some p =>
    let k := State.cqKey p.die p.ptag.toNat
    if 4096 ≤ (s.cq k).length ||
        (p.mode == 2 && s.posts.any (fun q => q.1 < id && q.2.mode == 2 && q.2.die == p.die && q.2.ptag == p.ptag)) then s
    else
      let s := { s with posts := Tbl.del s.posts id, cqs := Tbl.put s.cqs k (s.cq k ++ [(p.tref, cqEntry p status placed s.cycle)]) }
      (s.releaseBy (engineWho id) 5 true).postAction p status

/-- The bytes that a completion of a status reports, when it may come: 0 and, of a receive, 4 after every byte is sent or placed; 4 of a
send, and the failures 1 to 3, at any time. -/
def Post.placed (p : Post) (status : Nat) (told : Nat) : Option Nat :=
  let all := p.moved == [(0, if p.opk == 2 then min p.len (p.mlen.getD 0) else p.len)]
  let got := runBytes p.moved
  match status with
  | 0 => if all && (p.opk != 2 || p.mlen.any (· ≤ p.len)) then some got else none
  | 4 => if p.opk == 2 then (if all && p.mlen.any (p.len < ·) then some p.len else none)
    else if p.opk == 1 && all && told < p.len then some told else none
  | 5 => none
  | _ => if status < 4 then some (if p.opk == 2 then got else min told got) else none

/-- `MESSAGE_COMPLETION`. -/
def execMessageCompletion (post : Nat) (status : BitVec 8) (placed : Word) (s : State) : Out :=
  match Tbl.find s.posts post with
  | none => .next s
  | some p =>
    match p.placed status.toNat placed.toNat with
    | none => .next s
    | some n => .next (s.completePost post status.toNat (BitVec.ofNat 64 n))

/-- `RECEIVE_MATCH_TIMEOUT`: a send without a matching receive ends with status 5. -/
def execReceiveMatchTimeout (post : Nat) (s : State) : Out :=
  match Tbl.find s.posts post with
  | none => .next s
  | some p => .next (if p.opk == 1 && p.since.toNat + 2 ^ 20 ≤ s.cycle.toNat then s.completePost post 5 0 else s)

/-! ## XCQ and XCONG (13: R323, R324) -/

def State.xcq (s : State) (d a : BitVec 5) (empty : State → Out) : Out :=
  let va := s.g a
  match s.localRange s.sid va 32 with
  | none => s.ret d 2
  | some k =>
    if va.toNat % 32 != 0 then s.ret d 2
    else
      let q := State.cqKey (sidDie s.sid) s.me.ptag.toNat
      match s.cq q with
      | [] => empty s
      | e :: r => (({ s with cqs := Tbl.put s.cqs q r }).wrLocal s.sid k e.2).ret d 0

def execXcq (d a : BitVec 5) (s : State) : Out := s.xcq d a (fun s => s.ret d 1)
def execXcqW (d a : BitVec 5) (s : State) : Out := s.xcq d a (fun s => .next (s.block .xcq))

/-- `XCONG`. -/
def execXcong (d c a : BitVec 5) (s : State) : Out :=
  let dest := bitsOf (s.g a) 0 32
  let e := s.destEntry dest
  let (x, y) : Word × Word :=
    if destOwn e s.me.ptag.toNat then s.congWords ((Tbl.find s.congs dest).getD (congNew e)) else (0, 0x10000)
  done ((s.gPut d x).gPut c y)

end Sys2Proof.Machine
end

