-- ==== Sys2Proof/Machine/Truss.lean ====
section
/-! DEFINITION. Truss.lean: the truss network: the tree, contributions, combination, redo and the collective instructions
(06: R158-R169; 12: R302-R307). -/

namespace Sys2Proof.Machine

/-! ## The tree (06: R158)

Node die·21 + c is cluster c of a die, die·21 + 16 + q its quadrant q, die·21 + 20 its root, 84 the module root; 1000 + t is leaf t
and 2000 + p the module root of package p. -/

def clusterNode (t : Nat) : Nat := t / 256 * 21 + 4 * (tileY t / 4) + tileX t / 4
def quadNode (t : Nat) : Nat := t / 256 * 21 + 16 + 2 * (tileY t / 8) + tileX t / 8
def rootNode (t : Nat) : Nat := t / 256 * 21 + 20

/-- Parent of a node or leaf. -/
def nodeParent (n : Nat) : Nat :=
  if 2000 ≤ n then 84
  else if 1000 ≤ n then clusterNode (n - 1000)
  else
    let d := n / 21
    let i := n % 21
    if i < 16 then d * 21 + 16 + 2 * (i / 8) + i % 4 / 2 else if i < 20 then d * 21 + 20 else 84

/-- Number of a node or leaf among the children of its parent (06: R159). -/
def childNo (n : Nat) : Nat :=
  if 1000 ≤ n then tileY (n - 1000) % 4 * 4 + tileX (n - 1000) % 4
  else
    let i := n % 21
    if i < 16 then i / 4 % 2 * 2 + i % 2 else if i < 20 then i - 16 else n / 21

/-- Child `i` of a node. -/
def nodeChild (n i : Nat) : Nat :=
  if n == 84 then i * 21 + 20
  else
    let d := n / 21
    let c := n % 21
    if c == 20 then d * 21 + 16 + i
    else if c < 16 then 1000 + d * 256 + (c / 4 * 4 + i / 4) * 16 + c % 4 * 4 + i % 4
    else d * 21 + ((c - 16) / 2 * 2 + i / 2) * 4 + (c - 16) % 2 * 2 + i % 2

/-- Place of a leaf in the order of `CHILD` paths (06: R161). -/
def leafPath (t : Nat) : Nat :=
  t / 256 * 256 + childNo (quadNode t) * 64 + childNo (clusterNode t) * 16 + childNo (1000 + t)

/-! ## Group entries (06: R159) -/

def State.trussEntry (s : State) (n gid : Nat) : Word := Tbl.get s.truss (n * 1024 + gid) 0
def entPtag (e : Word) : Nat := bitsOf e 52 12
def entGen (e : Word) : BitVec 4 := BitVec.ofNat 4 (bitsOf e 48 4)
def entOp (e : Word) : Nat := bitsOf e 44 4
def entAlt (e : Word) : Nat := bitsOf e 32 4
def entChild (e : Word) (i : Nat) : Bool := e.getLsbD (16 + i)
def entValid (e : Word) : Bool := e.getLsbD 0

/-- Children of a node that take part in a group. -/
def State.trussKids (s : State) (gid n : Nat) : List Nat :=
  ((List.range (if n < 84 && n % 21 < 16 then 16 else 4)).filter (entChild (s.trussEntry n gid))).map (nodeChild n)

/-- Packages other than this one with members of a group. -/
def State.trussRemote (s : State) (gid : Nat) : List Nat :=
  match Tbl.find s.groups gid with
  | none => []
  | some g => ((g.members.map (·.2)).filter (· != s.pkg.toNat)).eraseDups

/-- The collective is rooted here: no other module takes part, or this is the endpoint. -/
def State.trussRoot (s : State) (gid : Nat) : Bool :=
  (s.trussRemote gid).isEmpty || ((Tbl.find s.groups gid).map (fun g => g.endp == s.pkg)).getD true

/-- The alternate of a node whose path to its parent has failed (06: R160): a sibling of the parent. -/
def State.altOf (s : State) (gid n : Nat) : Option Nat :=
  let p := nodeParent n
  let a := entAlt (s.trussEntry n gid)
  if p == 84 || a == childNo p then none else some (nodeChild (nodeParent p) a)

/-- Children from which a node takes a packet: those in the group, and alternates, which bear another node's share (06: R160). -/
def State.kidsWith (s : State) (gid : Nat) (alts : List (Nat × Nat)) (n : Nat) : List Nat :=
  let k := s.trussKids gid n
  k ++ ((alts.map (·.1)).eraseDups.filter (fun a => a < 84 && nodeParent a == n && !k.contains a))

/-- Whom a node waits for: its children but those that use an alternate, and those that name it; nobody who has nothing to send. -/
def State.trussWaits (s : State) (gid : Nat) (alts : List (Nat × Nat)) (n : Nat) : Nat → List Nat
  | 0 => []
  | fuel + 1 =>
    ((s.kidsWith gid alts n).filter (fun c => !(alts.any (fun a => a.2 == c))) ++ (alts.filter (fun a => a.1 == n)).map (·.2)).filter (fun c =>
      1000 ≤ c || !(s.trussWaits gid alts c fuel).isEmpty)

/-- Something of a chunk passes a node, or comes from a leaf. -/
def State.onPath (s : State) (gid : Nat) (alts : List (Nat × Nat)) (n : Nat) : Bool :=
  if n < 85 then !(s.trussWaits gid alts n 5).isEmpty else (s.trussKids gid (nodeParent n)).contains n

/-- The nodes of a group whose path has failed and that have an alternate, with it (06: R168); the others have no path. -/
def State.altsFor (s : State) (gid : Nat) : List (Nat × Nat) :=
  (s.trussBad.filter (fun n => n < 85 && s.onPath gid [] n)).filterMap (fun n => (s.altOf gid n).map (·, n))

def State.waitsFor (s : State) (gid : Nat) (alts : List (Nat × Nat)) (n : Nat) : List Nat :=
  s.trussWaits gid alts n 5 ++ (if n == 84 && s.trussRoot gid then (s.trussRemote gid).map (2000 + ·) else [])

/-! ## Contributions (06: R161, R163, R164) -/

/-- Element size of an operator (12: R302). -/
def trussElem (op : Nat) : Nat := if op < 4 then 4 else if op == 5 || op == 6 then 8 else 1

def elemsOf (es : Nat) (b : List Byte) : Nat → List Nat
  | 0 => []
  | n + 1 => if b.isEmpty then [] else natOfBytes (b.take es) :: elemsOf es (b.drop es) n

/-- A chunk's f32 elements, completed to whole blocks. -/
def blocksOf (b : List Byte) : List (List Nat) :=
  let x := elemsOf 4 b (b.length / 4)
  let x := x ++ List.replicate ((16 - x.length % 16) % 16) 0
  (List.range (x.length / 16)).map (fun i => (x.drop (16 * i)).take 16)

def optMax (a b : Option Int) : Option Int :=
  match a, b with
  | some x, some y => some (max x y)
  | some x, none => some x
  | none, y => y
def optMin (a b : Option Nat) : Option Nat :=
  match a, b with
  | some x, some y => some (min x y)
  | some x, none => some x
  | none, y => y

def f32Finite (x : Nat) : Bool := !fmtF32.isNaN x && !fmtF32.isInf x

/-- The local exponent of a block: none when it has no finite non-zero element. -/
def blockExp (l : List Nat) : Option Int :=
  (l.filter (fun x => f32Finite x && !fmtF32.isZero x)).foldl (fun acc x =>
    let d := fmtF32.val x
    optMax acc (some ((log2 d.m.natAbs : Int) + d.e))) none

/-- `TrussQuantise` (06: R164). -/
def trussQuantise (e : Option Int) (x : Nat) : Int :=
  match e with
  | none => 0
  | some e =>
    if f32Finite x then
      let d := fmtF32.val x
      let m := roundMag 0 (d.m < 0) d.m.natAbs (d.e + 29 - e) 0
      if d.m < 0 then -(m : Int) else m
    else 0

def trussCls (x : Nat) : BitVec 3 :=
  if fmtF32.isNaN x then 1 else if fmtF32.isInf x then (if fmtF32.sign x then 4 else 2) else 0

/-- Least `NanKey` of the NaN elements of a block. -/
def blockKey (l : List Nat) : Option Nat := (l.filter fmtF32.isNaN).foldl (fun acc x => optMin acc (some (nanKey x))) none

/-- What a source sends in phase 1. -/
def payExp (len : Nat) (b : List Byte) : TPay := ⟨len, 0, (blocksOf b).map blockExp, [], [], []⟩

/-- What a source sends in phase 2 of an `FSUM`, given the block exponents, and for every other operator. -/
def payVal (op len src : Nat) (ex : List (Option Int)) (b : List Byte) : TPay :=
  let xs := elemsOf (trussElem op) b b.length
  match op with
  | 0 =>
    let bl := blocksOf b
    ⟨len, src, [], (bl.zip ex).flatMap (fun p => p.1.map (trussQuantise p.2)), bl.flatMap (fun l => l.map trussCls), bl.map blockKey⟩
  | 1 => ⟨len, src, [], xs.map (fun x => sxt x 32), [], []⟩
  | 2 => ⟨len, src, [], xs.map Int.ofNat, xs.map trussCls, xs.map (fun x => blockKey [x])⟩
  | 3 => ⟨len, src, [], xs.map Int.ofNat, xs.map trussCls, xs.map (fun x => blockKey [x])⟩
  | _ => ⟨len, src, [], xs.map Int.ofNat, [], []⟩

/-! ## Combination (06: R161, R163-R165) -/

def zipBy {α : Type} (f : α → α → α) : List α → List α → List α
  | [], y => y
  | x, [] => x
  | a :: x, b :: y => f a b :: zipBy f x y

/-- One element of `FMAX` or `FMIN`: a NaN gives way to a number. -/
def pickNum (f : Nat → Nat → Nat) (a b : Int) : Int :=
  let x := a.toNat
  let y := b.toNat
  if fmtF32.isNaN x then b else if fmtF32.isNaN y then a else (f x y : Int)

def payComb (op : Nat) (p q : TPay) : TPay :=
  if op == 7 then (if q.src < p.src then q else p)
  else
    let f : Int → Int → Int := match op with
      | 0 => (· + ·)
      | 1 => (· + ·)
      | 2 => pickNum fmtF32.max
      | 3 => pickNum fmtF32.min
      | 4 => max
      | 5 => fun a b => (a.toNat ||| b.toNat : Nat)
      | _ => fun a b => (a.toNat &&& b.toNat : Nat)
    ⟨p.len, min p.src q.src, zipBy optMax p.ex q.ex, zipBy f p.sum q.sum, zipBy (· ||| ·) p.cls q.cls, zipBy optMin p.nk q.nk⟩

/-- An element of an `FSUM` at the root (06: R165). -/
def fsumElem (e : Option Int) (m : Int) (c : BitVec 3) (k : Option Nat) : Nat :=
  if c.getLsbD 0 then 0x7FC00000 ||| k.getD 0
  else if c.getLsbD 1 && c.getLsbD 2 then 0x7FC00000
  else if c.getLsbD 1 then fmtF32.inf false
  else if c.getLsbD 2 then fmtF32.inf true
  else if m == 0 then 0
  else fmtF32.round 0 false ⟨m, e.getD 0 - 29⟩

/-- The result at the root, as element patterns. -/
def payResult (op : Nat) (ex : List (Option Int)) (p : TPay) : TPay :=
  let n := p.sum.length
  let out : List Int := match op with
    | 0 => (List.range n).map (fun i =>
        (fsumElem (ex.getD (i / 16) none) (p.sum.getD i 0) (p.cls.getD i 0) (p.nk.getD (i / 16) none) : Int))
    | 1 => p.sum.map (fun x => x % 2 ^ 32)
    | 2 => (List.range n).map (fun i =>
        let x := (p.sum.getD i 0).toNat
        if fmtF32.isNaN x then ((0x7FC00000 ||| (p.nk.getD i none).getD 0 : Nat) : Int) else x)
    | 3 => (List.range n).map (fun i =>
        let x := (p.sum.getD i 0).toNat
        if fmtF32.isNaN x then ((0x7FC00000 ||| (p.nk.getD i none).getD 0 : Nat) : Int) else x)
    | _ => p.sum
  { p with sum := out }

/-! ## Collectives and chunks -/

def collKey (sid gid : Nat) : Nat := sid * 1024 + gid
def chunkKey (gid : Nat) (gen : BitVec 4) (c : Nat) : Nat := (gid * 16 + gen.toNat) * 1024 + c
def State.collOf (s : State) (sid gid : Nat) : Option Coll := Tbl.find s.colls (collKey sid gid)
def State.setColl (s : State) (sid gid : Nat) (x : Coll) : State := { s with colls := Tbl.put s.colls (collKey sid gid) x }
def State.dropColl (s : State) (sid gid : Nat) : State := { s with colls := Tbl.del s.colls (collKey sid gid) }
/-- Collectives of a strand, by group. -/
def State.collsOf (s : State) (sid : Nat) : List (Nat × Coll) :=
  (s.colls.filter (fun p => p.1 / 1024 == sid)).map (fun p => (p.1 % 1024, p.2))
/-- Strands of a group in a collective. -/
def State.sidsIn (s : State) (gid : Nat) : List Nat := (s.colls.filter (fun p => p.1 % 1024 == gid && p.2.st == 0)).map (·.1 / 1024)

def chunksOf (len : Nat) : Nat := (len + 4095) / 4096
def chunkLen (len c : Nat) : Nat := min 4096 (len - 4096 * c)

/-- The group is still what the collective began on (06: R169). -/
def State.groupLive (s : State) (gid : Nat) (x : Coll) : Bool :=
  let e := s.trussEntry (clusterNode x.tile) gid
  entValid e && entGen e == x.gen

/-- Source bytes of a chunk: the read finds the newest of each, as every write that comes before `TRSPUT` is. -/
def State.chunkBytes (s : State) (x : Coll) (c : Nat) : List Byte × State :=
  (s.rdBytes (x.src + 4096 * c) (chunkLen x.len c),
    match s.olds with
    | [] => s
    | _ => s.settleKeys ((List.range (chunkLen x.len c)).map (x.src + 4096 * c + ·)))

def State.chunkOf (s : State) (gid : Nat) (gen : BitVec 4) (c : Nat) : TChunk := Tbl.get s.chunks (chunkKey gid gen c) ⟨s.cycle, 0, [], [], []⟩
def State.setChunk (s : State) (gid : Nat) (gen : BitVec 4) (c : Nat) (k : TChunk) : State :=
  { s with chunks := Tbl.put s.chunks (chunkKey gid gen c) k }

/-- A packet from `from_` to `node`; one whose way or node has failed is lost. -/
def State.sendPktTo (s : State) (node from_ gid : Nat) (gen : BitVec 4) (c tries phase : Nat) (ptag : BitVec 12) (pay : TPay) : State :=
  if 1000 ≤ node && s.trussBad.contains node || 1000 ≤ from_ && from_ < 2000 && s.trussBad.contains from_ || s.trussDead.contains node then s
  else s.putPkt ⟨node, from_, gid, gen, c, tries, phase, ptag, pay, s.cycle, nodeDie from_, none⟩

/-- A leaf sends its first packet of a chunk: exponents for `FSUM`, values otherwise. DESIGN CHOICE (log 71): `CHILD` orders the leaves of one
module, and R161 does not order the modules of a group; the lowest path of a `BCAST` is that of the lowest package id. -/
def State.contribute (s : State) (gid c : Nat) (x : Coll) : State :=
  let t := x.tile
  let e := s.trussEntry (clusterNode t) gid
  let (b, s) := s.chunkBytes x c
  let pay := if entOp e == 0 then payExp x.len b else payVal (entOp e) x.len (s.pkg.toNat * 1024 + leafPath t) [] b
  let k := s.chunkOf gid x.gen c
  (s.setChunk gid x.gen c k).sendPktTo (clusterNode t) (1000 + t) gid x.gen c k.tries (if entOp e == 0 then 1 else 2) x.ptag pay

/-! ## Ends of collectives -/

/-- The partials of a group go. -/
def State.dropParts (s : State) (gid : Nat) : State := { s with chunks := s.chunks.filter (fun p => p.1 / 16384 != gid) }
/-- A collective of a generation is over: its packets as well. -/
def State.dropChunks (s : State) (gid : Nat) (gen : BitVec 4) : State :=
  { s.dropParts gid with
    packets := s.packets.filter (fun p => !(p.2.gid == gid && p.2.gen == gen)),
    heldPkts := s.heldPkts.filter (fun h => !(h.msg.kind == 7 && h.msg.data.take 2 == [BitVec.ofNat 64 gid, gen.setWidth 64])) }
/-- What is on its way of a chunk, or waits at a port for it. -/
def State.dropChunk (s : State) (gid : Nat) (gen : BitVec 4) (c : Nat) : State :=
  { s with
    packets := s.packets.filter (fun p => !(p.2.gid == gid && p.2.gen == gen && p.2.chunk == c)),
    heldPkts := s.heldPkts.filter (fun h =>
      !(h.msg.kind == 7 && h.msg.data.take 3 == [BitVec.ofNat 64 gid, gen.setWidth 64, BitVec.ofNat 64 c])) }

/-- Every participant's collective on a group gets a status. -/
def State.endColls (s : State) (gid st : Nat) : State :=
  (s.sidsIn gid).foldl (fun s sid => match s.collOf sid gid with
    | some x => s.setColl sid gid { x with st := st }
    | none => s) (s.dropChunks gid (entGen (s.trussEntry 84 gid)))

/-- The buffers that a collective names. -/
def Coll.names (x : Coll) (k : Nat) : Bool := (x.src ≤ k && k < x.src + x.len) || (x.dst ≤ k && k < x.dst + x.len)

/-- A collective completes: a release and an acquire by every participant, for the named buffers only (03: R100, R109). -/
def State.collSync (s : State) (gid : Nat) : State :=
  let sids := s.sidsIn gid
  let xs := sids.filterMap (fun p => s.collOf p gid)
  s.learnCells (sids.map .strand) (fun k => xs.any (fun x => x.names k)) (fun o => o.who.party == .truss || sids.any (fun p => o.knows (.strand p)))

def State.endDone (s : State) (gid : Nat) : State := (s.collSync gid).endColls gid 1

/-- Words of a payload in a message to another module: its lists one after another, each behind its length. -/
def payWords (p : TPay) : List Word :=
  let ints (l : List Int) : List Word := BitVec.ofNat 64 l.length :: l.map (BitVec.ofInt 64)
  let opts (l : List (Option Int)) : List Word := ints (l.map (fun x => x.getD (-1000)))
  BitVec.ofNat 64 p.len :: BitVec.ofNat 64 p.src :: (opts p.ex ++ ints p.sum ++ ints (p.cls.map (fun c => (c.toNat : Int))) ++
    opts (p.nk.map (fun x => x.map Int.ofNat)))

def emptyPay (len : Nat) : TPay := ⟨len, 0, [], [], [], []⟩

/-- A message between module roots (06: R158; 19: R393), with the source number of die 0's truss root (19: R396). -/
def State.trussEmit (s : State) (pkg gid : Nat) (gen : BitVec 4) (c phase : Nat) (p : TPay) : State :=
  s.trySend 1040 ⟨7, pkg, BitVec.ofNat 12 (entPtag (s.trussEntry 84 gid)),
    [BitVec.ofNat 64 gid, gen.setWidth 64, BitVec.ofNat 64 c, BitVec.ofNat 64 phase] ++ payWords p⟩

/-- To every other module of the group. -/
def State.trussTell (s : State) (gid : Nat) (gen : BitVec 4) (c phase : Nat) (p : TPay) : State :=
  if s.trussRoot gid then (s.trussRemote gid).foldl (fun s k => s.trussEmit k gid gen c phase p) s else s

/-- The number that stands for every chunk in the messages between module roots. -/
def allChunks : Nat := 1024

/-- A collective fails: event COLL_FAILED to the pitch with the group and the chunk (06: R168; 12: R303). DESIGN CHOICE (log 71): R168 speaks of
the pitch; a group tagged with a shared set uses the set tag's own `PTRSTO` and `PEVLOG`. -/
def State.collFail (s : State) (gid c : Nat) : State :=
  let e := s.trussEntry 84 gid
  let s := s.trussTell gid (entGen e) c 7 (emptyPay 0)
  (s.endColls gid 6).evLog 0 (entPtag e) 4 0xFFFF 0 (BitVec.ofNat 64 gid) (BitVec.ofNat 64 c)

/-- What every collective of this module's strands on a group that is in progress satisfies. A result needs every participant's contribution, so
those that are not here have been withdrawn (20: R406). -/
def State.collsAll (s : State) (gid : Nat) (f : Coll → Bool) : Bool := s.colls.all (fun p => p.1 % 1024 != gid || p.2.st != 0 || f p.2)

/-- Every participant of this module has its results and has acknowledged (06: R167). -/
def State.localDone (s : State) (gid : Nat) : Bool :=
  s.collsAll gid (fun x => x.acked && (List.range (chunksOf x.len)).all x.got.contains)

/-- The collective completes once every participant everywhere is done, and every chunk acknowledged. -/
def State.collCheck (s : State) (gid : Nat) : State :=
  match Tbl.find s.groups gid with
  | none => s
  | some g =>
    let gen := entGen (s.trussEntry 84 gid)
    if !s.localDone gid then s
    else if s.trussRoot gid then
      if (s.trussRemote gid).all g.remote.contains && s.chunks.all (fun p => p.1 / 1024 != gid * 16 + gen.toNat) then
        let s := (s.trussTell gid gen allChunks 6 (emptyPay 0)).endDone gid
        { s with groups := Tbl.put s.groups gid { g with remote := [] } }
      else s
    else s.trussEmit g.endp.toNat gid gen allChunks 5 (emptyPay 0)

/-- The acknowledgement of a chunk (06: R167): nothing is kept of it any more. -/
def State.chunkAcked (s : State) (gid : Nat) (gen : BitVec 4) (c : Nat) : State :=
  (({ s with chunks := Tbl.del s.chunks (chunkKey gid gen c) }).dropChunk gid gen c).collCheck gid

/-- A participant has a chunk's result. Once every one of this module has it, the root hears of it; it acknowledges the chunk when every module's
have (06: R167). -/
def State.chunkCheck (s : State) (gid : Nat) (gen : BitVec 4) (c : Nat) : State :=
  if !s.collsAll gid (fun x => x.got.contains c) then s
  else if s.trussRoot gid then
    if (Tbl.find s.chunks (chunkKey gid gen c)).isSome && (s.trussRemote gid).all (s.chunkOf gid gen c).told.contains then
      (s.trussTell gid gen c 6 (emptyPay 0)).chunkAcked gid gen c
    else s
  else match Tbl.find s.groups gid with
    | some g => s.trussEmit g.endp.toNat gid gen c 5 (emptyPay 0)
    | none => s

/-! ## Packets (06: R162, R168) -/

/-- A packet goes from a node to those it waits for. -/
def State.trussDown (s : State) (gid : Nat) (gen : BitVec 4) (c n phase : Nat) (ptag : BitVec 12) (p : TPay) : State :=
  let k := s.chunkOf gid gen c
  (s.trussWaits gid k.alts n 5).foldl (fun s m => s.sendPktTo m n gid gen c k.tries phase ptag p) s

def TChunk.part (k : TChunk) (n phase : Nat) : Option TPart := k.parts.find? (fun p => p.node == n && p.phase == phase)
def TChunk.setPart (k : TChunk) (p : TPart) : TChunk :=
  { k with parts := p :: k.parts.filter (fun q => !(q.node == p.node && q.phase == p.phase)) }

/-- What the root does with a whole phase: broadcast the exponents, or finish and broadcast the result. -/
def State.trussFinish (s : State) (gid : Nat) (gen : BitVec 4) (c phase : Nat) (ptag : BitVec 12) (p : TPay) : State :=
  let op := entOp (s.trussEntry 84 gid)
  let k := s.chunkOf gid gen c
  if phase == 1 then
    let s := s.setChunk gid gen c (k.setPart ⟨84, 3, [], p⟩)
    (s.trussTell gid gen c 3 p).trussDown gid gen c 84 3 ptag p
  else
    let ex := ((k.part 84 3).map (fun x => x.pay.ex)).getD []
    let r := payResult op ex p
    let s := s.setChunk gid gen c (k.setPart ⟨84, 4, [], r⟩)
    (s.trussTell gid gen c 4 r).trussDown gid gen c 84 4 ptag r

/-- A node combines a contribution; when it has all, it sends its partial on. -/
def State.trussUp (s : State) (x : TPkt) : State :=
  let op := entOp (s.trussEntry x.node x.gid)
  let k := s.chunkOf x.gid x.gen x.chunk
  let old := k.part x.node x.phase
  if (old.map (fun p => p.froms.contains x.from_)).getD false then s
  else if (old.map (fun p => p.pay.len != x.pay.len)).getD false then s.collFail x.gid x.chunk
  else
    let part : TPart := match old with
      | none => ⟨x.node, x.phase, [x.from_], x.pay⟩
      | some p => ⟨x.node, x.phase, x.from_ :: p.froms, payComb op p.pay x.pay⟩
    let k := k.setPart part
    let s := s.setChunk x.gid x.gen x.chunk k
    if !((s.waitsFor x.gid k.alts x.node).all part.froms.contains) then s
    else if x.node != 84 then
      let up := match k.alts.find? (fun a => a.2 == x.node) with
        | some a => some a.1
        | none => if s.trussBad.contains x.node then none else some (nodeParent x.node)
      match up with
      | some n => s.sendPktTo n x.node x.gid x.gen x.chunk x.try_ x.phase x.ptag part.pay
      | none => s
    else if s.trussRoot x.gid then s.trussFinish x.gid x.gen x.chunk x.phase x.ptag part.pay
    else s.trussEmit (((Tbl.find s.groups x.gid).map (fun g => g.endp.toNat)).getD 0) x.gid x.gen x.chunk x.phase part.pay

/-- The strand of a tile with a collective on a group. -/
def State.sidOnTile (s : State) (t gid : Nat) : Option Nat := (s.sidsIn gid).find? (fun sid => (s.collOf sid gid).any (·.tile == t))

/-- The truss network as a writer of results. -/
def trussWho : Who := ⟨.truss, none, none, none⟩

/-- A packet reaches a leaf: the exponents call for phase 2; a result is written to the buffer in 4-byte words, in no order (12: R304). -/
def State.trussLeaf (s : State) (x : TPkt) : State :=
  let t := x.node - 1000
  match s.sidOnTile t x.gid with
  | none => s
  | some sid => match s.collOf sid x.gid with
    | none => s
    | some y =>
      if x.phase == 3 then
        let (b, s) := s.chunkBytes y x.chunk
        let pay := payVal 0 y.len (s.pkg.toNat * 1024 + leafPath t) x.pay.ex b
        s.sendPktTo (clusterNode t) (1000 + t) x.gid x.gen x.chunk x.try_ 2 x.ptag pay
      else
        let es := trussElem (entOp (s.trussEntry (clusterNode t) x.gid))
        let b := (x.pay.sum.flatMap (fun v => bytesLE (v % 2 ^ (8 * es)).toNat es)).take (chunkLen y.len x.chunk)
        let s := s.putUnits trussWho false (wordUnits 4 b.length (cellsAt (y.dst + 4096 * x.chunk) b))
        ((s.setColl sid x.gid { y with got := insertNat x.chunk y.got }).chunkCheck x.gid x.gen x.chunk).collCheck x.gid

/-- A packet at a node or leaf. One that has been on its way for 2^20 cycles is dropped. -/
def State.trussAt (s : State) (x : TPkt) : State :=
  let e := s.trussEntry (if 1000 ≤ x.node then clusterNode (x.node - 1000) else x.node) x.gid
  if !entValid e || entGen e != x.gen || x.sent.toNat + 2 ^ 20 ≤ s.cycle.toNat then s.trussDrop x.ptag
  else if x.try_ != (s.chunkOf x.gid x.gen x.chunk).tries then s
  else if 1000 ≤ x.node then s.trussLeaf x
  else if x.phase ≤ 2 then s.trussUp x
  else s.trussDown x.gid x.gen x.chunk x.node x.phase x.ptag x.pay

/-- `TRUSS_PACKET`: it is at its node once no flit carries it any more. One that a failed way has lost is dropped within the limit. -/
def execTrussPacket (n : Nat) (s : State) : Out :=
  match Tbl.find s.packets n with
  | none => .next s
  | some x =>
    let late := x.sent.toNat + 2 ^ 20 ≤ s.cycle.toNat
    .next (if x.via.isSome && !late then s else ({ s with packets := Tbl.del s.packets n }).trussAt x)

/-- Some link of a chunk's path has failed: of the tree as the chunk uses it, or a way over viaducts to an alternate. -/
def State.pathBad (s : State) (gid : Nat) (k : TChunk) : Bool :=
  s.trussBad.any (fun n => s.onPath gid k.alts n && !(k.alts.any (fun a => a.2 == n))) ||
    k.alts.any (fun a => s.onPath gid k.alts a.2 && !s.reach (nodeDie a.2) (nodeDie a.1))

/-- Every participant of this module sends a chunk again, over the alternate tree. -/
def State.redoHere (s : State) (gid : Nat) (gen : BitVec 4) (c : Nat) : State :=
  let k := s.chunkOf gid gen c
  let s := (s.setChunk gid gen c ⟨s.cycle, k.tries + 1, [], s.altsFor gid, []⟩).dropChunk gid gen c
  (s.sidsIn gid).foldl (fun s sid => match s.collOf sid gid with
    | some x => if c < chunksOf x.len then s.contribute gid c x else s
    | none => s) s

/-- The root redoes a chunk; after two failed retries the collective fails. -/
def State.chunkRedo (s : State) (gid c : Nat) : State :=
  let gen := entGen (s.trussEntry 84 gid)
  match Tbl.find s.chunks (chunkKey gid gen c) with
  | none => s
  | some k => if 2 ≤ k.tries then s.collFail gid c else (s.trussTell gid gen c 0 (emptyPay 0)).redoHere gid gen c

/-- A scale-up port is down: it was a link on the path of the groups whose other modules' roots it led to (06: R168). -/
def State.trussPortLost (s : State) (port : Nat) : State :=
  let hit (gid : Nat) : Bool := s.trussRoot gid && (s.trussRemote gid).any (fun p => s.portFor 1040 p == some port)
  ((s.chunks.map (·.1)).filter (fun k => hit (k / 16384))).foldl (fun s k => s.chunkRedo (k / 16384) (k % 1024)) s

/-! ### Failed nodes and links (06: R160) -/

/-- `ALTPAR` of a cluster or quadrant node: the first sibling of its parent that works and reaches their parent; the parent's own
number when none does. -/
def State.altIndex (s : State) (n : Nat) : Nat :=
  let par := nodeParent n
  let p := childNo par
  if n == 84 || n % 21 == 20 then 0
  else
    let ok (k : Nat) : Bool :=
      let m := nodeChild (nodeParent par) k
      !s.trussBad.contains m && !s.trussDead.contains m && (n % 21 < 16 || s.reach (n / 21) (m / 21))
    ((([1, 2, 3] : List Nat).map (p ^^^ ·)).find? ok).getD p

/-- Casquin writes `ALTPAR` in every node of a group, and an entry without children in each node that one names. -/
def State.writeAlts (s : State) (gid : Nat) : State :=
  let ns := (List.range 84).filter (fun n => entValid (s.trussEntry n gid) && n % 21 != 20)
  ns.foldl (fun s n =>
    let a := s.altIndex n
    let e := s.trussEntry n gid
    let m := nodeChild (nodeParent (nodeParent n)) a
    let s : State := { s with truss := Tbl.put s.truss (n * 1024 + gid) (setBits e 32 4 a) }
    if entValid (s.trussEntry m gid) then s
    else { s with truss := Tbl.put s.truss (m * 1024 + gid) (setBits (setBits e 32 4 (if m % 21 == 20 then 0 else childNo (nodeParent m))) 16 16 0) }) s

/-- A node or link has failed or returned. -/
def State.rewriteAlts (s : State) : State := ((s.groups.filter (fun g => g.2.freed.isNone)).map (·.1)).foldl State.writeAlts s

/-- The tree as it now is: the nodes and leaves whose link to their parent has failed, and the nodes that do not work. A failed node takes the
paths of its children with it. The die roots' own paths are the viaducts'. -/
def State.treeLinks (s : State) (links nodes : List Nat) : State :=
  let dead := nodes.filter (fun n => n < 84)
  let own := (links ++ dead).filter (fun n => n < 84 && n % 21 != 20 || 1000 ≤ n && n < 2024)
  let below := dead.flatMap (fun n => (List.range (if n % 21 < 16 then 16 else 4)).map (nodeChild n))
  ({ s with trussBad := ((s.trussBad.filter (fun n => n < 84 && n % 21 == 20)) ++ own ++ below).eraseDups, trussDead := dead }).rewriteAlts

/-- `CHUNK_REDO` (06: R168): `TRSTIMEO` cycles have passed without a result at the root, or a link of the path has failed; `fail` says
which links and nodes of the tree have failed, when that has changed. -/
def execChunkRedo (gid : Nat) (chunk : ChunkFail) (s : State) : Out :=
  let s := match chunk.fail with
    | some (l, n) => s.treeLinks l n
    | none => s
  match Tbl.find s.chunks (chunkKey gid (entGen (s.trussEntry 84 gid)) chunk.chunk) with
  | none => .next s
  | some k =>
    let lim := (s.pitch (entPtag (s.trussEntry 84 gid))).ptrsto.toNat
    let late := k.first.toNat + lim ≤ s.cycle.toNat && (k.part 84 4).isNone
    .next (if s.trussRoot gid && (late || s.pathBad gid k) then s.chunkRedo gid chunk.chunk else s)

/-- A message of another module's root (06: R158). -/
def State.trussMsg (s : State) (src gid : Nat) (gen : BitVec 4) (c phase : Nat) (ptag : BitVec 12) (p : TPay) : State :=
  let e := s.trussEntry 84 gid
  let up (ph : Nat) : State := s.trussUp ⟨84, 2000 + src, gid, gen, c, (s.chunkOf gid gen c).tries, ph, ptag, p, s.cycle, 0, none⟩
  if !entValid e || entGen e != gen then s.trussDrop ptag
  else match phase with
    | 0 => s.redoHere gid gen c
    | 1 => up 1
    | 2 => up 2
    | 3 => s.trussDown gid gen c 84 3 ptag p
    | 4 => s.trussDown gid gen c 84 4 ptag p
    | 5 =>
      if c != allChunks then
        let k := s.chunkOf gid gen c
        if (Tbl.find s.chunks (chunkKey gid gen c)).isSome then (s.setChunk gid gen c { k with told := insertNat src k.told }).chunkCheck gid gen c else s
      else match Tbl.find s.groups gid with
        | some g => ({ s with groups := Tbl.put s.groups gid { g with remote := insertNat src g.remote } }).collCheck gid
        | none => s
    | 6 => if c == allChunks then s.endDone gid else s.chunkAcked gid gen c
    | _ => s.endColls gid 6

/-! ## The instructions (12: R302-R307) -/

/-- Whether a strand may use a group's entry. -/
def State.ownsGroup (s : State) (e : Word) (p : BitVec 12) : Bool := entValid e && s.tagAdmits (entPtag e) p.toNat

def execTrsput (d : BitVec 5) (gid : BitVec 10) (a b c : BitVec 5) (s : State) : Out :=
  let g := gid.toNat
  let t := s.myTile
  let src := s.g a
  let dst := s.g b
  let len := (s.g c).toNat
  (s.spanBreak s.sid).afterSums (fun s =>
  let s := s.drain s.sid allKinds
  let e := s.trussEntry (clusterNode t) g
  if !(s.ownsGroup e s.me.ptag && entChild e (childNo (1000 + t))) then s.ret d 1
  else match s.localRange s.sid src len, s.localRange s.sid dst len with
    | some ks, some kd =>
      if ks < kd + len && kd < ks + len then s.ret d 2
      else if len == 0 || 2 ^ 22 < len || len % trussElem (entOp e) != 0 then s.ret d 3
      else if (s.collOf s.sid g).isSome || 4 ≤ (s.collsOf s.sid).length || s.colls.any (fun p => p.1 % 1024 == g && p.2.tile == t) then
        s.ret d 4
      else
        let x : Coll := ⟨entGen e, t, s.me.ptag, ks, kd, len, [], false, 0⟩
        let sid := s.sid
        let s := s.setColl sid g x
        ((List.range (chunksOf len)).foldl (fun s i => s.contribute g i x) s).ret d 0
    | _, _ => s.ret d 2)

/-- Where a strand's collective stands for `TRSGET`: a status, or none while results are outstanding. -/
def State.trsStatus (s : State) (sid gid : Nat) : Option Nat :=
  match s.collOf sid gid with
  | none => some 7
  | some x =>
    if !s.groupLive gid x then some 1
    else if x.st == 6 then some 6
    else if (List.range (chunksOf x.len)).all x.got.contains then some 0 else none

/-- The acquire at `TILE` of what the network wrote to a strand's result buffer; the scalar read buffer goes as at every acquire (03: R90,
12: R305). -/
def State.collSeen (s : State) (sid gid : Nat) : State :=
  ((s.collOf sid gid).elim s (fun x => s.learnCells [.strand sid] x.names (fun o => o.who.party == .truss))).dropSrb (sidTile sid)

def State.trsget (s : State) (d : BitVec 5) (gid : Nat) (pending : State → Out) : Out :=
  match s.trsStatus s.sid gid with
  | some 0 => (s.collSeen s.sid gid).ret d 0
  | some st => s.ret d (BitVec.ofNat 64 st)
  | none => pending s

def execTrsget (d : BitVec 5) (gid : BitVec 10) (s : State) : Out :=
  s.trsget d gid.toNat (fun s => .next (s.block (.trget gid.toNat)))
def execTrsgetP (d : BitVec 5) (gid : BitVec 10) (s : State) : Out := s.trsget d gid.toNat (fun s => s.ret d 5)

/-- Acknowledge a collective. -/
def State.collAck (s : State) (sid gid : Nat) : State :=
  match s.collOf sid gid with
  | some x => if x.acked then s else (s.setColl sid gid { x with acked := true }).collCheck gid
  | none => s

/-- How an acknowledged collective has ended: a status, or none. -/
def State.ackStatus (s : State) (sid gid : Nat) : Option Nat :=
  match s.collOf sid gid with
  | none => some 7
  | some x => if !s.groupLive gid x then some 1 else if x.st == 1 then some 0 else if x.st == 6 then some 6 else none

def execTrsack (d a : BitVec 5) (s : State) : Out :=
  let gid := bitsOf (s.g a) 0 10
  let s := s.collAck s.sid gid
  match s.ackStatus s.sid gid with
  | none => .next (s.block .coll)
  | some 7 => s.ret d 7
  | some st => ((s.dropColl s.sid gid).dropSrb s.myTile).ret d (BitVec.ofNat 64 st)

/-- The group's entry at a level of the tree. -/
def execTrsstat (d a : BitVec 5) (lvl : BitVec 6) (s : State) : Out :=
  let t := s.myTile
  let n := match lvl.toNat with
    | 0 => clusterNode t
    | 1 => quadNode t
    | 2 => rootNode t
    | _ => 84
  let e := s.trussEntry n (bitsOf (s.g a) 0 10)
  s.ret d (if s.tagAdmits (entPtag e) s.me.ptag.toNat then e else 0)

end Sys2Proof.Machine
end

