-- ==== Sys2Proof/Machine/Ends.lean ====
section
/-! DEFINITION. Ends.lean: the ends of strands, invocations and records: `TRET`, `RECSEAL`, write-backs, retirement, partial retirement,
and strands stopped without exit (01: R29, R36, R50, R51; 02: R62; 13: R313, R326; 20: R406). -/

namespace Sys2Proof.Machine

/-! ## Saves: requests and events (18: R382, R384, R388; 20: R418) -/

/-- Size of the image of a record's strands. -/
def imageSize (size : Nat) : Nat := 0x80000 + size

/-- Address of a strand's image. -/
def State.imageAddr (s : State) (sid : Nat) : Word :=
  let t := s.strand sid
  let r := s.recOf t.rk
  r.save + BitVec.ofNat 64 ((t.inv * r.tilesN + t.ctile) * imageSize t.size)

/-- A service-core event of a save. -/
def State.saveEvent (s : State) (sid kind : Nat) (data : List Byte) : State :=
  let t := s.strand sid
  s.coreEvent (t.saveCore.getD (quadCore (sidTile sid))) kind t.ptag.toNat data

/-- `CONTEXT_SAVE_FAULT`, to the service core and the pitch. -/
def State.saveFaultEvent (s : State) (sid : Nat) (c : Cause) (addr : Word) : State :=
  let s := s.saveEvent sid 0x21 (bytesLE (tileField sid) 2 ++ List.replicate 6 0 ++ bytesLE (s.strand sid).tref.toNat 8 ++
    bytesLE addr.toNat 8 ++ bytesLE c.toNat 1)
  s.evLogOf sid 8 addr 0

/-- `SAVE_DONE`: 0 saved, 1 retired before the save. -/
def State.saveDoneEvent (s : State) (sid st : Nat) : State :=
  s.saveEvent sid 0x20 (bytesLE (tileField sid) 2 ++ bytesLE st 2 ++ List.replicate 4 0 ++ bytesLE (s.strand sid).tref.toNat 8 ++
    bytesLE (s.imageAddr sid).toNat 8)

/-- A cause of a walker fault where the spec states none (07: R193; log 28). -/
def State.anyFault (s : State) : Cause := ([cXlateMiss, cXlatePerm, cPtagViolation, cBounds] : List Cause).getD ((s.free 0).toNat % 4) cXlateMiss

/-- Receive ends of a strand being saved grant no credit. -/
def State.setAway (s : State) (sid : Nat) (b : Bool) : State :=
  (s.recvEnds sid).foldl (fun s i => s.updChan (s.endOf sid i).chan (fun c => { c with away := b })) s

/-- A save is requested. -/
def State.requestSave (s : State) (sid : Nat) (core : Option Nat) : State :=
  let t := s.strand sid
  let s := s.updStrand sid (fun t => { t with saveCore := core })
  if (s.recOf t.rk).save == 0 then s.saveFaultEvent sid (s.anyFault) 0
  else
    let s := (s.spanBreak sid).updStrand sid (fun t => { t with scstate := 4, saveReq := some s.cycle, saveForced := false })
    (s.setAway sid true).updInv t.rk t.inv (fun x => { x with st := .saving, since := s.cycle })

/-- Saves outstanding on a die. -/
def State.savesOn (s : State) (die : Nat) : Nat :=
  (s.strands.filter (fun p => p.1 < 4096 && p.2.scstate == 4 && sidDie p.1 == die)).length

/-- Its receive ends take again, and markers that waited for them go out. -/
def State.grantAgain (s : State) (sid : Nat) : State := (s.recvEnds sid).foldl (fun s i => s.flushDue (s.endOf sid i).chan) s

/-- A tile that is being withdrawn (20: R418): saves of its strands are asked for; when none is left it goes out of service. -/
def State.withdrawTile (s : State) (tile : Nat) : State :=
  if !(s.tile tile).going then s
  else
    let sids := (List.range 4).map (fun i => i * 1024 + tile)
    let s := sids.foldl (fun s sid =>
      let t := s.strand sid
      if (t.scstate == 1 || t.scstate == 2) && (s.recOf t.rk).save != 0 && s.savesOn (sidDie sid) < 4 then
        s.requestSave sid (some (quadCore tile)) else s) s
    if sids.all (fun sid => !(s.strand sid).live) then s.updTile tile (fun t => { t with insvc := false, going := false }) else s

/-- The tiles of a die that are being withdrawn: a save or a strand has ended there. -/
def State.withdrawDie (s : State) (die : Nat) : State :=
  ((s.tiles.filter (fun p => p.2.going && p.1 / 256 == die)).map (·.1)).foldl State.withdrawTile s

/-! ## A strand leaves its slot -/

/-- The key of a channel: that of its send end. -/
def chanKey (rk inv ct ch : Nat) : Nat := ((rk * 2 ^ 20 + inv) * 256 + ct) * 8 + ch
/-- The key of an ingress channel, by its receive end. -/
def ingressKey (rk inv ct ch : Nat) : Nat := chanKey rk inv ct ch + 2 ^ 60

/-- What stands for a strand that is away, in the list of arrivals and in the collectives. -/
def awayKey : Nat := 2 ^ 50
def awayId (rk inv ct : Nat) : Nat := awayKey + chanKey rk inv ct 0

/-- The strands at the ends of a channel between two strands. -/
def State.chanIds (s : State) (key : Nat) : List StrandId :=
  if 2 ^ 60 ≤ key then []
  else
    let x : StrandId := (key / 2 ^ 31, key / 2 ^ 11 % 2 ^ 20, key / 8 % 256)
    x :: (((s.peerBind x.1 (key % 8)).bind (s.peerOf x.1 x.2.1 x.2.2)).map (fun p => (p.1, x.2.1, p.2))).toList

/-- Strands of a record end without exit, those that are saved or have yet to start too: their channels know it (13: R309). -/
def State.goneChans (s : State) (f : StrandId → Bool) : State :=
  { s with chans := s.chans.map (fun p => if (s.chanIds p.1).any (fun x => f x && !s.strandOver x) then (p.1, { p.2 with gone := true }) else p) }

/-- Every copy of a strand passes to its invocation, which waits for it (03: R108). -/
def State.leaveCopies (s : State) (sid : Nat) : State :=
  let t := s.strand sid
  let mine := s.copies.filter (fun p => match p.2.owner with
    | .strand x _ _ _ _ => x == sid
    | _ => false)
  let s := mine.foldl (fun (s : State) p => { s with copies := Tbl.put s.copies p.1 { p.2 with owner := .ended t.rk t.inv } }) s
  s.updInv t.rk t.inv (fun i => { i with copies := i.copies ++ mine.map (·.1) })

/-- A strand leaves its channels; one that both ends have left is gone. `dead`: it did not exit (13: R309). -/
def State.leaveChans (s : State) (sid : Nat) (dead : Bool) : State :=
  let chans := s.chans.map (fun p =>
    let c := p.2
    if c.sSid == some sid || c.rSid == some sid then
      (p.1, { c with
        sSid := if c.sSid == some sid then none else c.sSid, rSid := if c.rSid == some sid then none else c.rSid,
        left := c.left + 1, gone := c.gone || dead })
    else p)
  { s with chans := chans.filter (fun p => p.2.left < 2) }

/-- A strand's slot becomes empty. -/
def State.emptySlot (s : State) (sid : Nat) : State :=
  let s := { s with strands := Tbl.del s.strands sid, arrivals := s.arrivals.filter (fun a => a.sid != sid),
                    colls := s.colls.filter (fun p => p.1 / 1024 != sid) }
  s.updTile (sidTile sid) (fun t => { t with
    holdA := t.holdA && t.curA != sidSlot sid, holdE := t.holdE && t.curE != sidSlot sid })

/-- Pending stores of a stopped strand: each is performed or not, as a free bit says (log 2); held ones never. -/
def State.dropStores (s : State) (sid : Nat) : State :=
  let l := (s.strand sid).pend
  let (go, rest) := ((List.range l.length).zip l).partition (fun p => !p.2.held && s.freeBit (1000 + p.1))
  let s := go.foldl (fun s p => s.performStore sid p.2 ((rest ++ go.filter (fun q => p.1 < q.1)).map (·.2))) s
  s.updStrand sid (fun t => { t with pend := [], loads := [] })

/-- A strand stops at once, without exit and without a save (20: R406, step 2; 01: R50). -/
def State.stopStrand (s : State) (sid : Nat) : State :=
  let t := s.strand sid
  let s := (s.dropStores sid).deadAccs (fun a => a.of t)
  let s : State := { s with copies := s.copies.filter (fun p => match p.2.owner with
    | .strand x _ _ _ _ => x != sid
    | _ => true) }
  let s := (s.releaseMx sid).updTile (sidTile sid) (fun t => { t.dropChains sid with sums := t.sums.filter (fun o => o.sid != sid) })
  ((s.leaveChans sid true).emptySlot sid).withdrawDie (sidDie sid)

/-! ## Invocations and records -/

/-- Live strands of an invocation. -/
def State.invSids (s : State) (rk i : Nat) : List Nat :=
  (s.strands.filter (fun p => p.1 < 4096 && p.2.rk == rk && p.2.inv == i)).map (·.1)

/-- The allocations of an invocation are freed (01: R24). -/
def State.freeAllocs (s : State) (rk i : Nat) : State :=
  ((s.recOf rk).inv i).tiles.foldl (fun s t => s.updTile t (fun x => { x with allocs := x.allocs.filter (fun a => !(a.rk == rk && a.inv == i)) })) s

/-- The dispatcher's copies for an invocation are abandoned. -/
def State.dropCopies (s : State) (rk i : Nat) : State :=
  { s with copies := s.copies.filter (fun p => match p.2.owner with
      | .strand _ _ _ _ _ => true
      | .ended k j => !(k == rk && j == i)
      | .staging k j _ _ => !(k == rk && j == i)
      | .writeback k j _ _ => !(k == rk && j == i)
      | .restore k j _ => !(k == rk && j == i)) }

/-- An invocation stops where it stands. -/
def State.killInv (s : State) (rk i : Nat) : State :=
  let s := (s.invSids rk i).foldl State.stopStrand s
  (s.dropCopies rk i).freeAllocs rk i

/-- A record ends without decrements (01: R29). -/
def State.failRec (s : State) (rk : Nat) : State :=
  let s := (s.goneChans (·.1 == rk)).deadAccs (·.rk == rk)
  let s := ((s.recOf rk).invs.map (·.1)).foldl (fun s i => s.killInv rk i) s
  let s : State := { s with colls := s.colls.filter (fun c => !(awayKey ≤ c.1 / 1024 && (c.1 / 1024 - awayKey) / 2 ^ 31 == rk)) }
  (s.setRec rk .failed).updRec rk (fun r => { r with invs := [], held := [], waits := [], sending := none, redo := [] })

/-- Every invocation has been placed. -/
def Rec.allPlaced (r : Rec) : Bool := r.redo.isEmpty && r.limit ≤ r.next && (r.kind != 2 || r.listSealed)

def Rec.anyInv (r : Rec) (f : IState → Bool) : Bool := r.invs.any (fun p => f p.2.st)
def IState.active (x : IState) : Bool := x == .running || x == .saving
def IState.away (x : IState) : Bool := x == .saved || x == .frozen
def IState.coming (x : IState) : Bool := x == .staging || x == .ready

/-- A `RUNNING` record after one of its invocations ended, was saved or frozen (01: R29, R48). -/
def State.settleRec (s : State) (rk : Nat) : State :=
  let r := s.recOf rk
  if r.st != .running || r.anyInv IState.active then s
  else if r.anyInv IState.away then s.setRec rk .parked
  else if !r.lostDies.isEmpty then s
  else if r.allPlaced && !r.anyInv IState.coming then s.setRec rk .draining
  else s

/-- The dispatcher that started an invocation charges its pitch (01: R46). -/
def State.charge (s : State) (rk i : Nat) : State :=
  let r := s.recOf rk
  let x := r.inv i
  let k := r.ptag.toNat * 8 + x.level
  s.updDisp (recDie rk) (fun d => { d with
    deficit := Tbl.put d.deficit k (Tbl.get d.deficit k 0 - r.tilesN * (s.cycle.toNat - x.startedAt.toNat)) })

/-- A range that the dispatcher translates as the record's pitch. -/
def State.opParts (s : State) (die p : Nat) (n : Need) (va : Word) (len : Nat) : Except (Cause × Word) (List Part) :=
  if 0x100000000000000 < va.toNat + len then .error (cBounds, va) else s.globalParts die p n va.toNat len (len / 65536 + 2)

/-- A copy of a dispatcher: it sees every write that was released to its tile, and what the strands of its record did that have ended. -/
def State.dispCopy (s : State) (c : Copy) : State × Nat :=
  let (s, id) := s.startCopy c
  let s := match c.owner with
    | .writeback rk _ _ _ => s.passKnowledge (.task rk) (.copy id)
    | _ => s
  (s.acquireBy (s.copyAgent id c) 5 true, id)

/-- A write-back row from where its camp tile stands now; its destination is translated anew where no translation is held any more. -/
def State.wbRow (s : State) (die p tile : Nat) (r : CpRow) : Except (Cause × Word) CpRow :=
  let r := { r with src := [⟨scratchKey tile (bitsOf r.sva 0 24), r.len, .release, none⟩] }
  if r.dst.isEmpty then (s.opParts die p .store r.dva r.len).map (fun ps => { r with dst := ps }) else .ok r

/-- Start the write-back of a descriptor of an ended invocation. A fault is recorded, and it waits for a retry (18: R378). -/
def State.startWb (s : State) (rk i : Nat) (w : Nat × Nat × List CpRow) : State :=
  let r := s.recOf rk
  let x := r.inv i
  match w.2.2.mapM (s.wbRow x.die r.ptag.toNat (x.tiles.getD w.2.1 0)) with
  | .error (c, a) =>
    (s.stagingRecord rk (some i) c a).updInv rk i (fun x => { x with faulted := insertNat w.1 x.faulted, wb := x.wb ++ [w] })
  | .ok rows =>
    let (s, id) := s.dispCopy ⟨.writeback rk i w.2.1 w.1, r.ptag, rows, false, s.cycle, none, none⟩
    s.updInv rk i (fun x => { x with copies := x.copies ++ [id] })

/-- Start the write-backs that an ended invocation still holds. -/
def State.startWbs (s : State) (rk i : Nat) : State :=
  let wb := ((s.recOf rk).inv i).wb
  wb.foldl (fun s w => s.startWb rk i w) (s.updInv rk i (fun x => { x with wb := [], faulted := [] }))

/-- `INVOCATION_END` (01: R29): every strand of the camp has executed `TRET`; its write-backs start. -/
def State.invEnd (s : State) (rk i : Nat) : State :=
  let s := s.charge rk i
  ((s.updInv rk i (fun x => { x with st := .ended, since := s.cycle })).startWbs rk i).settleRec rk

/-- The strand ends: both sequencers have executed `TRET` (02: R62). The retirement of its record, which releases what the strand did, knows it
(03: R108). -/
def State.endStrand (s : State) (sid : Nat) : State :=
  let t := s.strand sid
  let s := (((s.spanBreak sid).settleLoads sid).drain sid allKinds).passKnowledge (.strand sid) (.task t.rk)
  let s := (s.releaseMx sid).updTile (sidTile sid) (fun x => x.dropChains sid)
  let s := (s.leaveCopies sid).leaveChans sid false
  let s := (s.emptySlot sid).updInv t.rk t.inv (fun i => { i with exits := insertNat t.ctile i.exits, etc := i.etc + t.core.etc.toNat })
  let r := s.recOf t.rk
  let s := if r.tilesN ≤ (r.inv t.inv).exits.length then s.invEnd t.rk t.inv
  else if (s.invSids t.rk t.inv).isEmpty && !(r.inv t.inv).savedT.isEmpty then
    (s.updInv t.rk t.inv (fun i => { i with st := .saved, since := s.cycle, going := false })).settleRec t.rk
    else s
  s.withdrawDie (sidDie sid)

/-! ## TRET (02: R62, R67; 13: R326) -/

/-- Queue entries that remain at the end are discarded; error bits count first. -/
def StrandCore.discard (c : StrandCore) : StrandCore :=
  let n := (c.q.toList.flatMap (fun l => l.filter (·.err))).length
  { c with q := Vector.replicate 8 [], bqAE := [], bqEA := [], etc := satAdd32 c.etc n }

/-- The next token that strand end owes on an open send end: the error-marked empty one, or the end token. -/
def StrandCore.endTok (c : StrandCore) (e : ChEnd) : Token := if c.etc != 0 && e.tail == 0 then .data 0 true else .fin

/-- It is accepted. -/
def ChEnd.endSent (e : ChEnd) (t : Token) : ChEnd := if t == .fin then { e with closed := true, tail := 2 } else { e with tail := 1 }

/-- Close every open send end, after its error-marked empty token where one is due; then `k`. -/
def State.endChannels (s : State) (k : State → Out) : Nat → Out
  | 0 => k s
  | fuel + 1 =>
    match s.openEnds s.sid with
    | [] => k s
    | c :: _ =>
      let tok := s.core.endTok (s.endOf s.sid c)
      s.tokenOut c tok (fun s => ((s.updEnd s.sid c (fun e => e.endSent tok)).clearWait).endChannels k fuel)

/-- E's `TRET` acknowledges every collective and waits for them (12: R306). -/
def State.endColl (s : State) (k : State → Out) : Out :=
  let s := (s.collsOf s.sid).foldl (fun s p => s.collAck s.sid p.1) s
  if (s.collsOf s.sid).any (fun p => (s.ackStatus s.sid p.1).isNone) then .next (s.block .coll)
  else k ((s.collsOf s.sid).foldl (fun s p => s.dropColl s.sid p.1) s)

/-- The sequencer has executed `TRET`; the second one ends the strand, also when a save is requested in that cycle (18: R383). -/
def State.exitSeq (s : State) (skip last : Bool) : State :=
  let t := s.me
  let r := s.recOf t.rk
  let s := if skip && r.kind == 0 && r.fan == 1 && t.ctile == 0 then s.updRec t.rk (fun r => { r with skipRet := true }) else s
  let s := s.updSeq (fun q => { q with exited := true, wait := none, woken := false })
  let s := if last && t.saveReq.isSome then s.saveDoneEvent s.sid 1 else s
  if last then s.endStrand s.sid else s

/-- A strand whose walker is FAULTED parks at a `TRET` (02: R71); one whose save is requested in that cycle does not exit either, and the save
goes on (18: R383). -/
def State.tret (s : State) (skip : Bool) : Out :=
  let sid := s.sid
  let ws := s.core.w.toList
  let last := (s.core.seq (!s.cur.e)).exited
  let stuck := ws.filter (fun w => w.st == .faulted)
  if !stuck.isEmpty then if s.me.saveReq.isSome then .next s else .next (s.clearWait.park sid (if stuck.all (·.brk) then .debug else .w0))
  else if !s.cur.e && ws.any (fun w => w.st == .running) then .next (s.block (.tret 0))
  else if s.cur.e && (s.mx s.myTile).ent.toList.any (fun e => e.sid == sid && e.busy) then .next (s.block (.tret 1))
  else
    let s := s.spanBreak sid
    let exit (s : State) : Out := .next (s.exitSeq skip last)
    let pst (s : State) : Out := if s.cur.e then exit s else s.podFence exit
    let coll (s : State) : Out := if s.cur.e then s.endColl pst else pst s
    s.afterSums (fun s => if last then (s.updCore StrandCore.discard).endChannels coll 24 else coll s)

def execTret (s : State) : Out := s.tret false
def execTretSkip (s : State) : Out := s.tret true

/-! ## Lists, write-backs, retirement -/

/-- `RECSEAL` (01: R38; 13: R330). -/
def execRecseal (n : BitVec 5) (s : State) : Out :=
  let t := s.g n
  let s := s.spanBreak s.sid
  match s.listRec t with
  | .error e => s.ret n (BitVec.ofNat 64 e)
  | .ok rk => (((s.updRec rk (fun r => { r with listSealed := true })).emptyList rk).settleRec rk).ret n 0

/-- Set bit `i` of the record's DONEMAP (01: R51). -/
def State.setDoneBit (s : State) (rk i : Nat) : Except (Cause × Nat) State :=
  let r := s.recOf rk
  if r.donemap == 0 then .ok s
  else
    let a := r.donemap.toNat + i / 8
    match s.heldKeys rk true a 1 2 with
    | .error x => .error x
    | .ok (l, s) =>
      if s.poisonAt l then .error (cUncorrectable, a)
      else .ok ((s.settleKeys l).putCells (l.map (fun k => (k, s.byte k ||| BitVec.ofNat 8 (2 ^ (i % 8))))))

/-- `WRITEBACK_DONE` (01: R24, R29): the invocation counts as retired and its allocation is freed. -/
def execWritebackDone (rk inv : Nat) (s : State) : Out :=
  let r := s.recOf rk
  let x := r.inv inv
  if x.st != .ended || !x.copies.isEmpty || !x.faulted.isEmpty || r.waits.contains (.bit inv) then .next s
  else match s.setDoneBit rk inv with
    | .error (c, a) => .next (s.dispFault rk (.bit inv) (some inv) c (BitVec.ofNat 64 a))
    | .ok s => .next (((s.freeAllocs rk inv).updRec rk (fun r => { r with retired := r.retired + 1 })).updInv rk inv
        (fun x => { x with st := .finished }))

/-- Its operand table of channel bindings names a send end (02: R67). -/
def Rec.sends (r : Rec) : Bool := r.binds.any (fun b => leAt b 1 1 == 0)

/-- `TASK_RETIREMENT` (01: R29; 02: R67): every invocation is done, the release at `SCOPE` is performed, the decrements go. -/
def execTaskRetirement (rk : Nat) (s : State) : Out :=
  let r := s.recOf rk
  if r.st != .draining || r.sending.isSome || !r.lostDies.isEmpty || !(r.invs.all (fun p => p.2.st == .finished)) then .next s
  else
    let etc := (r.invs.map (fun p => p.2.etc)).sum
    let s := if !r.sends && etc != 0 then s.recEvent rk 3 (BitVec.ofNat 64 etc) 0 else s
    .next (s.retire rk r.skipRet)

/-! ## Partial retirement (01: R50, R52) -/

/-- The state of a record after it has lost invocations (01: R48): PARKED while it has a saved one and none running, also where a restore was
cut (log 53). -/
def State.settleLost (s : State) (rk : Nat) : State :=
  let r := s.recOf rk
  if (r.st == .staging || r.st == .ready) && !r.anyInv IState.coming && !r.anyInv IState.active && r.anyInv IState.away then s.setRec rk .parked
  else s.settleRec rk

/-- A home die can no longer reach die `d`: the invocations of a record that stand there, or still write back, are lost. Those placed there
that have yet to start are placed again elsewhere, the record keeping its state; a saved one is in memory, and its die does not matter: one
whose restore is cut is saved as before (log 53). -/
def State.loseDie (s : State) (rk d : Nat) : State :=
  let r := s.recOf rk
  let on (f : IState → Bool) : List Nat := (r.invs.filter (fun p => p.2.die == d && f p.2.st)).map (·.1)
  let hit := on (fun x => x.active || x == .frozen || x == .ended)
  let s := (on IState.coming).foldl (fun s i =>
    let x := (s.recOf rk).inv i
    let s := s.killInv rk i
    if x.restore then s.updInv rk i (fun x => { x with st := .saved, copies := [], images := [] })
    else s.updRec rk (fun r => { r with invs := Tbl.del r.invs i, redo := insertNat i r.redo })) s
  let s := if (r.st == .running || r.st == .draining) && !hit.isEmpty then
    let s := s.goneChans (fun x => x.1 == rk && hit.contains x.2.1)
    let s := hit.foldl (fun s i => (s.killInv rk i).updInv rk i (fun x => { x with st := .lost, copies := [], wb := [], faulted := [] })) s
    s.updRec rk (fun r => { r with lostDies := insertNat d r.lostDies })
  else s
  s.settleLost rk

/-- `PARTIAL_RETIREMENT`: nothing remains running. A saved invocation runs on and finishes first; one that has yet to start does not. -/
def execPartialRetirement (rk : Nat) (s : State) : Out :=
  let r := s.recOf rk
  if r.lostDies.isEmpty || !(r.st == .running || r.st == .draining || r.st == .parked) || r.anyInv IState.active || r.anyInv IState.away ||
      r.anyInv (· == .ended) || r.invs.any (fun p => p.2.st.coming && p.2.restore) then .next s
  else
    let s := ((r.invs.filter (fun p => p.2.st.coming)).map (·.1)).foldl (fun s i => s.killInv rk i) s
    let s := if r.idem then
        ((s.setRec rk .partialRet).recEvent rk 1 0 0).updRec rk (fun r => { r with waits := [], invs := r.invs.filter (fun p => p.2.st == .finished) })
      else (s.failRec rk).recEvent rk 2 0 0
    .next s

end Sys2Proof.Machine
end

