-- ==== Sys2Proof/Machine/Context.lean ====
section
/-! DEFINITION. Context.lean: channel bindings, the save and the restore of a strand, context images, resume (01: R25, R26, R433; 18:
R380-R388, R435; 13: R335; 20: R381). Where 18: R385 names an item without its layout, the layout is the model's (log 15). -/

namespace Sys2Proof.Machine

/-! ## Channel bindings (01: R25, R26, R433) -/

/-- One end bound: its channel exists from now on, with this strand on this side. On a restore the tokens of the image go in first. -/
def State.bindEnd (s : State) (sid : Nat) (keep : Bool) (b : Bind) : State :=
  let t := s.strand sid
  let join (key : Nat) (x : Bind) : State :=
    let old := (Tbl.find s.chans key).getD { Chan.empty with slots := x.slots }
    let c : Chan := if b.send then { old with sSid := some sid } else { old with rSid := some sid, away := false }
    let s := { s with chans := Tbl.put s.chans key c }
    let s := s.updEnd sid b.ch (fun e =>
      if keep then { e with chan := key }
      else { ChEnd.empty with
        dir := if b.send then 1 else 2, chan := key, slots := BitVec.ofNat 8 x.slots, mperiod := BitVec.ofNat 32 x.period,
        ratio := BitVec.ofNat 16 x.ratio })
    if keep then s else s.flushDue key
  if b.peer == 0xFFFE then join (ingressKey t.rk t.inv t.ctile b.ch) b
  else match s.peerOf t.rk t.inv t.ctile b with
    | none => s
    | some (k, ct) =>
      if b.send then join (chanKey t.rk t.inv t.ctile b.ch) b
      else join (chanKey k t.inv ct b.pch) ((s.peerBind k b.pch).getD b)

/-- Every end of a strand; on a restore the ends keep their saved state. -/
def State.bindEnds (s : State) (sid : Nat) (keep : Bool) : State :=
  ((s.recOf (s.strand sid).rk).binds.map bindOf).foldl (fun s b => s.bindEnd sid keep b) s

/-! ## Images: what is written (18: R384-R386, R435) -/

/-- `n` bytes of `v` at offset `o`. -/
def at_ (o n v : Nat) : List (Nat × Byte) := cellsAt o (bytesLE v n)

/-- Elements with their positions. -/
def indexed {α : Type} (l : List α) : List (Nat × α) := (List.range l.length).zip l

def seqWords (q : Seq) : List Word := [q.trapVec, q.tcause, q.targ, q.trline, q.tridx, q.trpend, q.tscr0, q.tscr1]

/-- What a blocked instruction keeps: its wake cycle, its ticket, or what a channel instruction has done (log 15). -/
def waitWord (w : Option Wait) : Nat :=
  match w with
  | some (.sleep w) => w.toNat
  | some (.ticket t _) => t.toNat
  | some (.chan _ tok _ imb) => chanWord tok 0 imb
  | some (.wave tok imb) => chanWord tok 1 imb
  | some (.waveOut tok imb) => chanWord tok 2 imb
  | some (.accRow tok) => chanWord tok 0 none
  | some (.saved w) => w.toNat
  | _ => 0

def sstOf (q : Seq) : Nat := if q.exited then 1 else if q.wait.isSome then 2 else 0

def cellsSeqHead (o : Nat) (q : Seq) : List (Nat × Byte) :=
  at_ o 8 q.pc.toNat ++ at_ (o + 8) 8 (pendWord q.pending).toNat ++ at_ (o + 16) 1 q.idx ++ at_ (o + 17) 1 (sstOf q) ++
    at_ (o + 24) 8 (waitWord q.wait)

def bitsNat (l : List Bool) : Nat := l.foldr (fun b n => 2 * n + b01 b) 0

/-- Offsets 0x500 to 0x5DF (18: R435). -/
def cells500 (c : StrandCore) : List (Nat × Byte) :=
  at_ 0x500 16 (2 ^ 128 - 1) ++ (List.range 7).flatMap (fun i => at_ (0x510 + 16 * i) 16 (c.k.getD (i + 1) 0).toNat) ++
    (List.range 16).flatMap (fun i => at_ (0x580 + 2 * i) 2 (c.h.getD i 0).toNat) ++
    at_ 0x5A0 4 c.etc.toNat ++ at_ 0x5A4 4 c.spanno.toNat ++ at_ 0x5A8 1 (b01 c.heldRst.isSome + 2 * b01 c.heldUnr.isSome) ++
    at_ 0x5B0 8 (c.heldRst.getD 0).toNat ++ at_ 0x5B8 8 (c.heldUnr.getD 0).toNat ++
    at_ 0x5C0 4 (bitsNat c.bqAE) ++ at_ 0x5C4 4 (bitsNat c.bqEA) ++ at_ 0x5C8 1 c.bqAE.length ++ at_ 0x5C9 1 c.bqEA.length ++
    (List.range 8).flatMap (fun i => at_ (0x5D0 + i) 1 (c.q.getD i []).length ++ at_ (0x5D8 + i) 1 (bitsNat ((c.q.getD i []).map (·.err))))

def wstateOf (n : Nat) : WState :=
  match n with
  | 1 => .configured
  | 2 => .running
  | 3 => .faulted
  | 4 => .halted
  | 5 => .done
  | _ => .idle

/-- The counters of the iteration before (of an affine nest). -/
def stepBack (count : List Nat) (levels : Nat) (c : Vector (BitVec 32) 4) : Nat → Nat → Vector (BitVec 32) 4
  | _, 0 => c
  | l, fuel + 1 =>
    if levels ≤ l then c
    else if c.getD l 0 == 0 then stepBack count levels (c.setIfInBounds l (BitVec.ofNat 32 (count.getD l 1 - 1))) (l + 1) fuel
    else c.setIfInBounds l (c.getD l 0 - 1)

def iter {α : Type} (f : α → α) : Nat → α → α
  | 0, x => x
  | n + 1, x => iter f n (f x)

/-- Counters of the oldest row that a gate buffer holds: those of as many iterations before the next one. -/
def Walker.firstCnt (x : Walker) : Vector (BitVec 32) 4 :=
  let d := wdesc x.desc
  iter (fun c => stepBack d.count d.levels c 0 4) x.gate.length x.cnt

/-- Walker `i`: its 128 bytes at 0x4000 and its gate buffer. The gate count is the rows held and, above 16 bits, those still to be
written of a committed group (log 15). -/
def cellsWalker (i : Nat) (x : Walker) : List (Nat × Byte) :=
  let o := 0x4000 + 128 * i
  at_ o 64 x.desc.toNat ++ at_ (o + 64) 4 (wstateCode x.st) ++ (List.range 4).flatMap (fun j => at_ (o + 68 + 4 * j) 4 (x.cnt.getD j 0).toNat) ++
    at_ (o + 84) 4 (x.gate.length + x.go * 65536) ++
    (if i == 0 then [] else (indexed x.gate).flatMap (fun p => at_ (0x6000 + 0x2000 * (i - 1) + 128 * p.1) 128 p.2.v.toNat))

/-- Chain `i`: stages, which tables are loaded, and the table images. -/
def cellsChain (i : Nat) (c : Chain) : List (Nat × Byte) :=
  let o := 0x14000 + 0x2400 * i
  (List.range 6).flatMap (fun j => at_ (o + 8 * j) 8 (c.stages.getD j 0).toNat) ++
    at_ (o + 48) 1 (bitsNat (c.tables.toList.map (·.isSome))) ++
    (List.range 4).flatMap (fun j => match c.tables.getD j none with
      | none => []
      | some t =>
        let p := o + 64 + 2056 * j
        at_ p 4 t.lo.toNat ++ at_ (p + 4) 4 t.hi.toNat ++
          (indexed t.ent).flatMap (fun e => at_ (p + 8 + 8 * e.1) 4 e.2.1.toNat ++ at_ (p + 12 + 8 * e.1) 4 e.2.2.toNat))

/-- An in-flight entry: its status word of 12: R292, its operands, its snapshot scales. -/
def cellsEntry (i : Nat) (e : FEntry) : List (Nat × Byte) :=
  let o := 0x50200 + 64 * i
  let p := 0x50800 + 256 * i
  at_ o 8 e.word.toNat ++ at_ (o + 8) 4 e.addr ++ at_ (o + 12) 4 e.stride ++ at_ (o + 16) 4 e.kblk ++ at_ (o + 20) 1 e.ty.toNat ++
    at_ (o + 24) 4 e.gran ++ at_ (o + 28) 4 e.seqNo ++ at_ (o + 32) 8 e.issued.toNat ++ at_ (o + 40) 8 e.last ++
    at_ p 128 e.sa.toNat ++ at_ (p + 128) 128 e.sb.toNat

def cellsMx (m : Matrix) : List (Nat × Byte) :=
  m.acc.flatMap (fun p => at_ (0x20000 + 4 * p.1) 4 p.2.toNat) ++
    (List.range 2).flatMap (fun b => (m.panel.getD b []).map (fun p => (0x40000 + 0x8000 * b + p.1, p.2))) ++
    at_ 0x50000 128 m.sa.toNat ++ at_ 0x50080 128 (m.sb.getD 0 0).toNat ++ at_ 0x50100 128 (m.sb.getD 1 0).toNat ++
    at_ 0x50180 1 (m.pty.getD 0 0).toNat ++ at_ 0x50181 1 (m.pty.getD 1 0).toNat ++
    at_ 0x50182 1 (b01 (m.loaded.getD 0 false)) ++ at_ 0x50183 1 (b01 (m.loaded.getD 1 false)) ++
    (List.range 8).flatMap (fun i => if (m.entry i).st == .free then [] else cellsEntry i (m.entry i))

/-- Kind and error bit of a held token; a marker's stop flag is bit 6. -/
def tokByte (t : Token) : Nat :=
  match t with
  | .data _ e => 1 + 128 * b01 e
  | .marker b => 2 + 64 * b01 b
  | .fin => 3
def tokData (t : Token) : Nat :=
  match t with
  | .data v _ => v.toNat
  | _ => 0

/-- A channel end: tokens held, state, counters, kinds. -/
def cellsEnd (i : Nat) (e : ChEnd) (toks : List Token) : List (Nat × Byte) :=
  let o := 0x60000 + 0x4000 * i
  let p := o + 0x2000
  (indexed toks).flatMap (fun t => at_ (o + 128 * t.1) 128 (tokData t.2) ++ at_ (p + 0x80 + t.1) 1 (tokByte t.2)) ++
    at_ p 1 e.dir.toNat ++ at_ (p + 1) 1 (b01 e.closed) ++ at_ (p + 2) 1 e.tail ++ at_ (p + 3) 1 e.reason.toNat ++
    at_ (p + 4) 1 e.slots.toNat ++ at_ (p + 8) 4 e.mperiod.toNat ++ at_ (p + 12) 2 e.ratio.toNat ++ at_ (p + 16) 8 e.sent ++
    at_ (p + 24) 4 e.span.toNat ++ at_ (p + 28) 4 e.total.toNat ++ at_ (p + 32) 4 e.marks.toNat ++ at_ (p + 36) 4 e.errs.toNat ++
    at_ (p + 40) 8 e.cFull.toNat ++ at_ (p + 48) 8 e.cEmpty.toNat ++ at_ (p + 56) 8 e.cMove.toNat ++ at_ (p + 64) 1 toks.length

/-- Pages of full bits: bit i for granule i of the allocation. -/
def cellsFull (t : Tile) (base size : Nat) : List (Nat × Byte) :=
  (List.range (size / 1024)).filterMap (fun j =>
    let n := bitsNat ((List.range 8).map (fun b => t.full.contains (base / 128 + 8 * j + b)))
    if n == 0 then none else some (0x51000 + j, BitVec.ofNat 8 n))

/-- The image of a strand without its allocation. -/
def State.imageCore (s : State) (sid : Nat) : List (Nat × Byte) :=
  let t := s.strand sid
  let c := t.core
  let tile := s.tile (sidTile sid)
  let mine := tile.mx.owner == some sid
  let flags := b01 (!isXTile (sidTile sid)) + 2 * b01 (t.pendCause != 0) + 4 * b01 t.saveForced + 8 * b01 c.a.exited +
    16 * b01 c.e.exited + 32 * b01 t.withdrawn + 64 * b01 mine
  at_ 0 4 0x31584443 ++ at_ 4 2 1 ++ at_ 6 2 flags ++ at_ 8 8 t.tref.toNat ++ at_ 0x10 4 t.inv ++ at_ 0x14 2 t.ctile ++
    at_ 0x16 1 (s.recOf t.rk).spad.toNat ++ at_ 0x18 4 t.base ++ at_ 0x1C 2 t.ptag.toNat ++ cellsSeqHead 0x20 c.a ++ cellsSeqHead 0x40 c.e ++
    at_ 0x60 1 t.pendCause.toNat ++ at_ 0x61 1 t.pendWho.toNat ++ at_ 0x68 8 t.pendArg.toNat ++ at_ 0x70 8 s.cycle.toNat ++
    (List.range 32).flatMap (fun i => at_ (0x100 + 8 * i) 8 (if i == 0 then 0 else (c.a.g.getD i 0).toNat) ++
      at_ (0x200 + 8 * i) 8 (if i == 0 then 0 else (c.e.g.getD i 0).toNat)) ++
    (indexed (seqWords c.a)).flatMap (fun p => at_ (0x300 + 8 * p.1) 8 p.2.toNat) ++
    (indexed (seqWords c.e)).flatMap (fun p => at_ (0x380 + 8 * p.1) 8 p.2.toNat) ++
    (List.range 16).flatMap (fun i => let x := c.cps.getD i .empty; at_ (0x400 + 16 * i) 8 (ticketOf i x.gen x.prom).toNat) ++
    cells500 c ++
    (List.range 32).flatMap (fun i => at_ (0x1000 + 128 * i) 128 (c.v.getD i 0).toNat) ++
    (List.range 8).flatMap (fun i => (indexed (c.q.getD i [])).flatMap (fun e => at_ (0x2000 + 0x400 * i + 128 * e.1) 128 e.2.v.toNat)) ++
    (List.range 8).flatMap (fun i => cellsWalker i (c.walker i)) ++
    (List.range 4).flatMap (fun i => cellsChain i (c.chains.getD i .empty)) ++
    (if mine then cellsMx tile.mx else []) ++ cellsFull tile t.base t.size ++
    (List.range 8).flatMap (fun i =>
      let e := c.chEnd i
      let ch := s.chan e.chan
      cellsEnd i e (if e.dir == 2 && ch.slots != 0 then ch.tokens else []))

/-- The bytes of an allocation that memory lists, by image offset. -/
def State.allocCells (s : State) (tile base size : Nat) : List (Nat × Byte) :=
  let k := scratchKey tile base
  (s.mem.filter (fun c => k ≤ c.1 && c.1 < k + size)).map (fun c => (0x80000 + (c.1 - k), c.2))

/-- The key of byte `o` of a range of parts. -/
def partKey : List Part → Nat → Nat
  | [], _ => 0
  | p :: r, o => if o < p.len then p.key + o else partKey r (o - p.len)

def Memory.clear (m : Memory) (k n : Nat) : Memory := m.filter (fun c => !(k ≤ c.1 && c.1 < k + n))
/-- A write on its way to a range. -/
def OldVal.inRange (o : OldVal) (k n : Nat) : Bool := o.cells.any (fun c => k ≤ c.1 && c.1 < k + n)
/-- Zeros in a range, performed: no agent reads what it held. -/
def State.zero (s : State) (k n : Nat) : State :=
  let s := s.settle (·.inRange k n)
  { s with mem := Memory.clear s.mem k n }

/-- The lines of parts that refuse an access, with why (03: R86). -/
def State.badLines (s : State) (store : Bool) (ps : List Part) : List (Nat × Nat) :=
  ps.flatMap (fun p => p.lines.filterMap (fun l => (s.lineRefusal store { p with key := 128 * l, len := 128 }).map (l, ·)))

/-- Write an image over its parts: zeros, then what it holds. The lines that refuse give an error response each. -/
def State.writeImage (s : State) (sid : Nat) (ps : List Part) (cells : List (Nat × Byte)) : State :=
  let bad := s.badLines true ps
  let s := bad.foldl (fun s b => s.errorResponse sid b.2 (BitVec.ofNat 64 (128 * b.1))) s
  let keep (k : Nat) : Bool := !(bad.any (fun b => b.1 == k / 128))
  let s := (s.touch true (ps.filter (fun p => p.lines.all (fun l => keep (128 * l))))).unpoison ps
  let was := bad.flatMap (fun b => cellsAt (128 * b.1) (s.rdBytes (128 * b.1) 128))
  let s := (ps.foldl (fun s p => s.zero p.key p.len) s).putCells was
  s.putCells ((cells.map (fun c => (partKey ps c.1, c.2))).filter (fun c => keep c.1))

/-! ## Images: what is read (18: R386, R387) -/

abbrev Img := Nat → Byte

def Img.n (f : Img) (o k : Nat) : Nat := leOf f o k
def Img.w (f : Img) (o : Nat) : Word := BitVec.ofNat 64 (f.n o 8)

/-- A cause taken at `TRAPVEC` (07: R193). -/
def isTrapCause (c : Cause) : Bool :=
  let n := c.toNat
  (1 ≤ n && n ≤ 8) || n == 0x13 || n == 0x14 || (0x20 ≤ n && n ≤ 0x23) || n == 0x30 || n == 0x31 || n == 0x42

/-- A cause that a strand can have pending (07: R193). -/
def listedCause (c : Nat) : Bool :=
  (1 ≤ c && c ≤ 8) || (0x10 ≤ c && c ≤ 0x15) || (0x20 ≤ c && c ≤ 0x23) || c == 0x30 || c == 0x31 || c == 0x38 || (0x40 ≤ c && c ≤ 0x43)

/-- The bytes below the allocation that 18: R385, R386 and R435 list nothing for, or name zero, as offset and length; inside an item those that
its layout leaves over (log 15). -/
def imgZeros (mTile : Bool) (size : Nat) : List (Nat × Nat) :=
  [(0x17, 1), (0x1E, 2), (0x32, 6), (0x52, 6), (0x62, 6), (0x78, 136), (0x340, 64), (0x3C0, 64), (0x5A9, 7), (0x5CA, 6), (0x5E0, 0xA20),
    (0x4400, 0x1C00), (0x1D000, 0x3000), (0x50184, 0x7C), (0x50400, 0x400), (0x51000 + size / 1024, 0xF000 - size / 1024)] ++
    (List.range 16).map (fun i => (0x408 + 16 * i, 8)) ++ (List.range 8).map (fun i => (0x4058 + 128 * i, 40)) ++
    (List.range 4).flatMap (fun i => [(0x14031 + 0x2400 * i, 15), (0x16060 + 0x2400 * i, 0x3A0)]) ++
    (List.range 8).flatMap (fun i => [(0x50215 + 64 * i, 3), (0x50230 + 64 * i, 16)]) ++
    (List.range 8).flatMap (fun i => let p := 0x62000 + 0x4000 * i
      [(p + 5, 3), (p + 14, 2), (p + 65, 63), (p + 0xC0, 0x1F40)]) ++
    (if mTile then [(0x16400, 0x6C00)] else [(0x20000, 0x31000)])

/-- The header, the zeros and the counts of 18: R435 are well-formed, and the tile kind is that of the tile. `zr` says that a range of the image
holds zeros. -/
def imgOk (f : Img) (zr : Nat → Nat → Bool) (mTile : Bool) (size : Nat) : Bool :=
  let flags := f.n 6 2
  let bq (o c : Nat) : Bool := f.n c 1 ≤ 32 && f.n o 4 < 2 ^ f.n c 1
  f.n 0 4 == 0x31584443 && f.n 4 2 == 1 && flags < 128 && (flags % 2 == 1) == mTile && (mTile || flags < 64) && f.n 0x1C 2 < 4096 &&
    f.n 0x31 1 ≤ 2 && f.n 0x51 1 ≤ 2 && (f.n 0x60 1 == 0 || listedCause (f.n 0x60 1)) && f.n 0x61 1 < 32 && f.n 0x5A8 1 < 4 &&
    bq 0x5C0 0x5C8 && bq 0x5C4 0x5C9 && (List.range 8).all (fun i => f.n (0x5D0 + i) 1 ≤ 8 && f.n (0x5D8 + i) 1 < 2 ^ f.n (0x5D0 + i) 1) &&
    (imgZeros mTile size).all (fun z => zr z.1 z.2)

/-- No offset of a list lies in a range. -/
def noneIn (l : List Nat) (o n : Nat) : Bool := l.all (fun i => i < o || o + n ≤ i)

def bitList (n : Nat) : Nat → List Bool
  | 0 => []
  | k + 1 => (n % 2 == 1) :: bitList (n / 2) k

def imgSeq (f : Img) (h g t : Nat) : Seq :=
  let regs : Vector Word 32 := Vector.ofFn (fun i => if i.val == 0 then 0 else f.w (g + 8 * i.val))
  { Seq.empty with
    g := regs, res := regs.map residue, pc := f.w h &&& ~~~0x3F#64, idx := f.n (h + 16) 1, pending := pendOf (f.w (h + 8)),
    wait := if f.n (h + 17) 1 == 2 then some (.saved (f.w (h + 24))) else none, woken := true, exited := f.n (h + 17) 1 == 1,
    trapVec := f.w t, tcause := f.w (t + 8), targ := f.w (t + 16), trline := f.w (t + 24), tridx := f.w (t + 32),
    trpend := f.w (t + 40), tscr0 := f.w (t + 48), tscr1 := f.w (t + 56) }

/-- The rows of a gate buffer, from the counters of the oldest. -/
def gateRows (f : Img) (i : Nat) (x : Walker) (d : WDesc) (n : Nat) : List GateRow :=
  (List.range n).map (fun j =>
    let c := iter (fun c => (stepCounters d.count d.levels c 0 4).1) j (iter (fun c => stepBack d.count d.levels c 0 4) n x.cnt)
    ⟨{ x with cnt := c }.rowAddr d 0, BitVec.ofNat 1024 (f.n (0x6000 + 0x2000 * (i - 1) + 128 * j) 128),
      (c.getD 0 0).toNat + 1 == d.count.getD 0 0, c⟩)

/-- A walker as restored: one that had faulted runs and repeats its iteration (18: R381, R387). Counters of zero beside rows held mean
that its nest is done (log 15). -/
def imgWalker (f : Img) (i : Nat) : Walker :=
  let o := 0x4000 + 128 * i
  let n := min 64 (f.n (o + 84) 2)
  let st := wstateOf (f.n (o + 64) 4)
  let cnt : Vector (BitVec 32) 4 := Vector.ofFn (fun j => BitVec.ofNat 32 (f.n (o + 68 + 4 * j.val) 4))
  let x : Walker := { Walker.empty with
    desc := BitVec.ofNat 512 (f.n o 64), st := if st == .faulted then .running else st, cnt := cnt, go := f.n (o + 86) 2,
    fin := n != 0 && cnt.all (· == 0) }
  { x with gate := gateRows f i x (wdesc x.desc) n }.asks 0

def imgChain (f : Img) (i : Nat) : Chain :=
  let o := 0x14000 + 0x2400 * i
  { stages := Vector.ofFn (fun j => f.w (o + 8 * j.val)),
    tables := Vector.ofFn (fun j =>
      let p := o + 64 + 2056 * j.val
      if (f (o + 48)).getLsbD j.val then
        some ⟨BitVec.ofNat 32 (f.n p 4), BitVec.ofNat 32 (f.n (p + 4) 4),
          (List.range 256).map (fun k => (BitVec.ofNat 32 (f.n (p + 8 + 8 * k) 4), BitVec.ofNat 32 (f.n (p + 12 + 8 * k) 4)))⟩
      else none) }

def fstateOf (n : Nat) : FState :=
  match n with
  | 1 => .wait
  | 2 => .firing
  | 3 => .done
  | _ => .free

def imgEntry (f : Img) (sid i : Nat) : FEntry :=
  let o := 0x50200 + 64 * i
  let p := 0x50800 + 256 * i
  let w := f.w o
  if fstateOf (bitsOf w 0 2) == .free then .empty
  else
    { FEntry.empty with
      st := fstateOf (bitsOf w 0 2), sid := sid, isMma := !w.getLsbD 4, pb := BitVec.ofNat 1 (bitsOf w 7 1), ab := BitVec.ofNat 1 (bitsOf w 8 1),
      arow := bitsOf w 9 7, rows := bitsOf w 16 8, fired := bitsOf w 24 8, gran := f.n (o + 24) 4, last := f.n (o + 40) 8,
      sa := BitVec.ofNat 1024 (f.n p 128), sb := BitVec.ofNat 1024 (f.n (p + 128) 128), ty := BitVec.ofNat 4 (f.n (o + 20) 1),
      addr := f.n (o + 8) 4, stride := f.n (o + 12) 4, kblk := f.n (o + 16) 4, issued := f.w (o + 32), seqNo := f.n (o + 28) 4 }

/-- The non-zero words of an array in the image. -/
def imgTable {α : Type} (n : Nat) (g : Nat → Option α) : Tbl α := (List.range n).filterMap (fun i => (g i).map (fun x => (i, x)))

def imgMx (f : Img) (sid : Nat) : Matrix :=
  { Matrix.empty with
    owner := some sid,
    acc := imgTable 32768 (fun i => let v := f.n (0x20000 + 4 * i) 4; if v == 0 then none else some (BitVec.ofNat 32 v)),
    panel := Vector.ofFn (fun b => imgTable 32768 (fun i => let v := f (0x40000 + 0x8000 * b.val + i); if v == 0 then none else some v)),
    sa := BitVec.ofNat 1024 (f.n 0x50000 128), sb := Vector.ofFn (fun b => BitVec.ofNat 1024 (f.n (0x50080 + 128 * b.val) 128)),
    pty := Vector.ofFn (fun b => BitVec.ofNat 4 (f.n (0x50180 + b.val) 1)), loaded := Vector.ofFn (fun b => f.n (0x50182 + b.val) 1 == 1),
    ent := Vector.ofFn (fun i => imgEntry f sid i.val), seqNo := 1 + ((List.range 8).map (fun i => f.n (0x5021C + 64 * i) 4)).foldl max 0 }

def imgToken (f : Img) (o k : Nat) : Token :=
  let b := f.n k 1
  match b % 4 with
  | 2 => .marker (b / 64 % 2 == 1)
  | 3 => .fin
  | _ => .data (BitVec.ofNat 1024 (f.n o 128)) (b / 128 == 1)

def imgTokens (f : Img) (i : Nat) : List Token :=
  let o := 0x60000 + 0x4000 * i
  (List.range (min 64 (f.n (o + 0x2040) 1))).map (fun j => imgToken f (o + 128 * j) (o + 0x2080 + j))

def imgEnd (f : Img) (i : Nat) : ChEnd :=
  let p := 0x62000 + 0x4000 * i
  { dir := BitVec.ofNat 2 (f.n p 1), chan := 0, slots := BitVec.ofNat 8 (f.n (p + 4) 1), mperiod := BitVec.ofNat 32 (f.n (p + 8) 4),
    ratio := BitVec.ofNat 16 (f.n (p + 12) 2), closed := f.n (p + 1) 1 == 1, sent := f.n (p + 16) 8, tail := f.n (p + 2) 1,
    span := BitVec.ofNat 32 (f.n (p + 24) 4), total := BitVec.ofNat 32 (f.n (p + 28) 4), marks := BitVec.ofNat 32 (f.n (p + 32) 4),
    errs := BitVec.ofNat 32 (f.n (p + 36) 4), reason := BitVec.ofNat 8 (f.n (p + 3) 1), cFull := BitVec.ofNat 49 (f.n (p + 40) 8),
    cEmpty := BitVec.ofNat 49 (f.n (p + 48) 8), cMove := BitVec.ofNat 49 (f.n (p + 56) 8), moved := false }

def imgCore (f : Img) : StrandCore :=
  { a := imgSeq f 0x20 0x100 0x300, e := imgSeq f 0x40 0x200 0x380,
    v := Vector.ofFn (fun i => BitVec.ofNat 1024 (f.n (0x1000 + 128 * i.val) 128)),
    k := Vector.ofFn (fun i => BitVec.ofNat 128 (f.n (0x500 + 16 * i.val) 16)),
    w := Vector.ofFn (fun i => imgWalker f i.val),
    q := Vector.ofFn (fun i => (List.range (f.n (0x5D0 + i.val) 1)).map (fun j =>
      ⟨BitVec.ofNat 1024 (f.n (0x2000 + 0x400 * i.val + 128 * j) 128), (f (0x5D8 + i.val)).getLsbD j, false⟩)),
    bqAE := bitList (f.n 0x5C0 4) (f.n 0x5C8 1), bqEA := bitList (f.n 0x5C4 4) (f.n 0x5C9 1),
    h := Vector.ofFn (fun i => BitVec.ofNat 16 (f.n (0x580 + 2 * i.val) 2)), etc := BitVec.ofNat 32 (f.n 0x5A0 4),
    spanno := BitVec.ofNat 32 (f.n 0x5A4 4), c := Vector.ofFn (fun i => imgEnd f i.val), chains := Vector.ofFn (fun i => imgChain f i.val),
    cps := Vector.ofFn (fun i => let t := f.w (0x400 + 16 * i.val); ⟨BitVec.ofNat 4 (bitsOf t 56 4), BitVec.ofNat 56 (bitsOf t 0 56), none⟩),
    heldRst := if f.n 0x5A8 1 % 2 == 1 then some (f.w 0x5B0) else none,
    heldUnr := if f.n 0x5A8 1 / 2 == 1 then some (f.w 0x5B8) else none }

/-- An image as read, for a tile of the given kind; none when it is malformed. -/
def parseImage (f : Img) (zr : Nat → Nat → Bool) (mTile : Bool) (size : Nat) : Option Image :=
  if !imgOk f zr mTile size then none
  else
    let flags := f.n 6 2
    some
      { ctile := f.n 0x14 2, boff := f.n 0x18 4, core := imgCore f,
        full := (List.range (size / 128)).filter (fun i => (f (0x51000 + i / 8)).getLsbD (i % 8)),
        mx := if flags / 64 == 1 then some (imgMx f 0) else none,
        toks := (List.range 8).map (fun i => (i, imgTokens f i)), withdrawn := flags / 32 % 2 == 1,
        pcause := BitVec.ofNat 8 (f.n 0x60 1), pwho := BitVec.ofNat 8 (f.n 0x61 1), parg := f.w 0x68 }

/-! ## Arrivals of a saved strand (10: R252) -/

/-- The column phase of a mesh closes when nobody holds it any more. -/
def State.closeCol (s : State) (k : Nat) : State :=
  let x := k % 16
  let die := k / 16
  let held := (List.range 16).any (fun y =>
    let w := s.row (die * 16 + y)
    w.opened && w.kind == 2 && (w.has x || w.toCol.any (fun a => a.1 == x) || w.held.contains x))
  s.updCol k (fun w => if w.arrived.isEmpty && !(w.kind == 2 && held) then { w with opened := false } else w)

/-- An unreleased arrival on a wire is withdrawn. -/
def State.withdrawOne (s : State) (a : Arrival) : State :=
  let sid := a.sid
  let t := sidTile sid
  let rk := t / 256 * 16 + tileY t
  let ck := t / 256 * 16 + tileX t
  let s := match a.bkind.toNat with
    | 0 => s.updRow rk (fun w => { w with arrived := w.arrived.filter (fun p => p.2 != sid) }.closeIf)
    | 1 => (s.updCol ck (fun w => { w with arrived := w.arrived.filter (fun p => p.2 != sid) })).closeCol ck
    | _ =>
      let s := s.updRow rk (fun w => { w with
        arrived := w.arrived.filter (fun p => p.2 != sid), toCol := w.toCol.filter (fun p => p.2 != sid),
        held := w.held.filter (fun x => x != tileX t) }.closeIf)
      (s.updCol ck (fun w => { w with arrived := w.arrived.filter (fun p => p.2 != sid) })).closeCol ck
  { s with arrivals := s.arrivals.map (fun b => if b == a then { b with withdrawn := true } else b) }

/-- The arrivals of a strand that leaves for its image: those on wires are withdrawn; all are kept under its name. -/
def State.saveArrivals (s : State) (sid : Nat) : State :=
  let t := s.strand sid
  let go := s.arrivals.filter (fun a => a.sid == sid && a.bkind != 3 && !a.done && !a.withdrawn)
  let s := go.foldl State.withdrawOne s
  let id := awayId t.rk t.inv t.ctile
  let s : State := { s with arrivals := s.arrivals.map (fun a => if a.sid == sid then { a with sid := id } else a) }
  s.updStrand sid (fun t => { t with withdrawn := s.arrivals.any (fun a => a.sid == id && a.withdrawn) })

/-! ## The save (18: R382, R388) -/

/-- Where an invocation stands by its strands: being saved, frozen, saved, or running. -/
def State.invByStrands (s : State) (rk i : Nat) : State :=
  let l := (s.invSids rk i).map s.strand
  let x := (s.recOf rk).inv i
  let st := if l.any (fun t => t.scstate == 4) then .saving
    else if l.isEmpty && !x.savedT.isEmpty then .saved
    else if l.any (fun t => t.scstate == 3) && l.all (fun t => t.scstate == 3) then .frozen
    else .running
  (s.updInv rk i (fun x => { x with st := st, since := s.cycle, going := x.going && st == .saving })).settleRec rk

/-- Walker `w` has stopped for the save. -/
def State.walkerStopped (s : State) (sid w : Nat) : Bool :=
  let x := s.walkerOf sid w
  x.st != .running || (x.go == 0 && (x.fin || s.walkerPaused sid x (wdesc x.desc)))

/-- A strand's source buffer is needed no more: its collective has ended, or every chunk of it is acknowledged. A collective that only waits for
acknowledgements, the strand's own among them, does not hold its save back (12: R306; log 72). -/
def State.collFree (s : State) (gid : Nat) (x : Coll) : Bool :=
  x.st != 0 || !s.groupLive gid x ||
    ((List.range (chunksOf x.len)).all x.got.contains && s.chunks.all (fun p => p.1 / 1024 != gid * 16 + x.gen.toNat))

/-- Steps 2 and 3 of 18: R382 are done. -/
def State.saveSettled (s : State) (sid : Nat) : Bool :=
  let t := s.strand sid
  let tile := s.tile (sidTile sid)
  (List.range 8).all (s.walkerStopped sid) &&
    (List.range 4).all (fun c => !((tile.chainOwner.getD c none) == some sid) || (tile.chainPipe.getD c []).isEmpty) &&
    !(s.copies.any (fun p => match p.2.owner with
      | .strand x _ _ _ _ => x == sid
      | _ => false)) &&
    !(s.podOut.any (fun p => p.2.kind == 2 && p.2.of t)) &&
    (s.sumsOf sid).isEmpty && !(tile.mx.owner == some sid && tile.mx.ent.toList.any (fun e => !e.upd.isEmpty)) &&
    (s.collsOf sid).all (fun p => s.collFree p.1 p.2)

/-- `SAVE_FORCED`: 120,000 cycles after the request. Rows under way that will not end go back. -/
def execSaveForced (sid : Nat) (s : State) : Out :=
  let t := s.strand sid
  match t.saveReq with
  | none => .next s
  | some c =>
    if t.scstate != 4 || t.saveForced || s.cycle.toNat < c.toNat + 120000 || s.saveSettled sid then .next s
    else
      let s := (List.range 8).foldl (fun s w => s.walkerUndo sid w) (s.updStrand sid (fun t => { t with saveForced := true }))
      .next (s.faultRecord ⟨sid, false⟩ cPreempt 0 0 [0, 0, 0, 0] akTrap)

/-- The pages of an image, or its fault. One at a `SAVE` that is not 64 KiB aligned has a cause that the spec does not state (log 28). -/
def State.imageParts (s : State) (die rk : Nat) (n : Need) (va : Word) (size : Nat) : Except (Cause × Word) (List Part) :=
  let r := s.recOf rk
  if r.save.toNat % 65536 != 0 then .error (s.anyFault, r.save)
  else if spaceOf va != 0 then .error (cBounds, va)
  else s.globalParts die r.ptag.toNat n va.toNat size (size / 65536 + 2)

/-- Offers on zero-slot ends that a save takes back: the instruction will offer again. -/
def State.takeBack (s : State) (sid : Nat) : State :=
  let one (s : State) (w : Option Wait) : State :=
    match w with
    | some (.chan c _ (some o) _) =>
      let k := (s.endOf sid c).chan
      let ch := s.chan k
      if ch.slots == 0 && !ch.taken o then
        s.updChan k (fun c => { c with tokens := c.tokens.dropLast, put := c.put - 1 })
      else s
    | _ => s
  let c := (s.strand sid).core
  one (one s c.a.wait) c.e.wait

/-- A row of a faulted walker under way is repeated in full. -/
def State.undoRows (s : State) (sid : Nat) : State := (List.range 8).foldl (fun s w => s.walkerUndo sid w) s

/-- The collectives of one participant pass to another name. -/
def State.moveColls (s : State) (x y : Nat) : State :=
  (s.collsOf x).foldl (fun s p => (s.dropColl x p.1).setColl y p.1 p.2) s

/-- A saved strand leaves its slot and its allocation; its channels and its collectives wait for it. -/
def State.leaveSaved (s : State) (sid : Nat) : State :=
  let t := s.strand sid
  let tile := sidTile sid
  let s := (s.releaseMx sid).updTile tile (fun x => { x.dropChains sid with
    allocs := x.allocs.filter (fun a => !(a.rk == t.rk && a.inv == t.inv && a.ctile == t.ctile)) })
  let s := (s.recvEnds sid).foldl (fun s i => s.updChan (s.endOf sid i).chan (fun c => if c.slots == 0 then c else { c with tokens := [] })) s
  let s : State := { s with
    chans := s.chans.map (fun p => (p.1, { p.2 with
      sSid := if p.2.sSid == some sid then none else p.2.sSid, rSid := if p.2.rSid == some sid then none else p.2.rSid })),
    podOut := s.podOut.filter (fun p => !(p.2.kind == 0 && p.2.of t)) }
  (s.moveColls sid (awayId t.rk t.inv t.ctile)).emptySlot sid

/-- `SAVE_DONE` (18: R382, R388): the image is written and the slot freed, or a fault freezes the strand in place. The translations held
for its write-backs go with it; they are taken again when the write-backs start (DEDUCED, log 29). -/
def execSaveDone (sid : Nat) (s : State) : Out :=
  let t := s.strand sid
  if t.scstate != 4 || t.saveReq.isNone || !s.saveSettled sid then .next s
  else
    let s := s.settleLoads sid
    let va := s.imageAddr sid
    match s.imageParts (sidDie sid) t.rk .store va (imageSize t.size) with
    | .error (c, a) =>
      let s := (s.saveFaultEvent sid c a).updStrand sid (fun t => { t with scstate := 3, saveReq := none })
      .next ((s.invByStrands t.rk t.inv).withdrawDie (sidDie sid))
    | .ok ps =>
      let s := (((s.takeBack sid).undoRows sid).drain sid allKinds).releaseBy (s.whoOf sid) 4 true
      let s := s.saveArrivals sid
      let mine := (s.mx (sidTile sid)).owner == some sid
      let s := s.writeImage sid ps (s.imageCore sid ++ s.allocCells (sidTile sid) t.base t.size)
      let s := s.saveDoneEvent sid 0
      let s := (s.leaveSaved sid).updInv t.rk t.inv (fun x => { x with
        savedT := insertNat t.ctile x.savedT, claims := if mine then insertNat t.ctile x.claims else x.claims,
        wb := x.wb.map (fun w => if w.2.1 == t.ctile then (w.1, w.2.1, w.2.2.map (fun r => { r with dst := [] })) else w) })
      .next ((s.invByStrands t.rk t.inv).withdrawDie (sidDie sid))

/-- `CTXSAVE` (13: R335). -/
def execCtxsave (d a : BitVec 5) (s : State) : Out :=
  let sel := s.g a
  let sid := bitsOf sel 0 12
  let t := s.strand sid
  if bitsOf sel 12 52 != 0 then s.ret d 4
  else if t.scstate == 0 then s.ret d 1
  else if t.scstate == 4 then s.ret d 2
  else if 4 ≤ s.savesOn (sidDie sid) then s.ret d 3
  else (s.requestSave sid (some (coreNo s.cur))).ret d 0

/-! ## Resume (18: R381) -/

/-- A pending trap is delivered at `TRAPVEC`. A pending translation fault is not: its instruction executes again; a cause that is never taken
there (07: R193) has left its fault record already. -/
def State.deliver (s : State) (sid : Nat) : State :=
  let t := s.strand sid
  let s := s.updStrand sid (fun t => { t with pendCause := 0, pendArg := 0, pendWho := 0 })
  if !isTrapCause t.pendCause then s
  else
    let cur := s.cur
    { ({ s with cur := ⟨sid, t.pendWho.getLsbD 3⟩ }.trap t.pendCause t.pendArg) with cur := cur }

/-- A parked sequencer goes on: after a nested trap at `TRLINE` and `TRIDX`; after one without a handler where it stopped (log 19). -/
def State.unpark (s : State) (sid : Nat) : State :=
  let t := s.strand sid
  let s := s.updStrand sid (fun t => { t with scstate := 1, park := .none, stepA := false, stepE := false })
  match t.park with
  | .trap _ =>
    let e := t.pendWho.getLsbD 3
    (s.updSeqOf ⟨sid, e⟩ (fun q => if q.tcause.getLsbD 8 then q.trapRet else q)).updStrand sid (fun t => { t with pendCause := 0, pendArg := 0, pendWho := 0 })
  | .none => s.deliver sid
  | _ => s.updStrand sid (fun t => { t with pendCause := 0, pendArg := 0, pendWho := 0 })

/-- Every faulted walker runs, and repeats its iteration. -/
def StrandCore.runWalkers (c : StrandCore) : StrandCore :=
  { c with w := c.w.map (fun x => if x.st == .faulted then { x with st := .running, brk := false } else x) }

/-- A resume of a strand. One that runs has only its walkers' fault pending, which is so no longer. -/
def State.scResume (s : State) (sid : Nat) : State :=
  let t := s.strand sid
  let walkers (s : State) : State := s.updCoreOf sid StrandCore.runWalkers
  if t.scstate == 1 then (walkers s).updStrand sid (fun t => { t with pendCause := 0, pendArg := 0, pendWho := 0 })
  else if t.scstate == 2 then (walkers s).unpark sid
  else if t.scstate == 3 then
    let s := (((walkers s).unpark sid).setAway sid false).grantAgain sid
    let s := s.updInv t.rk t.inv (fun x => { x with st := .running })
    if (s.recOf t.rk).st == .parked then s.setRec t.rk .running else s
  else s

/-- `SCRESUME`. -/
def execScresume (sid : Nat) (s : State) : Out := .next (if sid < 4096 then s.scResume sid else s)

/-! ## Restore (18: R387) -/

/-! ### The span store buffer (20: R409) -/

/-- The first strand on a tile whose region is a rollback region holds the tile's buffer. -/
def State.giveBuffer (s : State) (sid : Nat) : State :=
  if s.rollbackRegion sid && !((List.range 4).any (fun i => (s.strand (i * 1024 + sidTile sid)).buffer)) then
    s.updStrand sid (fun t => { t with buffer := true })
  else s

/-- A strand is in a slot: nothing that the slot's last strand knew is known, the acquire of a start or a restore follows, and the tile's
read buffer goes (03: R90, R100; 18: R387). -/
def State.arrive (s : State) (sid : Nat) : State := (s.newParty (.strand sid)).acquireAs sid 5 true

/-- A strand built from an image into a slot, and started. -/
def State.restoreStrand (s : State) (sid rk inv : Nat) (m : Image) (level : Nat) : State :=
  let r := s.recOf rk
  let size := r.spad.toNat * 16384
  let size := if r.fmt == 1 then spadBytes (sidTile sid) else size
  let t : Strand :=
    { Strand.empty with
      core := m.core, scstate := 1, tref := s.trefOf rk, ptag := r.ptag, rk := rk, inv := inv, ctile := m.ctile, campW := r.cw, campH := r.ch,
      base := m.boff, size := size, startedAt := s.cycle, level := level, pendCause := m.pcause, pendArg := m.parg, pendWho := m.pwho }
  let s := (s.setStrand sid t).arrive sid
  let g0 := m.boff / 128
  let s := s.updTile (sidTile sid) (fun (x : Tile) =>
    let l : List Nat := x.full.filter (fun (g : Nat) => !(decide (g0 ≤ g) && decide (g < g0 + size / 128)))
    { x with full := m.full.foldl (fun (l : List Nat) (g : Nat) => insertNat (g0 + g) l) l })
  let s : State := match m.mx with
    | some x => s.updMx (sidTile sid) (fun _ => { x with owner := some sid, ent := x.ent.map (fun (e : FEntry) => { e with sid := sid }) })
    | none => s
  let s := s.bindEnds sid true
  let s : State := m.toks.foldl (fun (s : State) (p : Nat × List Token) =>
    let e := s.endOf sid p.1
    if e.dir == 2 then (s.updChan e.chan (fun (c : Chan) => if c.slots == 0 then c else { c with tokens := p.2 ++ c.tokens })).flushDue e.chan
    else s) s
  let id := awayId rk inv m.ctile
  let back (a : Arrival) : Arrival := if a.sid == id then { a with sid := sid } else a
  let s : State := { s with arrivals := s.arrivals.map back }
  let s := ((s.moveColls id sid).podBack sid).giveBuffer sid
  let s := (s.region sid).foldl (fun s x => s.waveComplete sid (s.strand x).core.spanno) s
  s.deliver sid

/-- The poisoned lines of a range, as a service core finds them: each gives an error response (20: R403; log 23). -/
def State.corePoisoned (s : State) (k n : Nat) : State :=
  (s.poison.filter (fun l => k < 128 * l + 128 && 128 * l < k + n)).foldl (fun s l => s.errorResponse s.sid 5 (BitVec.ofNat 64 (128 * l))) s

/-- `CTXLOAD` (13: R335): the image at a physical address into a slot; it acquires the image's writes. Poisoned bytes of it read zero
(log 23). -/
def execCtxload (d a b : BitVec 5) (s : State) : Out :=
  let sel := s.g a
  let sid := bitsOf sel 0 12
  let tile := sidTile sid
  let pa := (s.g b).toNat
  let poisoned (k : Nat) : Bool := s.poison.contains (k / 128)
  let f : Img := fun o => if poisoned (pa + o) then 0 else s.byte (pa + o)
  let inImg (n : Nat) (c : Nat × Byte) : Bool := pa ≤ c.1 && c.1 < pa + n && !poisoned c.1
  let zr := noneIn ((s.mem.filter (inImg 0x80000)).map (fun c => c.1 - pa))
  let tref := f.w 8
  let rk := trefKey tref
  let inv := f.n 0x10 4
  let size := if (s.recOf rk).fmt == 1 then spadBytes tile else f.n 0x16 1 * 16384
  let t := s.tile tile
  let p := f.n 0x1C 2
  let boff := f.n 0x18 4
  let free := boff + size ≤ spadBytes tile && t.allocs.all (fun x => x.base + x.size ≤ boff || boff + size ≤ x.base)
  if bitsOf sel 12 52 != 0 then s.ret d 4
  else if (s.strand sid).live then s.ret d 1
  else
    let s := (s.settle (·.inRange pa (0x80000 + size))).corePoisoned pa 0x80000
    match parseImage f zr (!isXTile tile) size with
    | none => s.ret d 2
    | some m =>
      if t.rmode == 1 && t.rptag.toNat != p || t.rmode.toNat == 2 then s.ret d 3
      else if m.mx.isSome && t.mx.owner.isSome then s.ret d 5
      else if !free then s.ret d 1
      else
        let s := s.updTile tile (fun x => { x with allocs := x.allocs ++ [⟨boff, size, BitVec.ofNat 12 p, rk, inv, m.ctile⟩] })
        let s := (s.zero (scratchKey tile boff) size).corePoisoned (pa + 0x80000) size
        let k := pa + 0x80000
        let s := s.putCells ((s.mem.filter (fun c => k ≤ c.1 && inImg (0x80000 + size) c)).map (fun c => (scratchKey tile boff + (c.1 - k), c.2)))
        let x := (s.recOf rk).inv inv
        let s := s.updInv rk inv (fun x => { x with
          tiles := x.tiles.set m.ctile tile, bases := x.bases.set m.ctile boff, savedT := x.savedT.erase m.ctile,
          claims := x.claims.erase m.ctile })
        let s := (s.restoreStrand sid rk inv m x.level).updInv rk inv (fun x => { x with st := .running })
        (if (s.recOf rk).st == .parked then s.setRec rk .running else s).ret d 0

end Sys2Proof.Machine
end

