-- ==== Sys2Proof/Machine/Placer.lean ====
section
/-! DEFINITION. Placer.lean: the dispatchers: candidates and decisions, placement, camp assignment and staging, strand start, pre-emption,
reservations, staging retries (01: R37-R52, R432, R433; 02: R55, R82; 18: R378, R380, R387). -/

namespace Sys2Proof.Machine

/-! ## Sub-grids (01: R39) -/

/-- The tile column of a sub-grid column. -/
def colX (xt : Bool) (c : Nat) : Nat := if xt then 4 * c + 3 else c + c / 3
def gridCols (xt : Bool) : Nat := if xt then 4 else 12

/-- The tiles of a camp at an origin, row-major. -/
def Rec.campAt (r : Rec) (die : Nat) (xt : Bool) (ox oy : Nat) : List Nat :=
  (List.range r.ch).flatMap (fun j => (List.range r.cw).map (fun c => die * 256 + (oy + j) * 16 + colX xt (ox + c)))

/-- Origins in the order of R40. -/
def Rec.origins (r : Rec) (xt : Bool) : List (Nat × Nat) :=
  (List.range (17 - r.ch)).flatMap (fun oy => (List.range (gridCols xt + 1 - r.cw)).map (fun ox => (ox, oy)))

/-! ## Operand descriptors (01: R24) -/

structure OpD where
  addr : Word
  doff : Nat
  rows : Nat
  ety : Nat
  flags : Nat
  rowbytes : Nat
  stride : Int
  kstride : Nat
  deriving DecidableEq, Repr

def opOf (b : List Byte) : OpD :=
  { addr := BitVec.ofNat 64 (leAt b 0 8), doff := leAt b 8 4, rows := leAt b 12 2, ety := leAt b 14 1, flags := leAt b 15 1,
    rowbytes := leAt b 16 4, stride := sxt (leAt b 20 4) 32, kstride := leAt b 24 8 }

def OpD.slot (o : OpD) : Bool := o.flags.testBit 0
def OpD.mcast (o : OpD) : Bool := o.flags.testBit 2
def OpD.fem (o : OpD) : Bool := o.flags.testBit 3
def OpD.wb (o : OpD) : Bool := o.flags.testBit 4
def OpD.recrow (o : OpD) : Bool := o.flags.testBit 5
def OpD.keyoff (o : OpD) : Bool := o.flags.testBit 6

/-- Allocation bytes per camp tile (01: R21, R23). -/
def Rec.alloc (r : Rec) (xt : Bool) : Nat := if r.fmt == 1 then (if xt then 0x300000 else 0x100000) else r.spad.toNat * 16384

/-- The sub-grids that `TKIND` 2 and its like try, in order (01: R39, R23). -/
def Rec.kinds (r : Rec) : List Bool :=
  let big := if r.fmt == 1 then (r.opsT.map opOf).any (fun o => 0x100000 < o.doff + o.rows * o.rowbytes) else 64 < r.spad.toNat
  match r.tkind.toNat with
  | 0 => [false]
  | 1 => [true]
  | _ => if big then [true] else [false, true]

/-! ## Where a camp fits (01: R40, R47; 18: R387) -/

def candKey (rk inv : Nat) : Nat := rk * 2 ^ 20 + inv

def Tile.rangeFree (t : Tile) (b n : Nat) : Bool := t.allocs.all (fun a => a.base + a.size ≤ b || b + n ≤ a.base)

/-- The lowest base of `n` free bytes. -/
def Tile.freeBase (t : Tile) (cap n : Nat) : Option Nat :=
  ((0 :: t.allocs.map (fun a => a.base + a.size)).filter (fun b => b + n ≤ cap && t.rangeFree b n)).foldl (fun m b => optMin m (some b)) none

/-- The base that camp tile `ct` of an invocation gets on tile `t`; with `occ` false as if no other task occupied it. A saved strand
comes back to its own range, and with a claim to an unclaimed engine. -/
def State.tileFits (s : State) (rk inv : Nat) (xt occ : Bool) (t ct : Nat) : Option Nat :=
  let r := s.recOf rk
  let x := r.inv inv
  let y := s.tile t
  let taken := s.disp.any (fun d => d.2.resv.any (fun z => z.1 != candKey rk inv && z.2.contains t))
  if !y.insvc || 2 ≤ y.rmode.toNat || (y.rmode == 1 && y.rptag != r.ptag) || taken then none
  else if x.st == .saved then
    let b := x.bases.getD ct 0
    if x.savedT.contains ct && occ && (!y.rangeFree b (r.alloc xt) || (x.claims.contains ct && y.mx.owner.isSome)) then none else some b
  else if occ then y.freeBase (spadBytes t) (r.alloc xt)
  else some 0

/-- A place for a camp: its kind, tiles and bases. -/
structure Camp where
  xt : Bool
  tiles : List Nat
  bases : List Nat
  deriving DecidableEq, Repr

/-- The first origin of a die at which every tile fits. DESIGN CHOICE (log 24): with several dies, both sub-grids of a `TKIND` 2 record are
tried on one die before the next die. -/
def State.findOn (s : State) (rk inv die : Nat) (occ : Bool) : Option Camp :=
  let r := s.recOf rk
  let x := r.inv inv
  (if x.st == .saved then [x.xTiles] else r.kinds).findSome? (fun xt =>
    (r.origins xt).findSome? (fun o =>
      let ts := r.campAt die xt o.1 o.2
      let bs := (indexed ts).map (fun p => s.tileFits rk inv xt occ p.2 p.1)
      if bs.all Option.isSome then some ⟨xt, ts, bs.map (fun b => b.getD 0)⟩ else none))

/-- Candidate dies in order, those that the home die reaches. -/
def State.diesOf (s : State) (rk : Nat) : List Nat :=
  let r := s.recOf rk
  let home := recDie rk
  if r.donemap == 0 || r.diemask == 0 then [home]
  else ((List.range 4).map (fun i => (home + i) % 4)).filter (fun d => r.diemask.getLsbD d && !r.lostDies.contains d && s.reach home d)

/-! ## Camp assignment (01: R41; 18: R378) -/

/-- What an invocation's descriptors come to: the tile record's fields, and each descriptor with its resolved address and whether its slot
is zero. -/
structure Prep where
  key : Nat
  row0 : Nat
  mask : Nat
  ops : List (OpD × Word × Bool)

def State.resolveOps (s : State) (rk : Nat) : List OpD → Except (Cause × Nat) (List (OpD × Word × Bool) × State)
  | [] => .ok ([], s)
  | o :: l =>
    let one : Except (Cause × Nat) (Word × Bool × State) :=
      if o.slot then
        match s.slotValue rk (bitsOf o.addr 0 16) with
        | .error x => .error x
        | .ok (v, s) => .ok (v + BitVec.ofNat 64 (bitsOf o.addr 16 48), v == 0, s)
      else .ok (o.addr, false, s)
    match one with
    | .error x => .error x
    | .ok (w, z, s) => match s.resolveOps rk l with
      | .error x => .error x
      | .ok (r, s) => .ok ((o, w, z) :: r, s)

/-- Read the tile record and resolve the slots, through held translations. -/
def State.prep (s : State) (rk inv : Nat) : Except (Cause × Nat) (Prep × State) :=
  let r := s.recOf rk
  let tr : Except (Cause × Nat) (List Byte × State) :=
    if r.kind == 2 then s.dispRead rk (r.recs.toNat + 32 + 32 * inv) 32 else .ok (padTo 32 (bytesLE 0 8 ++ bytesLE 0xFFFFFFFF 4), s)
  match tr with
  | .error x => .error x
  | .ok (b, s) => match s.resolveOps rk (r.opsT.map opOf) with
    | .error x => .error x
    | .ok (l, s) => .ok (⟨leAt b 0 4, leAt b 4 4, leAt b 8 4, l⟩, s)

/-- The source address of row `j`. -/
def Prep.rowVa (q : Prep) (o : OpD) (base : Word) (j : Nat) : Word :=
  base + (if o.keyoff then BitVec.ofNat 64 (q.key * o.kstride) else 0) +
    BitVec.ofInt 64 ((if o.recrow then (q.row0 + j : Nat) else (j : Nat) : Int) * o.stride)
def Prep.masked (q : Prep) (o : OpD) (j : Nat) : Bool := o.recrow && !q.mask.testBit j

/-- Translate a descriptor: row, address and parts; a masked row has none. -/
def State.planOp (s : State) (die p : Nat) (q : Prep) (o : OpD) (base : Word) : Except (Cause × Word) (List (Nat × Word × List Part)) :=
  (List.range o.rows).mapM (fun j =>
    let va := q.rowVa o base j
    if q.masked o j then .ok (j, va, []) else (s.opParts die p (if o.wb then .store else .load) va o.rowbytes).map (fun ps => (j, va, ps)))

/-- The rows of a descriptor for one camp tile: from the source into the allocation, or back. -/
def opRow (o : OpD) (tile b : Nat) (x : Nat × Word × List Part) : CpRow :=
  let off := b + o.doff + x.1 * o.rowbytes
  let mine : List Part := [⟨scratchKey tile off, o.rowbytes, .release, none⟩]
  let lva : Word := BitVec.ofNat 64 (0xFE * 2 ^ 56 + off)
  if o.wb then ⟨mine, x.2.2, lva, x.2.1, o.rowbytes, false⟩ else ⟨x.2.2, mine, x.2.1, lva, o.rowbytes, false⟩

/-- Stage descriptor `i` of an invocation with a camp: copies for every camp tile, or held write-backs; a fault is recorded. -/
def State.stageOp (s : State) (rk inv i : Nat) (q : Prep) (o : OpD) (base : Word) (zero : Bool) : State :=
  let r := s.recOf rk
  let x := r.inv inv
  match (if zero then .error (cXlateMiss, 0) else s.planOp x.die r.ptag.toNat q o base) with
  | .error (c, a) =>
    (s.stagingRecord rk (some inv) c a).updInv rk inv (fun x => { x with faulted := insertNat i x.faulted })
  | .ok rows =>
    let s := s.updInv rk inv (fun x => { x with faulted := x.faulted.erase i })
    (indexed (x.tiles.zip x.bases)).foldl (fun (s : State) (p : Nat × Nat × Nat) =>
      let rs := (rows.filter (fun y => !(o.wb && y.2.2.isEmpty))).map (opRow o p.2.1 p.2.2)
      if o.wb then s.updInv rk inv (fun x => { x with wb := x.wb ++ [(i, p.1, rs)] })
      else
        let key : Option MergeKey :=
          if o.mcast then
            some ⟨clusterOf p.2.1, r.ptag, q.rowVa o base 0, o.rows, o.rowbytes, BitVec.ofInt 64 o.stride, BitVec.ofNat 8 o.ety, o.doff⟩ else none
        let (s, id) := s.dispCopy ⟨.staging rk inv p.1 i, r.ptag, rs, o.fem, s.cycle, key, none⟩
        s.updInv rk inv (fun x => { x with copies := x.copies ++ [id] })) s

/-- An entry of the resolved operand table (02: R55). -/
def opEntry (raw : List Byte) (base : Word) : List Byte :=
  bytesLE base.toNat 8 ++ (raw.drop 8).take 7 ++ bytesLE (leAt raw 15 1 / 2 * 2) 1 ++ raw.drop 16

/-- The resolved operand table of every camp tile. -/
def State.writeOps (s : State) (rk inv : Nat) (q : Prep) : State :=
  let r := s.recOf rk
  let x := r.inv inv
  let tbl := padTo 2048 ((r.opsT.zip q.ops).flatMap (fun p => opEntry p.1 p.2.2.1))
  (x.tiles.zip x.bases).foldl (fun s p => s.wrBytes (scratchKey p.1 (p.2 + r.alloc x.xTiles - 2048)) tbl) s

/-- Tag an allocation and clear its full bits. -/
def State.takeAlloc (s : State) (t b n : Nat) (p : BitVec 12) (rk inv ct : Nat) : State :=
  s.updTile t (fun (x : Tile) =>
    let l : List Nat := x.full.filter (fun (g : Nat) => !(decide (b / 128 ≤ g) && decide (g < (b + n) / 128)))
    { x with allocs := x.allocs ++ [⟨b, n, p, rk, inv, ct⟩], full := l })

/-- The candidate leaves the tables of R47. -/
def State.placed (s : State) (rk inv : Nat) : State :=
  s.updDisp (recDie rk) (fun d => { d with
    resv := d.resv.filter (fun z => z.1 != candKey rk inv), passed := Tbl.del d.passed (candKey rk inv) })

/-- Assign a camp to an invocation not yet placed, and stage it. -/
def State.assign (s : State) (rk inv die : Nat) (c : Camp) (q : Prep) : State :=
  let r := s.recOf rk
  let x : Invocation := { Invocation.empty with
    st := .staging, die := die, xTiles := c.xt, tiles := c.tiles, bases := c.bases, since := s.cycle }
  let s := s.updRec rk (fun r => { r with
    invs := Tbl.put r.invs inv x, next := if r.redo.contains inv then r.next else inv + 1, redo := r.redo.erase inv })
  let s := (indexed (c.tiles.zip c.bases)).foldl (fun s p => s.takeAlloc p.2.1 p.2.2 (r.alloc c.xt) r.ptag rk inv p.1) s
  let s := s.writeOps rk inv q
  let s := (indexed q.ops).foldl (fun s p => s.stageOp rk inv p.1 q p.2.1 p.2.2.1 p.2.2.2) s
  let s := if r.st == .parked then s.setRec rk .staging else s
  s.placed rk inv

/-! ## Restores (18: R387) -/

/-- The record of a malformed image ends. -/
def State.taskFailed (s : State) (rk : Nat) : State := (s.failRec rk).recEvent rk 2 0 0

/-- A byte of an image as the dispatcher reads it: zero where the line refuses. -/
def State.imgByte (s : State) (ps : List Part) (bad : List (Nat × Nat)) (o : Nat) : Byte :=
  let k := partKey ps o
  if bad.any (fun b => b.1 == k / 128) then 0
  else s.byteUnder ((ps.find? (fun p => p.key ≤ k && k < p.key + p.len)).bind (·.slot)) k

/-- The offsets from `o` on at which a range of parts may hold a byte that is not zero: those that memory lists, and the lines that read as
unrelated bytes. -/
def State.imgListed (s : State) : Nat → List Part → List Nat
  | _, [] => []
  | o, p :: r =>
    let within (k : Nat) : Bool := p.key ≤ k && k < p.key + p.len
    let strange := (p.lines.filter (fun l => (p.slot.map (s.foreign l)).getD false)).flatMap lineKeys
    ((s.mem.map (·.1) ++ strange).filter within).map (fun k => o + (k - p.key)) ++ s.imgListed (o + p.len) r

/-- Read the image of camp tile `ct` and copy its allocation. -/
def State.stageImage (s : State) (rk inv ct : Nat) : State :=
  let r := s.recOf rk
  let x := r.inv inv
  let tile := x.tiles.getD ct 0
  let n := r.alloc x.xTiles
  let va := r.save + BitVec.ofNat 64 ((inv * r.tilesN + ct) * imageSize n)
  let bad (c : Cause) (a : Word) : State :=
    (s.stagingRecord rk (some inv) c a).updInv rk inv (fun x => { x with faulted := insertNat ct x.faulted })
  match s.imageParts x.die rk .load va (imageSize n) with
  | .error (c, a) => bad c a
  | .ok ps =>
    let head := partsRange ps 0 0x80000
    let bad := s.badLines false head
    let s := head.foldl (fun s p => s.settle (·.inRange p.key p.len)) (s.touch false head)
    let s := bad.foldl (fun s b => s.violLog x.die r.ptag.toNat b.2 tile (BitVec.ofNat 64 (128 * b.1)) (s.trefOf rk)) s
    let f := s.imgByte head bad
    match parseImage f (noneIn ((s.imgListed 0 head).filter (fun o => f o != 0))) (!isXTile tile) n with
    | none => s.taskFailed rk
    | some m =>
      let s := s.updInv rk inv (fun x => { x with faulted := x.faulted.erase ct, images := x.images ++ [{ m with ctile := ct, boff := x.bases.getD ct 0 }] })
      let row (j : Nat) : CpRow :=
        let len := min 65536 (n - 65536 * j)
        let a := va + BitVec.ofNat 64 (0x80000 + 65536 * j)
        let src := (s.opParts x.die r.ptag.toNat .load a len).toOption.getD []
        ⟨src, [⟨scratchKey tile (x.bases.getD ct 0 + 65536 * j), len, .release, none⟩], a, a, len, false⟩
      let (s, id) := s.dispCopy ⟨.restore rk inv ct, r.ptag, (List.range ((n + 65535) / 65536)).map row, false, s.cycle, none, none⟩
      s.updInv rk inv (fun x => { x with copies := x.copies ++ [id] })

/-- The image of one camp tile after others: a malformed one has ended the record. -/
def State.nextImage (s : State) (rk inv ct : Nat) : State := if (s.recOf rk).st == .failed then s else s.stageImage rk inv ct

/-- Assign a camp to a saved invocation and start its restore. -/
def State.assignSaved (s : State) (rk inv die : Nat) (c : Camp) : State :=
  let r := s.recOf rk
  let x := r.inv inv
  let pick (old new : List Nat) : List Nat := (indexed old).map (fun p => if x.savedT.contains p.1 then new.getD p.1 0 else p.2)
  let s := s.updInv rk inv (fun x => { x with
    st := .staging, restore := true, die := die, tiles := pick x.tiles c.tiles, since := s.cycle, images := [], faulted := [] })
  let s := x.savedT.foldl (fun s ct => s.takeAlloc (c.tiles.getD ct 0) (x.bases.getD ct 0) (r.alloc x.xTiles) r.ptag rk inv ct) s
  let s := x.savedT.foldl (fun s ct => s.nextImage rk inv ct) s
  let s := if (s.recOf rk).st == .parked then s.setRec rk .staging else s
  s.placed rk inv

/-! ## Groups (01: R42) -/

/-- Records that channels with slots join to a record. -/
def State.slotPeers (s : State) (rk : Nat) : List Nat :=
  let r := s.recOf rk
  let l := s.instRecs r.inst.toNat
  (r.binds.map bindOf).filterMap (fun b => if b.slots == 0 || 0xFFFE ≤ b.peer then none else l[b.peer]?)

def State.groupFrom (s : State) (l : List Nat) : Nat → List Nat
  | 0 => l
  | n + 1 => s.groupFrom (l ++ ((l.flatMap s.slotPeers).eraseDups.filter (fun k => !l.contains k))) n

/-- The group of a record, in ascending prototype slot. -/
def State.groupOf (s : State) (rk : Nat) : List Nat :=
  let r := s.recOf rk
  if !r.streamlink then [rk]
  else
    let all := s.instRecs r.inst.toNat
    let l := s.groupFrom [rk] all.length
    all.filter l.contains

/-- The invocation to place next. -/
def Rec.nextInv (r : Rec) : Option Nat :=
  match r.redo with
  | i :: _ => some i
  | [] => if r.next < r.limit then some r.next else none

/-- The record is one that a decision may place an invocation of (01: R45): its translations are held, and the reads for that invocation do not
wait for a retry (01: R432). -/
def Rec.placeable (r : Rec) : Bool :=
  r.heldTr && !((r.nextInv.map (fun i => r.waits.contains (.place i))).getD false) &&
    (((r.st == .staging || r.st == .ready) && !r.anyInv IState.coming) || ((r.st == .running || r.st == .parked) && (r.kind == 1 || r.kind == 2)))

/-- The invocation a group member stands before, if it still has one to come. -/
def Rec.expects (r : Rec) : Option Nat :=
  if r.st == .staging || r.st == .running || r.st == .parked || r.st == .ready then
    match r.nextInv with
    | some i => some i
    | none => if r.kind == 2 && !r.listSealed then some r.next else none
  else none

/-- The members that take part in the group's next placement, with their invocation; none while one of them has not triggered, or
its tile record is not there. -/
def State.groupNext (s : State) (rk : Nat) : Option (List Nat × Nat) :=
  let g := s.groupOf rk
  if g.any (fun k => (s.recOf k).st == .building || (s.recOf k).st == .waiting) then none
  else match (g.filterMap (fun k => (s.recOf k).expects)).foldl (fun m i => optMin m (some i)) none with
    | none => none
    | some i =>
      let part := g.filter (fun k => (s.recOf k).expects == some i)
      if part.all (fun k => (s.recOf k).placeable && (s.recOf k).nextInv == some i) then some (part, i) else none

def State.prepAll (s : State) (i : Nat) : List Nat → Except (Nat × Cause × Nat) (List (Nat × Prep) × State)
  | [] => .ok ([], s)
  | k :: l => match s.prep k i with
    | .error (c, a) => .error (k, c, a)
    | .ok (q, s) => match s.prepAll i l with
      | .error x => .error x
      | .ok (r, s) => .ok ((k, q) :: r, s)

/-- Place every member on one die, or none. -/
def State.placeOn (s : State) (i die : Nat) : List (Nat × Prep) → Option State
  | [] => some s
  | (k, q) :: l => match s.findOn k i die true with
    | none => none
    | some c => (s.assign k i die c q).placeOn i die l

/-- The decision for an invocation not yet placed, and with it those of its group. The group takes the dies in the order of the member
that was chosen (log 24). -/
def State.tryPlace (s : State) (rk : Nat) : Option State :=
  match s.groupNext rk with
  | none => none
  | some (part, i) =>
    if !part.contains rk then none
    else match s.prepAll i part with
      | .error (k, c, a) => some (s.dispFault k (.place i) (some i) c (BitVec.ofNat 64 a))
      | .ok (l, s) =>
        (s.diesOf rk).findSome? (fun d =>
          if part.all (fun k => (s.diesOf k).contains d) then s.placeOn i d l else none)

def State.tryRestore (s : State) (rk inv : Nat) : Option State :=
  (s.diesOf rk).findSome? (fun d => (s.findOn rk inv d true).map (fun c => s.assignSaved rk inv d c))

/-! ## Strand start (01: R43, R433; 02: R82) -/

def State.freeSlotOn (s : State) (t : Nat) : Option Nat := (List.range 4).find? (fun i => !(s.strand (i * 1024 + t)).live)

def localWord (o : Nat) : Word := BitVec.ofNat 64 (0xFE * 2 ^ 56 + o)

/-- A sequencer at strand start. -/
def startSeq (entry : Word) (regs : List (BitVec 5 × Word)) : Seq :=
  regs.foldl (fun q r => q.gPut r.1 r.2) { Seq.empty with pc := entry &&& ~~~0x3F#64 }

/-- The registers of R82. -/
def Rec.startRegs (r : Rec) (inv ct b n : Nat) : List (BitVec 5 × Word) :=
  [(1, BitVec.ofNat 64 inv), (2, BitVec.ofNat 64 ct), (3, if r.kind == 2 then r.recs + BitVec.ofNat 64 (32 + 32 * inv) else 0), (28, r.params),
    (29, localWord (b + n - 2048)), (31, localWord (b + n - 2048))]

def State.startStrand (s : State) (rk inv ct level : Nat) : State :=
  let r := s.recOf rk
  let x := r.inv inv
  let tile := x.tiles.getD ct 0
  match s.freeSlotOn tile with
  | none => s
  | some i =>
    let sid := i * 1024 + tile
    if x.restore then
      match x.images.find? (fun m => m.ctile == ct) with
      | none => s
      | some m => s.restoreStrand sid rk inv m level
    else
      let n := r.alloc x.xTiles
      let b := x.bases.getD ct 0
      let regs := r.startRegs inv ct b n
      let t : Strand := { Strand.empty with
        core := { StrandCore.empty with a := startSeq r.entryA regs, e := startSeq r.entryE regs }, scstate := 1, tref := s.trefOf rk,
        ptag := r.ptag, rk := rk, inv := inv, ctile := ct, campW := r.cw, campH := r.ch, base := b, size := n, startedAt := s.cycle,
        level := level }
      (((s.setStrand sid t).arrive sid).bindEnds sid false).giveBuffer sid

/-- Camp tiles that a start puts a strand on. -/
def Invocation.toStart (x : Invocation) : List Nat := if x.restore then x.savedT else List.range x.tiles.length

/-- Every one of them has a free slot, and an engine for a claim it brings back. -/
def State.canStart (s : State) (rk inv : Nat) : Bool :=
  let x := (s.recOf rk).inv inv
  x.toStart.all (fun ct =>
    let t := x.tiles.getD ct 0
    (s.freeSlotOn t).isSome && !(x.claims.contains ct && (s.mx t).owner.isSome))

/-- Start the strands of a READY invocation. DESIGN CHOICE (log 24): the cycle from which its pitch is charged (01: R46) is that of this
start, also for one restored. DESIGN CHOICE (log 71): R29 gives no row for an invocation that was still staging or READY when its record became
PARKED; it starts as any READY one does, and its start takes the record to RUNNING. -/
def State.startInv (s : State) (rk inv level : Nat) : State :=
  let x := (s.recOf rk).inv inv
  let s := x.toStart.foldl (fun s ct => s.startStrand rk inv ct level) s
  let s := s.updInv rk inv (fun x => { x with
    st := .running, since := s.cycle, level := level, startedAt := s.cycle, savedT := [], claims := [], images := [], restore := false,
    going := false })
  let s := if (s.recOf rk).st == .running then s else s.setRec rk .running
  s.updRec rk (fun r => { r with tstart := if r.tstart == 0 then s.cycle else r.tstart })

/-! ## Candidates (01: R45) -/

inductive CandKind where
  | place | start | restore
  deriving DecidableEq, Repr

structure Cand where
  kind : CandKind
  rk : Nat
  inv : Nat
  level : Nat
  since : Nat
  deriving DecidableEq, Repr

def State.effLevel (s : State) (rk since : Nat) : Nat := min 7 ((s.recOf rk).prio.toNat + (s.cycle.toNat - since) / 2 ^ 20)

def State.cand (s : State) (k : CandKind) (rk inv : Nat) (since : Word) : Cand := ⟨k, rk, inv, s.effLevel rk since.toNat, since.toNat⟩

/-- The candidates of one record. DESIGN CHOICE (log 24): an invocation not yet placed has waited since its record entered its state. -/
def State.candsOf (s : State) (rk : Nat) (r : Rec) : List Cand :=
  let new := match r.nextInv with
    | some i => if r.placeable then [s.cand .place rk i r.since] else []
    | none => []
  new ++ r.invs.filterMap (fun p =>
    if p.2.st == .ready then some (s.cand .start rk p.1 p.2.since)
    else if p.2.st == .saved && (r.st == .running || r.st == .parked) then some (s.cand .restore rk p.1 p.2.since)
    else none)

def State.candidates (s : State) (die : Nat) : List Cand :=
  (s.recs.filter (fun p => recDie p.1 == die)).flatMap (fun p => s.candsOf p.1 p.2)

/-- What the decision for a candidate does, if it is able to proceed. -/
def State.tryCand (s : State) (c : Cand) : Option State :=
  match c.kind with
  | .place => s.tryPlace c.rk
  | .restore => s.tryRestore c.rk c.inv
  | .start => if s.canStart c.rk c.inv then some (s.startInv c.rk c.inv c.level) else none

/-! ## Choice (01: R45, R46) -/

def State.candPitch (s : State) (c : Cand) : Nat := (s.recOf c.rk).ptag.toNat
/-- Dispatch weight, `PCTL`[9:2] (17: R354). -/
def State.weight (s : State) (p : Nat) : Nat := bitsOf (s.pitch p).pctl 2 8

/-- Next in ascending order after `last`, wrapping. -/
def nextAfter (last : Nat) (l : List Nat) : Option Nat :=
  match (l.filter (fun p => last < p)).foldl (fun m p => optMin m (some p)) none with
  | some p => some p
  | none => l.foldl (fun m p => optMin m (some p)) none

def maxLevel (l : List Cand) : Nat := l.foldl (fun m c => max m c.level) 0

/-- Rounds of `weight * 65536` until the deficit is positive. -/
def roundsFor (d : Int) (w : Nat) : Nat := if 0 < d then 0 else ((-d).toNat + w * 65536) / (w * 65536)

/-- The dispatcher after the pitches of a level have received their rounds, and the pitch it serves. -/
def State.serve (s : State) (d : Dispatcher) (lv : Nat) (ps : List Nat) (weighted : Bool) : Dispatcher × Option Nat :=
  let def_ (p : Nat) : Int := Tbl.get d.deficit (p * 8 + lv) 0
  let n := if !weighted || ps.any (fun p => 0 < def_ p) then 0
    else ((ps.map (fun p => roundsFor (def_ p) (s.weight p))).foldl (fun m k => optMin m (some k)) none).getD 0
  let d := if n == 0 then d else
    { d with deficit := ps.foldl (fun t p => Tbl.put t (p * 8 + lv) (Tbl.get t (p * 8 + lv) 0 + n * s.weight p * 65536)) d.deficit }
  let able := if weighted then ps.filter (fun p => 0 < Tbl.get d.deficit (p * 8 + lv) 0) else ps
  match nextAfter (d.last.getD lv 0) able with
  | none => (d, none)
  | some p => ({ d with last := d.last.setIfInBounds lv p }, some p)

def State.before (s : State) (a b : Cand) : Bool := a.since < b.since || (a.since == b.since && (s.trefOf a.rk).toNat ≤ (s.trefOf b.rk).toNat)

/-- The candidate of a decision among those able to proceed, and the dispatcher after it. -/
def State.choose (s : State) (d : Dispatcher) (able : List Cand) : Dispatcher × Option Cand :=
  let heavy := able.filter (fun c => s.weight (s.candPitch c) != 0)
  let pool := if heavy.isEmpty then able else heavy
  let lv := maxLevel pool
  let here := pool.filter (fun c => c.level == lv)
  match s.serve d lv (here.map s.candPitch).eraseDups (!heavy.isEmpty) with
  | (d, none) => (d, none)
  | (d, some p) =>
    (d, (here.filter (fun c => s.candPitch c == p)).foldl (fun m c => match m with
      | none => some c
      | some x => if s.before x c then some x else some c) none)

/-! ## Pre-emption (01: R48) -/

/-- Ask for the save of every strand of an invocation that has none, at most 4 outstanding on a die. -/
def State.saveInv (s : State) (rk i : Nat) : State :=
  (s.invSids rk i).foldl (fun s sid =>
    if ((s.strand sid).scstate == 1 || (s.strand sid).scstate == 2) && s.savesOn (sidDie sid) < 4 then s.requestSave sid none else s) s

/-- Slots of a tile that are being freed. -/
def State.freeing (s : State) (t : Nat) : Bool :=
  (List.range 4).any (fun i => let x := s.strand (i * 1024 + t); x.scstate == 4 || (x.live && ((s.recOf x.rk).inv x.inv).going))

/-- The invocation to save for a full tile: the lowest starting level, then the latest TSTART. -/
def State.victim (s : State) (lv t : Nat) : Option (Nat × Nat) :=
  let l := (List.range 4).filterMap (fun i =>
    let x := s.strand (i * 1024 + t)
    let r := s.recOf x.rk
    let v := r.inv x.inv
    if (x.scstate == 1 || x.scstate == 2) && v.st == .running && v.level + 2 ≤ lv && r.save != 0 then
      some (v.level, r.tstart.toNat, x.rk, x.inv) else none)
  (l.foldl (fun m x => match m with
    | none => some x
    | some y => if x.1 < y.1 || (x.1 == y.1 && y.2.1 < x.2.1) then some x else some y) (none : Option (Nat × Nat × Nat × Nat))).map (fun x => x.2.2)

/-- A READY invocation that lacks slots asks for as many saves as it needs. -/
def State.preempt (s : State) (c : Cand) : State :=
  let x := (s.recOf c.rk).inv c.inv
  (x.toStart.map (fun ct => x.tiles.getD ct 0)).foldl (fun s t =>
    if (s.freeSlotOn t).isSome || s.freeing t then s
    else match s.victim c.level t with
      | none => s
      | some (rk, i) => (s.updInv rk i (fun x => { x with going := true })).saveInv rk i) s

/-- The saves of a decision: those under way go on, then those that READY invocations need. -/
def State.preempts (s : State) (die : Nat) (cs : List Cand) : State :=
  let s := (s.recs.filter (fun p => recDie p.1 == die)).foldl (fun s p =>
    (p.2.invs.filter (fun q => q.2.going)).foldl (fun s q => s.saveInv p.1 q.1) s) s
  (cs.filter (fun c => c.kind == .start)).foldl State.preempt s

/-! ## The decision -/

/-- Candidates at level 7 that a decision passes over, because they cannot proceed, are noted; entries of the others leave. -/
def notePassed (now : Word) (cs unable : List Cand) (d : Dispatcher) : Dispatcher :=
  let keys := (cs.filter (fun c => c.kind != .start)).map (fun c => candKey c.rk c.inv)
  let top := (unable.filter (fun c => c.kind != .start && c.level == 7)).map (fun c => candKey c.rk c.inv)
  let old := d.passed.filter (fun p => top.contains p.1)
  { d with resv := d.resv.filter (fun z => keys.contains z.1),
           passed := top.foldl (fun t k => if (Tbl.find t k).isSome then t else Tbl.put t k now) old }

/-- `DISPATCH_DECISION` (01: R45). -/
def execDispatchDecision (die : Nat) (s : State) : Out :=
  if s.cycle.toNat < (s.dispOf die).next.toNat then .next s
  else
    let s := s.updDisp die (fun d => { d with next := s.cycle + 4 })
    let s := s.preempts die (s.candidates die)
    let cs := s.candidates die
    let s := s.updDisp die (notePassed s.cycle cs (cs.filter (fun c => (s.tryCand c).isNone)))
    let (d, c) := s.choose (s.dispOf die) (cs.filter (fun c => (s.tryCand c).isSome))
    match c with
    | none => .next s
    | some c =>
      let s := s.updDisp die (fun _ => d)
      .next ((s.tryCand c).getD s)

/-- `STARVATION_RESERVATION` (01: R47). -/
def execStarvationReservation (die : Nat) (s : State) : Out :=
  let d := s.dispOf die
  let due := d.passed.filter (fun p => p.2.toNat + 2 ^ 23 ≤ s.cycle.toNat && !(d.resv.any (fun z => z.1 == p.1)))
  match due.findSome? (fun p => ((s.diesOf (p.1 / 2 ^ 20)).findSome? (fun x => s.findOn (p.1 / 2 ^ 20) (p.1 % 2 ^ 20) x false)).map (p.1, ·)) with
  | none => .next s
  | some (k, c) => .next (s.updDisp die (fun d => { d with resv := d.resv ++ [(k, c.tiles)] }))

/-- `STAGING_COMPLETE` (01: R41; 18: R387): every staging or restore copy of a camp is complete. -/
def execStagingComplete (rk inv : Nat) (s : State) : Out :=
  let r := s.recOf rk
  let x := r.inv inv
  if x.st != .staging || !x.copies.isEmpty || !x.faulted.isEmpty then .next s
  else
    let s := s.updInv rk inv (fun x => { x with st := .ready, since := s.cycle })
    .next (if r.st == .staging then s.setRec rk .ready else s)

/-! ## Retries (18: R378, R380; 01: R432) -/

/-- Translate the faulted descriptors or write-backs, or read the faulted images, of an invocation again. -/
def State.retryInv (s : State) (rk inv : Nat) : State :=
  let x := (s.recOf rk).inv inv
  if x.faulted.isEmpty then s
  else if x.st == .ended then s.startWbs rk inv
  else if x.restore then x.faulted.foldl (fun s ct => s.nextImage rk inv ct) s
  else match s.prep rk inv with
    | .error (c, a) => s.noteFault rk (some inv) c (BitVec.ofNat 64 a)
    | .ok (q, s) =>
      x.faulted.foldl (fun s i => match q.ops[i]? with
        | some o => s.stageOp rk inv i q o.1 o.2.1 o.2.2
        | none => s) (s.writeOps rk inv q)

/-! ## Re-dispatch (01: R52) -/

/-- The invocations placed before whose `DONEMAP` bit is clear. -/
def State.undone (s : State) (rk : Nat) : Except (Cause × Nat) (List Nat × State) :=
  let r := s.recOf rk
  if r.donemap == 0 then .ok ((List.range r.next).filter (fun i => (r.inv i).st != .finished), s)
  else
    let n := 8 * ((r.next + 63) / 64)
    match s.heldKeys rk true r.donemap.toNat n (n / 65536 + 2) with
    | .error x => .error x
    | .ok (l, s) =>
      if s.poisonAt l then .error (cUncorrectable, r.donemap.toNat)
      else .ok ((List.range r.next).filter (fun i => !(s.byte (l.getD (i / 8) 0)).getLsbD (i % 8)), s)

/-- The record runs what is not done. A fault in reading its `DONEMAP` leaves it PARTIAL until a retry (01: R432). -/
def State.redispatch (s : State) (rk : Nat) : State :=
  match s.undone rk with
  | .error (c, a) => s.dispFault rk .redo none c (BitVec.ofNat 64 a)
  | .ok (l, s) => (s.setRec rk .staging).updRec rk (fun r => { r with
      redo := l, lostDies := [], skipRet := false, waits := [], invs := r.invs.filter (fun i => !l.contains i.1) })

/-- An access of the dispatcher that waits is made again (01: R432): the translations, the decrements to send, or a re-dispatch that the driver
has asked for; a DONEMAP bit or a tile record is tried again by the step that needs it. -/
def State.retryAcc (s : State) (rk : Nat) (a : HeldAcc) : State :=
  let r := s.recOf rk
  match a with
  | .enter => if r.st == .staging && !r.heldTr then s.enterStaging rk else s
  | .send => match r.sending with
    | some (i, skip) => s.sendFrom rk i skip (r.nsucc.toNat + 1)
    | none => s
  | .redo => if r.st == .partialRet then s.redispatch rk else s
  | .place _ => s
  | .bit _ => s

def State.retryHeld (s : State) (rk : Nat) : State :=
  (s.recOf rk).waits.foldl (fun s a => s.retryAcc rk a) (s.updRec rk (fun r => { r with waits := [] }))

/-- `STAGING_RETRY`: a write of a tref to the die's staging-retry word. -/
def execStagingRetry (die : Nat) (tref : Word) (s : State) : Out :=
  let rk := trefKey tref
  let r := s.recOf rk
  if recDie rk != die || trefPkg tref != s.pkg.toNat || r.st == .free || trefInst tref != r.inst.toNat then .next s
  else
    let s := if r.waits.isEmpty then s else s.retryHeld rk
    .next ((r.invs.filter (fun p => !p.2.faulted.isEmpty)).foldl (fun s p => s.retryInv rk p.1) s)

end Sys2Proof.Machine
end

