-- ==== Sys2Proof/Machine/Queue.lean ====
section
/-! DEFINITION. Queue.lean: host queues: rings in host memory, requests, completions, the restart of a service core
(17: R348, R349, R351, R352; 20: R404). -/

namespace Sys2Proof.Machine

def State.queue (s : State) (q : Nat) : HostQ := Tbl.get s.queues q .empty
def State.updQueue (s : State) (q : Nat) (f : HostQ → HostQ) : State := { s with queues := Tbl.put s.queues q (f (s.queue q)) }

/-- The fields of a request entry (17: R349). -/
structure Req where
  opc : Nat
  flags : Nat
  ptag : Nat
  pkg : Nat
  tag : Word
  addr : Word
  haddr : Word
  len : Nat
  arg0 : Word
  arg1 : Word
  last : Nat
  deriving DecidableEq, Repr

def reqOf (b : List Byte) : Req :=
  let d (o : Nat) : Word := BitVec.ofNat 64 (leAt b o 8)
  { opc := leAt b 0 2, flags := leAt b 2 2, ptag := leAt b 4 2, pkg := leAt b 6 2, tag := d 8, addr := d 0x10, haddr := d 0x18,
    len := leAt b 0x20 8, arg0 := d 0x28, arg1 := d 0x30, last := leAt b 0x38 8 }

/-- Every reserved field is zero. -/
def Req.clean (r : Req) : Bool := r.flags < 2 && r.ptag < 4096 && r.pkg < 1024 && r.last == 0

/-- The oldest request of a queue that has not completed. -/
def State.reqAt (s : State) (q : Nat) : Option Req :=
  let x := s.queue q
  if x.opened && x.head != x.tail then some (reqOf (s.rdBytes (hostKey (x.req.toNat + 64 * x.head)) 64)) else none

/-- A completion entry (17: R351). -/
def compBytes (tag : Word) (status : Nat) (result now : Word) : List Byte :=
  bytesLE tag.toNat 8 ++ bytesLE status 2 ++ bytesLE 0 6 ++ bytesLE result.toNat 8 ++ bytesLE now.toNat 8

/-- The request at the head of a queue completes: its entry, when one is due, and the head index past it. -/
def State.complete (s : State) (q : Nat) (r : Req) (status : Nat) (result : Word) : State :=
  let x := s.queue q
  let s := if status != 0 || r.flags.testBit 0 then
      (s.wrBytes (hostKey (x.comp.toNat + 32 * x.compAt)) (compBytes r.tag status result s.cycle)).updQueue q
        (fun x => { x with compAt := (x.compAt + 1) % max 1 x.count })
    else s
  s.updQueue q (fun x => { x with head := (x.head + 1) % max 1 x.count })

/-- A service core that starts Casquin. -/
def coreStart (n : Nat) : Strand :=
  { Strand.empty with scstate := 1, core := { StrandCore.empty with a := Seq.empty.enter (Config.casquinEntry n) } }

/-- The queue that a core serves next: round-robin, in ascending number after the one served last, and none while a request that it has
taken is relayed and not answered (17: R352), or register writes of the core have yet to take effect, its last request's among them
(17: R348, R354). -/
def State.nextQueue (s : State) (core : Nat) : Option Nat :=
  let c := s.coreRegs core
  if c.relayed.isSome || !c.regq.isEmpty then none
  else ((List.range 64).map (fun i => (c.turn + 1 + i) % 64)).find? (fun k => (s.queue k).opened && (s.queue k).core == core && (s.reqAt k).isSome)

/-- The request that a core has relayed completes. -/
def State.endRelayed (s : State) (n status : Nat) (result : Word) : State :=
  match (s.coreRegs n).relayed with
  | none => s
  | some (q, _) =>
    let s := s.updCoreRegs n (fun c => { c with relayed := none })
    match s.reqAt q with
    | none => s
    | some r => s.complete q r status result

/-- The queue of a request whose register writes have yet to take effect. -/
def RegW.finishing (w : RegW) : Option Nat :=
  match w with
  | .finish q _ => some q
  | _ => none
def Core.finishing (c : Core) : Option Nat := c.regq.findSome? RegW.finishing

/-- A request of a queue completes with FAULT. -/
def State.faultReq (s : State) (q : Nat) : State := (s.reqAt q).elim s (fun r => s.complete q r 3 (BitVec.allOnes 64))

/-- Casquin restarts a service core (20: R404). The one request that the core had taken completes with FAULT: one that is relayed, one whose
writes have yet to take effect, or else, as a free bit says, the next in turn. -/
def State.restartCore (s : State) (n : Nat) : State :=
  let s := s.setStrand (4096 + n) (coreStart n)
  if (s.coreRegs n).relayed.isSome then s.endRelayed n 3 (BitVec.allOnes 64)
  else if let some q := (s.coreRegs n).finishing then
    (s.faultReq q).updCoreRegs n (fun c => { c with regq := c.regq.filter (fun w => w.finishing.isNone) })
  else match s.nextQueue n with
    | none => s
    | some q => if s.freeBit 1 then (s.faultReq q).updCoreRegs n (fun c => { c with turn := q }) else s

end Sys2Proof.Machine
end

