-- ==== Sys2Proof/Machine/Contain.lean ====
section
/-! DEFINITION. Contain.lean: what a damaged entry ends: rollback, the ending of pitches and of tasks of pitch 0, poison, corrected errors
(20: R401-R407, R412, R418; 02: R59). -/

namespace Sys2Proof.Machine

/-! ## Rollback (20: R412) -/

/-- The last complete wave of a region that can roll back to it: every strand of it stands in a slot, past that wave, and its spans from
there on are rollback-capable. -/
def State.rollbackWave (s : State) (sid : Nat) : Option (BitVec 32) :=
  let r := s.region sid
  match (s.strand sid).snaps.getLast? with
  | none => none
  | some z =>
    let ok := s.rollbackRegion sid && r.length == (s.regionIds sid).length && r.all (fun x =>
      let t := s.strand x
      t.buffer && (t.scstate == 1 || t.scstate == 2) && pastWave t.core.spanno z.wave && t.snaps.any (fun y => y.wave == z.wave) &&
        t.spanBad.all (fun b => !pastWave b z.wave))
    if ok then some z.wave else none

/-- The instruction that waited issues again; what it had already done it keeps. -/
def Seq.reissue (q : Seq) : Seq := { q with wait := q.wait.map (fun w => .saved (BitVec.ofNat 64 (waitWord (some w)))), woken := true }

/-- Steps 1 and 2: held stores of the spans from `w` on are discarded, and loads not yet performed, undo granules are applied, newest first. -/
def State.undoSpans (s : State) (sid : Nat) (w : BitVec 32) : State :=
  let t := s.strand sid
  let s := (t.undo.filter (fun u => pastWave u.1 w)).foldl (fun s u => s.wrBytes (u.2.1 * 128) u.2.2) s
  s.updStrand sid (fun t => { t with
    pend := t.pend.filter (fun p => !(p.held && pastWave p.span w)), loads := [], undo := t.undo.filter (fun u => !pastWave u.1 w) })

/-- Step 3: the channel ends of the strand are emptied. -/
def State.emptyEnds (s : State) (sid : Nat) : State :=
  ((s.strand sid).core.ends 1 ++ s.recvEnds sid).foldl (fun s i =>
    s.updChan (s.endOf sid i).chan (fun c => { c with tokens := [], due := [], took := c.put })) s

/-- Step 3: the outside tokens that the strand took after `w` stand at its receive ends again. -/
def State.putBack (s : State) (sid : Nat) (w : BitVec 32) : State :=
  let l := (s.strand sid).outside.filter (fun o => pastWave o.1 w)
  let s := l.foldl (fun s o => s.updChan (s.endOf sid o.2.1).chan (fun c => { c with tokens := o.2.2 :: c.tokens })) s
  s.updStrand sid (fun t => { t with outside := t.outside.filter (fun o => !pastWave o.1 w) })

/-- Copy slots keep only the copies that still run. -/
def State.liveSlots (s : State) (c : StrandCore) : StrandCore :=
  { c with cps := c.cps.map (fun x => { x with copy := x.copy.filter (fun k => (Tbl.find s.copies k).isSome) }) }

/-- Steps 4 and 5: the snapshot of `w` is restored and the strand resumes. -/
def State.restoreSnap (s : State) (sid : Nat) (w : BitVec 32) : State :=
  match (s.strand sid).snaps.find? (fun z => z.wave == w) with
  | none => s
  | some z =>
    let x := s.strand sid
    let s := s.updTile (sidTile sid) (fun t => { t.dropChains sid with
      sums := t.sums.filter (fun o => o.sid != sid) ++ z.sums,
      full := z.full.foldl (fun l g => insertNat g l) (t.full.filter (fun g => !(x.base / 128 ≤ g && g < (x.base + x.size) / 128))) })
    let mine := (s.mx (sidTile sid)).owner == some sid
    let s := match z.mx with
      | some m => s.updMx (sidTile sid) (fun _ => m)
      | none => if mine then s.releaseMx sid else s
    let c := s.liveSlots z.core
    let c : StrandCore := { c with a := c.a.reissue, e := c.e.reissue, w := c.w.map (fun x => { x with offer := none }) }
    s.updStrand sid (fun t => { t with
      core := c, scstate := 1, park := .none, pendCause := 0, pendArg := 0, pendWho := 0,
      snaps := t.snaps.filter (fun y => y.wave == w || !pastWave y.wave w) })

/-- A region rolls back. -/
def State.rollback (s : State) (sid : Nat) (w : BitVec 32) (c : Cause) : State :=
  let r := s.region sid
  let s := r.foldl (fun s x => s.undoSpans x w) s
  let s := r.foldl State.emptyEnds s
  let s := r.foldl (fun s x => s.putBack x w) s
  let s := r.foldl (fun s x => s.restoreSnap x w) s
  s.evLogOf sid 0x0A (w.setWidth 64) (c.setWidth 64)

/-! ## Wire phases (20: R406) -/

/-- Arrivals that have not been released are withdrawn. -/
def State.withdrawAll (s : State) (f : Arrival → Bool) : State :=
  { s with arrivals := s.arrivals.map (fun (a : Arrival) => if !a.done && f a then { a with withdrawn := true } else a) }

/-- A row wire's phase closes; on a mesh the columns close with it where nobody is left. -/
def State.closeRowWire (s : State) (k : Nat) : State :=
  let w := s.row k
  let s := s.withdrawAll (fun a => a.bkind == w.kind && !a.withdrawn &&
    (if w.kind == 2 then a.die == k / 16 && tileY (sidTile a.sid) == k % 16 else a.wire == k))
  let s := s.updRow k (fun w => { w with arrived := [], toCol := [], held := [], opened := false })
  if w.kind == 2 then (List.range 16).foldl (fun s x => s.closeCol (k / 16 * 16 + x)) s else s

def State.closeColWire (s : State) (k : Nat) : State :=
  let w := s.col k
  let s := s.withdrawAll (fun a => a.bkind == w.kind && !a.withdrawn && a.wire == k)
  let s := s.updCol k (fun w => { w with arrived := [], opened := false })
  (List.range 16).foldl (fun s y => s.updRow (k / 16 * 16 + y) (fun r => { r with held := r.held.erase (k % 16) }.closeIf)) s

def State.closeWires (s : State) (p : Nat) : State :=
  let rs := (s.rows.filter (fun x => x.2.opened && x.2.ptag.toNat == p)).map (·.1)
  let cs := (s.cols.filter (fun x => x.2.opened && x.2.ptag.toNat == p)).map (·.1)
  cs.foldl State.closeColWire (rs.foldl State.closeRowWire s)

/-! ## Ending a pitch (20: R406) -/

/-- What an ending comes from: the cause, and the entry's tile, set tag and physical address. -/
structure EndWhy where
  cause : Nat
  tile : Nat
  setTag : Nat
  addr : Nat
  deriving DecidableEq, Repr

/-- Contributions of a pitch's strands to collectives are withdrawn (20: R406, step 4): a chunk without its result loses every partial that
holds one, and what is on its way with it. The redo collects those of the others again. -/
def State.withdrawColls (s : State) (p : Nat) : State :=
  let gids := ((s.colls.filter (fun c => c.2.ptag.toNat == p && c.2.st == 0)).map (·.1 % 1024)).eraseDups
  let cut (k : Nat) (x : TChunk) : Bool := gids.contains (k / 16384) && (x.part 84 4).isNone
  let lost (x : TPkt) : Bool := x.phase ≤ 2 && (match Tbl.find s.chunks (chunkKey x.gid x.gen x.chunk) with
    | some c => cut (chunkKey x.gid x.gen x.chunk) c
    | none => false)
  { s with
    chunks := s.chunks.map (fun c => if cut c.1 c.2 then (c.1, { c.2 with parts := c.2.parts.filter (fun t => 2 < t.phase) }) else c),
    packets := s.packets.filter (fun x => !lost x.2) }

/-- Ingress streams of a pitch discard their later tokens; its headers are dropped (17: R356). -/
def State.discardStreams (s : State) (p : Nat) : State :=
  let cut (x : Ingress) : Ingress :=
    let l := x.streams.map (fun o => match o with
      | some (rk, ch) => if (s.recOf rk).ptag.toNat == p then none else some (rk, ch)
      | none => none)
    if bitsOf x.ctl 16 12 == p then
      { x with st := .idle, waiting := none,
               streams := l ++ (if x.st == .idle then [] else [none]) ++ (if x.waiting.isSome then [none] else []) }
    else { x with streams := l }
  { s with ingress := s.ingress.map (fun x => (x.1, cut x.2)) }

/-- Steps 1 to 6. Nothing happens to a pitch that is not ACTIVE. -/
def State.endPitch (s : State) (p : Nat) (w : EndWhy) : State :=
  if s.pstate p != 1 || p == 0 then s
  else
    let s := s.withdrawColls p
    let s := s.updPitch p (fun x => { x with pctl := setBits x.pctl 0 2 2 })
    let s := ((s.recs.filter (fun r => r.2.ptag.toNat == p && r.2.st != .free)).map (·.1)).foldl State.failRec s
    let s := ((s.strands.filter (fun x => x.1 < 4096 && x.2.ptag.toNat == p)).map (·.1)).foldl State.stopStrand s
    let s : State := { s with
      copies := s.copies.filter (fun c => c.2.ptag.toNat != p), posts := s.posts.filter (fun c => c.2.ptag.toNat != p),
      pitches := s.pitches.map (fun x => if bitsOf x.2.pctl 0 2 == 3 then (x.1, { x.2 with
        ssmem0 := (List.range 4).foldl (fun (v : Word) m => if x.2.member m == some p then setBits v m 1 0 else v) x.2.ssmem0,
        ssmem1 := (List.range 4).foldl (fun (v : Word) m => if x.2.member (m + 4) == some p then setBits v m 1 0 else v) x.2.ssmem1 }) else x) }
    let s := ((s.closeWires p).discardStreams p)
    s.coreEvent 0 0x13 p (bytesLE w.cause 1 ++ [0] ++ bytesLE w.tile 2 ++ bytesLE w.setTag 2 ++ [0, 0] ++ bytesLE w.addr 8)

/-- A live strand of a record. -/
def State.anySid (s : State) (rk : Nat) : Option Nat := ((s.strands.filter (fun p => p.1 < 4096 && p.2.rk == rk && p.2.live)).map (·.1)).head?

/-- A task of pitch 0 ends for a damaged entry (20: R405, way 4). The record names the strand concerned; where the entry held the state of
the task and of no one strand, the record names one of its strands (DESIGN CHOICE, log 31). -/
def State.endTask (s : State) (rk : Nat) (sid : Option Nat) (c : Cause) : State :=
  let r := s.recOf rk
  if r.st == .free || r.st == .failed || r.ptag != 0 then s
  else
    let s := match sid.or (s.anySid rk) with
      | some x => s.faultRecord ⟨x, false⟩ c 0 0 [0, 0, 0, 0] akTrap
      | none => s.postCore (recDie rk * 4) (faultBytes s.cycle r.ptag.toNat c 0 0xF000 0 [0, 0, 0, 0] 0 (s.trefOf rk) akTrap 0)
    (s.failRec rk).recEvent rk 2 0 0

/-- The owner of a damaged entry ends: a set's members, a pitch, or the named tasks of pitch 0, each with the strand concerned. -/
def State.endOwner (s : State) (tag : Nat) (w : EndWhy) (tasks : List (Nat × Option Nat)) : State :=
  if tag == 0 then tasks.foldl (fun s x => s.endTask x.1 x.2 (BitVec.ofNat 8 w.cause)) s
  else if s.pstate tag == 3 then (s.setMembers tag).foldl (fun s p => s.endPitch p { w with setTag := tag }) s
  else s.endPitch tag w

/-- An uncorrectable error in the state of a strand, or of a service core (20: R403-R405; 02: R59). -/
def State.strandError (s : State) (sid : Nat) (c : Cause) : State :=
  if 4096 ≤ sid then s.restartCore (sid - 4096)
  else match s.rollbackWave sid with
    | some w => s.rollback sid w c
    | none =>
      let t := s.strand sid
      s.endOwner t.ptag.toNat ⟨c.toNat, tileField sid, 0, 0⟩ [(t.rk, some sid)]

/-! ## UNCORRECTABLE_ERROR (20: R403-R405) -/

/-- The tags a counting barrier is assigned to. -/
def State.cbarTags (s : State) (k : Nat) : List Nat :=
  (s.pitches.filter (fun x => (x.2.pcbar.getD (k / 64) 0).getLsbD (k % 64))).map (·.1)

/-- The record of a strand in a slot, or of one that is away, by the name of `awayId`. -/
def State.rkOf (s : State) (sid : Nat) : Nat := if sid < 4096 then (s.strand sid).rk else (sid - awayKey) / 2 ^ 31

def State.arrivalRk (s : State) (a : Arrival) : Nat := s.rkOf a.sid

/-- The record that a tref names: this module's, and still of that instance. -/
def State.trefTask (s : State) (t : Word) : List (Nat × Option Nat) :=
  let r := s.recOf (trefKey t)
  if trefPkg t == s.pkg.toNat && r.st != .free && r.inst.toNat == trefInst t then [(trefKey t, none)] else []

/-- The tasks whose arrivals a counting barrier counts. -/
def State.barTasks (s : State) (k : Nat) : List (Nat × Option Nat) :=
  (s.arrivals.filter (fun a => a.bkind == 3 && a.die * 64 + a.bnum == k && !a.done)).map (fun a => (s.arrivalRk a, if a.sid < 4096 then some a.sid else none))

/-- The tasks whose access, decrement or contribution a message carries; a seal is of an instance. -/
def State.msgTasks (s : State) (m : OutMsg) : List (Nat × Option Nat) :=
  let a := m.data.headD 0
  if m.kind == 4 then if m.data.getD 2 0 == 0 then s.trefTask a else []
  else if m.kind == 7 then (s.sidsIn a.toNat).map (fun sid => (s.rkOf sid, if sid < 4096 then some sid else none))
  else if m.kind < 3 then
    (s.podOut.filter (fun p => !p.2.dead && p.2.port.isNone && p.2.pkg.toNat == m.pkg && p.2.addr == a && p.2.kind.toNat == m.kind)).map
      (fun p => (p.2.rk, none))
  else []

def execUncorrectableError (t : ErrTarget) (s : State) : Out :=
  let why (tile addr : Nat) : EndWhy := ⟨0x41, tile, 0, addr⟩
  match t with
  | .srbEntry tile line => .next (s.dropSrbLine tile line)
  | .translation die page => .next { s with tlb := s.tlb.filter (fun e => !(e.die == die && e.page == page)) }
  | .cleanLine _ => .next s
  | .dirtyLine line =>
    let s : State := { s with poison := insertNat line s.poison }
    match Tbl.find s.lineKey line with
    | some k => .next (s.endOwner k.toNat (why (homeTile (line * 128)) (line * 128)) [])
    | none => .next s
  | .record rk => .next (s.endOwner (s.recOf rk).ptag.toNat (why 0xFFFF 0) [(rk, none)])
  | .instEntry k =>
    match Tbl.find s.insts k with
    | some e => .next (s.endOwner e.ptag.toNat (why 0xFFFF 0) (e.recs.map (·, none)))
    | none => .next s
  | .message m =>
    match s.msgs[m]? with
    | some x => .next ((s.dropMsg m).endOwner x.ptag.toNat (why 0xFFFF 0) (if x.isSeal then [] else s.trefTask x.tref))
    | none => .next s
  | .tableEntry => .next s
  | .partialSum gid c => .next (if s.trussRoot gid then s.chunkRedo gid c else s)
  | .countingBarrier k => .next ((s.cbarTags k).foldl (fun s g => s.endOwner g (why 0xFFFF 0) (s.barTasks k)) s)
  | .strandState sid residue =>
    .next (if (s.strand sid).live then s.strandError sid (if residue then cResidue else cUncorrectable) else s)
  | .spanBuffer sid =>
    let x := s.strand sid
    .next (if x.live then s.endOwner x.ptag.toNat (why (tileField sid) 0) [(x.rk, some sid)] else s)
  | .wirePhase k col =>
    let w := if col then s.col k else s.row k
    .next (if w.opened then s.endOwner w.ptag.toNat (why 0xFFFF 0) (w.arrived.map (fun a => ((s.strand a.2).rk, some a.2))) else s)
  | .replayRecv _ _ => .next s
  | .replaySend k n b =>
    match (s.link k).unacked.find? (fun f => f.seqNo == n && f.back == b) with
    | some f => .next (s.endOwner f.msg.ptag.toNat (why 0xFFFF 0) (s.msgTasks f.msg))
    | none => .next s
  | .post id =>
    match Tbl.find s.posts id with
    | some x => .next (s.endOwner x.ptag.toNat (why 0xFFFF 0) (s.trefTask x.tref))
    | none => .next s
  | .cqEntry k i =>
    match (s.cq k)[i]? with
    | some e => .next (s.endOwner (k % 4096) (why 0xFFFF 0) (s.trefTask e.1))
    | none => .next s
  | .dispatcher die =>
    .next (s.updDisp die (fun d => { d with deficit := d.deficit.map (fun p => (p.1, (s.free p.1).toInt)) }))
  | .coreState n => .next (s.restartCore n)

/-! ## CORRECTED_ERROR (20: R418) -/

/-- `CORRECTED_ERROR`: counted; above `CETH` within 2^30 cycles the tile is closed and its strands are saved. -/
def execCorrectedError (tile : Nat) (s : State) : Out :=
  let now := s.cycle
  let s := s.updTile tile (fun t => { t with
    cecnt := ctrAdd t.cecnt 1, ceWin := now :: t.ceWin.filter (fun c => now.toNat < c.toNat + 2 ^ 30) })
  let x := s.tile tile
  if x.ceWin.length ≤ s.cesTh.toNat || x.going || !x.insvc then .next s
  else
    let s := s.updTile tile (fun t => { t with rmode := 2, going := true })
    let s := (List.range 4).foldl (fun s i =>
      let sid := i * 1024 + tile
      if (s.strand sid).live && (s.recOf (s.strand sid).rk).save == 0 then s.requestSave sid (some (quadCore tile)) else s) s
    .next (s.withdrawTile tile)

end Sys2Proof.Machine
end

