-- ==== Sys2Proof/Machine/Control.lean ====
section
/-! DEFINITION. Control.lean: control transfers, branch-outcome queues, scheduling, waits on CYCLE and traps at issue
(09: R207-R213). -/

namespace Sys2Proof.Machine

/-- A result that is checked under 02: R59: a residue mismatch in a source takes RESIDUE, the destination unwritten. -/
def State.checked (s : State) (srcs : List (BitVec 5)) (d : BitVec 5) (v : Word) : Out :=
  if srcs.all s.seq.resOk then s.ret d v else .next (s.strandError s.sid cResidue)

/-! ## Meanings -/

def execNop (s : State) : Out := done s
def execBr (imm : BitVec 27) (s : State) : Out := s.transfer true (s.seq.rel imm)
def execBrReg (a : BitVec 5) (s : State) : Out := s.transfer true (s.g a)
def execBrz (a : BitVec 5) (imm : BitVec 27) (s : State) : Out := s.transfer (s.g a == 0) (s.seq.rel imm)
def execBrnz (a : BitVec 5) (imm : BitVec 27) (s : State) : Out := s.transfer (s.g a != 0) (s.seq.rel imm)
def execBrbq (imm : BitVec 27) (s : State) : Out := s.popBq (fun b s => s.transfer b (s.seq.rel imm))
def execBrbqZ (imm : BitVec 27) (s : State) : Out := s.popBq (fun b s => s.transfer (!b) (s.seq.rel imm))
def execCall (d : BitVec 5) (imm : BitVec 27) (s : State) : Out :=
  done ((s.gPut d s.seq.next).setPending (s.seq.rel imm))
def execCallReg (d a : BitVec 5) (s : State) : Out := done ((s.gPut d s.seq.next).setPending (s.g a))
def execRet (n : BitVec 5) (s : State) : Out := s.transfer true (s.g n)

/-- `LOOPB` (09: R207); its result is checked (09: R205). -/
def execLoopb (d : BitVec 5) (imm : BitVec 27) (s : State) : Out :=
  let v := s.g d - 1
  if s.seq.resOk d then (s.gPut d v).transfer (v != 0) (s.seq.rel imm) else .next (s.strandError s.sid cResidue)

def execPushbq (n : BitVec 5) (s : State) : Out := s.pushBq ((s.g n).getLsbD 0)
def execPushbqNz (n : BitVec 5) (s : State) : Out := s.pushBq (s.g n != 0)

/-- `YIELD` (09: R210): a scheduling point inside the block. -/
def execYield (s : State) : Out :=
  done (if isCore s.cur then s else s.updTile (sidTile s.sid) (fun t => if s.cur.e then { t with holdE := false } else { t with holdA := false }))

/-- Wait until CYCLE reaches `w` (09: R211); the wake cycle of a wait under way is the one it began with. -/
def State.sleepTo (s : State) (w : Word) : Out :=
  let w := match s.seq.wait with
    | some (.sleep x) => x
    | some (.saved x) => x
    | _ => w
  if w.toNat ≤ s.cycle.toNat then done s else .next (s.block (.sleep w))

def execSleepc (n : BitVec 5) (s : State) : Out := s.sleepTo (s.g n)
def execSleepcRel (n : BitVec 5) (s : State) : Out := s.sleepTo (s.cycle + s.g n)

def execTraps (n : BitVec 6) (s : State) : Out := .next (s.trapNext cSwTrap (n.setWidth 64))

/-- `BRK`; routed to the service core it parks the strand (09: R212, 17: R354 `PCTL`[11]). -/
def execBrk (n : BitVec 6) (s : State) : Out :=
  if !isCore s.cur && (s.pitch s.me.ptag.toNat).pctl.getLsbD 11 then
    let s := s.faultRecord s.cur cBreak 0 (n.setWidth 64) [0, 0, 0, 0] akTrap
    .next (s.adv.park s.sid .brk)
  else .next (s.trapNext cBreak (n.setWidth 64))

/-- `ILL`: the argument is the address of its line plus its head index (09: R212). -/
def execIll (_n : BitVec 6) (s : State) : Out :=
  let arg := match s.seq.block[s.seq.idx]? with
    | some i => i.line + BitVec.ofNat 64 i.head
    | none => s.seq.pc
  .next (s.trap 0x02 arg)

end Sys2Proof.Machine
end

