-- ==== Sys2Proof/Machine/Scalar.lean ====
section
/-! DEFINITION. Scalar.lean: scalar integer and scalar float instructions (09: R214-R225). -/

namespace Sys2Proof.Machine

/-! ## Integer, register forms (09: R214-R216) -/

def execAdd (d a b : BitVec 5) (s : State) : Out := s.checked [a, b] d (s.g a + s.g b)
def execSub (d a b : BitVec 5) (s : State) : Out := s.checked [a, b] d (s.g a - s.g b)
def execMul (d a b : BitVec 5) (s : State) : Out := s.checked [a, b] d (s.g a * s.g b)
def execMulh (d a b : BitVec 5) (s : State) : Out :=
  s.checked [a, b] d (BitVec.ofInt 64 ((s.g a).toInt * (s.g b).toInt / 2 ^ 64))
def execMulhn (d a b : BitVec 5) (s : State) : Out :=
  s.checked [a, b] d (BitVec.ofNat 64 ((s.g a).toNat * (s.g b).toNat / 2 ^ 64))
def execDiv (d a b : BitVec 5) (s : State) : Out := s.ret d (wrap64 (divQ 64 true (s.g a).toInt (s.g b).toInt))
def execDivn (d a b : BitVec 5) (s : State) : Out := s.ret d (wrap64 (divQ 64 false (s.g a).toNat (s.g b).toNat))
def execRem (d a b : BitVec 5) (s : State) : Out := s.ret d (wrap64 (divR true (s.g a).toInt (s.g b).toInt))
def execRemn (d a b : BitVec 5) (s : State) : Out := s.ret d (wrap64 (divR false (s.g a).toNat (s.g b).toNat))
def execAnd (d a b : BitVec 5) (s : State) : Out := s.ret d (s.g a &&& s.g b)
def execOr (d a b : BitVec 5) (s : State) : Out := s.ret d (s.g a ||| s.g b)
def execXor (d a b : BitVec 5) (s : State) : Out := s.ret d (s.g a ^^^ s.g b)
def execAndn (d a b : BitVec 5) (s : State) : Out := s.ret d (s.g a &&& ~~~(s.g b))
/-- A shift count is taken modulo 64 (04: R113). -/
def shiftCount (x : Word) : Nat := x.toNat % 64
def execShl (d a b : BitVec 5) (s : State) : Out := s.checked [a, b] d (s.g a <<< shiftCount (s.g b))
def execShr (d a b : BitVec 5) (s : State) : Out := s.checked [a, b] d (s.g a >>> shiftCount (s.g b))
def execSar (d a b : BitVec 5) (s : State) : Out := s.checked [a, b] d ((s.g a).sshiftRight (shiftCount (s.g b)))
def execRor (d a b : BitVec 5) (s : State) : Out := s.checked [a, b] d ((s.g a).rotateRight (shiftCount (s.g b)))
def execMin (d a b : BitVec 5) (s : State) : Out := s.ret d (if (s.g b).slt (s.g a) then s.g b else s.g a)
def execMax (d a b : BitVec 5) (s : State) : Out := s.ret d (if (s.g a).slt (s.g b) then s.g b else s.g a)
def execMinn (d a b : BitVec 5) (s : State) : Out := s.ret d (if (s.g b).ult (s.g a) then s.g b else s.g a)
def execMaxn (d a b : BitVec 5) (s : State) : Out := s.ret d (if (s.g a).ult (s.g b) then s.g b else s.g a)
def execCmp (d : BitVec 5) (cc : BitVec 6) (a b : BitVec 5) (s : State) : Out :=
  s.ret d (bit01 (intCond cc.toNat 64 (s.g a).toNat (s.g b).toNat))
def execSel (d a b c : BitVec 5) (s : State) : Out := s.ret d (if s.g c != 0 then s.g a else s.g b)
def execClz (d a : BitVec 5) (s : State) : Out := s.ret d (BitVec.ofNat 64 (leadingZeros (s.g a).toNat 64))
def execPopc (d a : BitVec 5) (s : State) : Out := s.ret d (BitVec.ofNat 64 (popCount (s.g a).toNat 64))
/-- `EXTS` with n = field + 1 (09: R216). -/
def execExts (d a : BitVec 5) (n : BitVec 6) (s : State) : Out := s.ret d (wrap64 (sxt (s.g a).toNat (n.toNat + 1)))
def execMov (d a : BitVec 5) (s : State) : Out := s.checked [a] d (s.g a)

def execAddsat (d a b : BitVec 5) (s : State) : Out :=
  s.checked [a, b] d (BitVec.ofInt 64 (clampInt (-(2 ^ 63)) (2 ^ 63 - 1) ((s.g a).toInt + (s.g b).toInt)))
def execAddsatN (d a b : BitVec 5) (s : State) : Out :=
  s.checked [a, b] d (BitVec.ofNat 64 (min ((s.g a).toNat + (s.g b).toNat) (2 ^ 64 - 1)))
def execMadd (d a b c : BitVec 5) (s : State) : Out := s.checked [a, b, c] d (s.g a * s.g b + s.g c)

/-! ## Integer, immediate forms (09: R217-R220) -/

def execAddi (d a : BitVec 5) (i : BitVec 27) (s : State) : Out := s.checked [a] d (s.g a + imm i)
def execAndi (d a : BitVec 5) (i : BitVec 27) (s : State) : Out := s.ret d (s.g a &&& imm i)
def execOri (d a : BitVec 5) (i : BitVec 27) (s : State) : Out := s.ret d (s.g a ||| imm i)
def execXori (d a : BitVec 5) (i : BitVec 27) (s : State) : Out := s.ret d (s.g a ^^^ imm i)
def execShli (d a : BitVec 5) (n : BitVec 6) (s : State) : Out := s.checked [a] d (s.g a <<< n.toNat)
def execShri (d a : BitVec 5) (n : BitVec 6) (s : State) : Out := s.checked [a] d (s.g a >>> n.toNat)
def execSari (d a : BitVec 5) (n : BitVec 6) (s : State) : Out := s.checked [a] d ((s.g a).sshiftRight n.toNat)
def execCmpi (d : BitVec 5) (cc : BitVec 4) (a : BitVec 5) (i : BitVec 23) (s : State) : Out :=
  s.ret d (bit01 (intCond cc.toNat 64 (s.g a).toNat (imm i).toNat))
def execBext (d a : BitVec 5) (lo : BitVec 6) (len : BitVec 7) (s : State) : Out :=
  s.ret d (BitVec.ofNat 64 (bitsOf (s.g a) lo.toNat len.toNat))
def execBextS (d a : BitVec 5) (lo : BitVec 6) (len : BitVec 7) (s : State) : Out :=
  s.ret d (wrap64 (sxt (bitsOf (s.g a) lo.toNat len.toNat) len.toNat))
def execBins (d a : BitVec 5) (lo : BitVec 6) (len : BitVec 7) (s : State) : Out :=
  s.ret d (setBits (s.g d) lo.toNat len.toNat (bitsOf (s.g a) 0 len.toNat))
def execLi (d : BitVec 5) (i : BitVec 27) (s : State) : Out := s.checked [] d (imm i)
def execLil (d : BitVec 5) (i : BitVec 64) (s : State) : Out := s.checked [] d i
def execLea (d a : BitVec 5) (i : BitVec 27) (s : State) : Out := s.checked [a] d (s.ea a i)
def execLeaLabel (d : BitVec 5) (i : BitVec 27) (s : State) : Out := s.checked [] d (s.seq.rel i)

/-! ## Scalar float (09: R221-R225) -/

/-- An f32 operand: bits [31:0] of the register. -/
def State.f (s : State) (r : BitVec 5) : Nat := bitsOf (s.g r) 0 32
/-- An f32 result: zero above bit 31. -/
def State.retF (s : State) (d : BitVec 5) (x : Nat) : Out := s.ret d (BitVec.ofNat 64 (x % 2 ^ 32))

def execFadd (d a b : BitVec 5) (s : State) : Out := s.retF d (fmtF32.add (s.f a) (s.f b))
def execFsub (d a b : BitVec 5) (s : State) : Out := s.retF d (fmtF32.sub (s.f a) (s.f b))
def execFmul (d a b : BitVec 5) (s : State) : Out := s.retF d (fmtF32.mul (s.f a) (s.f b))
def execFfma (d a b c : BitVec 5) (s : State) : Out := s.retF d (fmtF32.fma false (s.f a) (s.f b) (s.f c))
def execFdiv (d a b : BitVec 5) (s : State) : Out := s.retF d (fmtF32.div (s.f a) (s.f b))
def execFsqrt (d a : BitVec 5) (s : State) : Out := s.retF d (fmtF32.sqrt (s.f a))
def execFmin (d a b : BitVec 5) (s : State) : Out := s.retF d (fmtF32.min (s.f a) (s.f b))
def execFmax (d a b : BitVec 5) (s : State) : Out := s.retF d (fmtF32.max (s.f a) (s.f b))
def execFcmp (d : BitVec 5) (cc : BitVec 6) (a b : BitVec 5) (s : State) : Out :=
  s.ret d (bit01 (floatCond fmtF32 cc.toNat (s.f a) (s.f b)))

/-- Source bits that `FCVT` reads (09: R223). -/
def fcvtSrc (t : Nat) (x : Word) : Nat := if t == 8 then bitsOf x 0 6 else bitsOf x 0 (tyWidth t)
/-- What `FCVT` writes: i32 sign-extended, everything else with zeros above (09: R223). -/
def fcvtDst (t x : Nat) : Word := if t == 4 then BitVec.ofInt 64 (sxt x 32) else BitVec.ofNat 64 x

def execFcvt (d a src : BitVec 5) (dst : BitVec 4) (mode : BitVec 2) (s : State) : Out :=
  s.ret d (fcvtDst dst.toNat (convert src.toNat dst.toNat mode.toNat (fcvtSrc src.toNat (s.g a))))
def execFclass (d a : BitVec 5) (s : State) : Out := s.ret d (BitVec.ofNat 64 (2 ^ fclassBit (s.f a)))
def execFsgn (d : BitVec 5) (op : BitVec 6) (a b : BitVec 5) (s : State) : Out :=
  let sa := fmtF32.sign (s.f a)
  let sb := fmtF32.sign (s.f b)
  let n := match op.toNat with
    | 0 => sb
    | 1 => !sb
    | _ => sa != sb
  s.retF d (fmtF32.mag (s.f a) + if n then 2 ^ 31 else 0)

end Sys2Proof.Machine
end

