-- ==== Sys2Proof/Machine/Sha.lean ====
section
/-! DEFINITION. Sha.lean: SHA-512, which 17: R364 and R371 name and the spec does not define (PRESUMED: FIPS 180-4, log 6). -/

namespace Sys2Proof.Machine

/-- The largest `r` below `2^n` above `r0` in steps of powers of two with `r^e ≤ v`. -/
def rootFrom (e v : Nat) (r : Nat) : Nat → Nat
  | 0 => r
  | n + 1 => rootFrom e v (if (r + 2 ^ n) ^ e ≤ v then r + 2 ^ n else r) n

/-- The first 64 bits of the fraction of the `e`-th root of `p`. -/
def rootFrac (e p : Nat) : Word := BitVec.ofNat 64 (rootFrom e (p * 2 ^ (64 * e)) 0 72)

def primesBelow (n : Nat) : List Nat := (List.range n).filter (fun p => 2 ≤ p && (List.range 21).all (fun d => d < 2 || p == d || p % d != 0))

/-- The round constants: cube roots of the first 80 primes; and the first hash value: square roots of the first eight. -/
def shaK : List Word := (primesBelow 410).map (rootFrac 3)
def shaInit : List Word := ((primesBelow 410).take 8).map (rootFrac 2)

def shaRotr (x : Word) (n : Nat) : Word := x.rotateRight n

/-- The message schedule, newest word first. -/
def shaSchedule (w : List Word) : Nat → List Word
  | 0 => w
  | n + 1 =>
    let at_ (i : Nat) : Word := w.getD (i - 1) 0
    let s0 := shaRotr (at_ 15) 1 ^^^ shaRotr (at_ 15) 8 ^^^ at_ 15 >>> 7
    let s1 := shaRotr (at_ 2) 19 ^^^ shaRotr (at_ 2) 61 ^^^ at_ 2 >>> 6
    shaSchedule ((s1 + at_ 7 + s0 + at_ 16) :: w) n

/-- One round on the eight working words. -/
def shaRound (h : List Word) (kw : Word × Word) : List Word :=
  match h with
  | [a, b, c, d, e, f, g, h] =>
    let s1 := shaRotr e 14 ^^^ shaRotr e 18 ^^^ shaRotr e 41
    let t1 := h + s1 + ((e &&& f) ^^^ (~~~e &&& g)) + kw.1 + kw.2
    let s0 := shaRotr a 28 ^^^ shaRotr a 34 ^^^ shaRotr a 39
    let t2 := s0 + ((a &&& b) ^^^ (a &&& c) ^^^ (b &&& c))
    [t1 + t2, a, b, c, d + t1, e, f, g]
  | l => l

def bigEndian (b : List Byte) : Nat := natOfBytes b.reverse

/-- One block of 128 bytes. -/
def shaBlock (h : List Word) (b : List Byte) : List Word :=
  let w := (List.range 16).map (fun i => BitVec.ofNat 64 (bigEndian ((b.drop (8 * i)).take 8)))
  List.zipWith (· + ·) h ((List.zip shaK (shaSchedule w.reverse 64).reverse).foldl shaRound h)

def shaPad (b : List Byte) : List Byte :=
  b ++ [0x80] ++ List.replicate ((239 - b.length % 128) % 128) 0 ++ (bytesLE (8 * b.length) 16).reverse

def shaBlocks (h : List Word) (b : List Byte) : Nat → List Word
  | 0 => h
  | n + 1 => shaBlocks (shaBlock h (b.take 128)) (b.drop 128) n

/-- SHA-512 of a message of bytes, as the number whose little-endian bytes are the digest's. -/
def sha512 (b : List Byte) : BitVec 512 :=
  let m := shaPad b
  BitVec.ofNat 512 (natOfBytes ((shaBlocks shaInit m (m.length / 128)).flatMap (fun w => (bytesLE w.toNat 8).reverse)))

end Sys2Proof.Machine
end

