-- ==== Sys2Proof/Machine/Debug.lean ====
section
/-! DEFINITION. Debug.lean: the stall walker, stops, resumes, single step and debug reads (20: R420-R425). -/

namespace Sys2Proof.Machine

/-! ## The stall walker (20: R420) -/

/-- A granule range has a copy in flight to a granule of it that is not full. -/
def State.copyComing (s : State) (tile lo n : Nat) : Bool :=
  let gs := ((List.range n).map (fun i => lo + i)).filter (fun g => !(s.tile tile).full.contains g)
  s.copies.any (fun c => c.2.rows.any (fun r => !r.done && r.dst.any (fun p => match p.grans with
    | some (t, l) => t == tile && l.any gs.contains
    | none => false)))

/-- The other end's strand. -/
def State.peerSid (s : State) (sid c : Nat) : Option Agent :=
  let e := s.endOf sid c
  ((if e.dir == 1 then (s.chan e.chan).rSid else (s.chan e.chan).sSid)).map (fun x => ⟨x, true⟩)

/-- Reason, number and next element of an element's wait. Waits that the table does not name lead outside the graph. -/
def State.stallAt (s : State) (a : Agent) : Nat × Nat × Option Agent :=
  let t := s.strand a.sid
  let q := t.core.seq a.e
  let tile := sidTile a.sid
  let atEnd (c : Nat) : Nat × Nat × Option Agent := (if (s.endOf a.sid c).dir == 1 then 1 else 2, c, s.peerSid a.sid c)
  let other : Agent := ⟨a.sid, !a.e⟩
  if 2 ≤ t.scstate.toNat then (8, 0, none)
  else match q.wait with
    | none => (0, 0, none)
    | some (.chan c _ _ _) => atEnd c
    | some (.wave _ _) => match s.waveBlock a.sid with
      | i :: _ => atEnd i
      | [] => (0, 0, none)
    | some (.waveOut _ _) => match s.dueEnds a.sid with
      | i :: _ => atEnd i
      | [] => (0, 0, none)
    | some (.queueFull n) => (3, n, some other)
    | some (.queueEmpty n) => (3, n, some other)
    | some .bqFull => (3, 0, some other)
    | some .bqEmpty => (3, 0, some other)
    | some (.stream _ qd qa _) =>
      if (t.core.queue qa).isEmpty then (3, qa.toNat, some other)
      else if 8 ≤ (t.core.queue qd).length then (3, qd.toNat, some other)
      else (0, 0, none)
    | some .claim => (4, 0, (s.mx tile).owner.map (fun x => ⟨x, true⟩))
    | some (.chain c) => (4, c, ((s.tile tile).chainOwner.getD c none).map (fun x => ⟨x, true⟩))
    | some (.fullBits lo n) => (if s.copyComing tile lo n then 5 else 6, 0, none)
    | some (.sem h) => (7, h, none)
    | _ => (7, 0, none)

/-- A hop of the report. -/
def State.hop (s : State) (a : Agent) (reason num : Nat) : List Byte :=
  let q := (s.strand a.sid).core.seq a.e
  let n := if q.wait.isSome then min (2 ^ 32 - 1) (s.cycle - q.waitAt).toNat else 0
  bytesLE (a.sid % 4096 + b01 a.e * 4096 + reason * 2 ^ 16 + num % 256 * 2 ^ 24 + n * 2 ^ 32) 8

/-- The hops from an element on, and the terminal reason; at most 31. -/
def State.stallWalk (s : State) (a : Agent) (seen : List Agent) : Nat → List (List Byte) × Nat
  | 0 => ([], 0)
  | fuel + 1 =>
    if seen.contains a then ([s.hop a 9 0], 9)
    else
      let (r, n, next) := s.stallAt a
      match next with
      | none => ([s.hop a r n], r)
      | some b =>
        let (l, t) := s.stallWalk b (a :: seen) fuel
        (s.hop a r n :: l, t)

/-- `SWSTART`: the walk from an element; its report at `SWBUF`, and event `STALL_DONE`; none while that event of an
earlier one is held (17: R355). -/
def State.stallStart (s : State) (core : Nat) (v : Word) : State :=
  if s.cores.any (fun c => c.2.held.any (fun e => leAt e 0 2 == 0x14)) then s
  else
  let (l, t) := s.stallWalk ⟨bitsOf v 0 12, v.getLsbD 12⟩ [] 31
  (s.wrBytes s.swbuf.toNat (padTo 256 (bytesLE (l.length + 256 * t) 8 ++ l.flatMap id))).coreEvent core 0x14 0 []
def execSwstart (core : Nat) (v : Word) (s : State) : Out := .next (s.stallStart core v)

/-! ## Stops and resumes (20: R421, R422) -/

/-- The strands in slots of the stream region of the task under debug. -/
def State.dbgRegion (s : State) : List Nat :=
  let rk := trefKey s.dbgTref
  let r := s.recOf rk
  if s.dbgTref.toNat / 32 != (s.trefOf rk).toNat / 32 then []
  else (s.regionFrom 65536 (r.invs.flatMap (fun p => (List.range r.tilesN).map (fun c => (rk, p.1, c)))) []).filterMap s.slotOf

/-- `STOP`: every source strand of the region is to emit a wave with a stop flag. -/
def State.dbgStop (s : State) : State :=
  s.dbgRegion.foldl (fun s sid =>
    if (s.recvEnds sid).isEmpty then s.updStrand sid (fun t => { t with stopFlag := true }) else s) s
def execStop (_core : Nat) (s : State) : Out := .next s.dbgStop

/-- A stop or a breakpoint parked the strand, or a breakpoint stopped one of its walkers. -/
def Strand.stopped (t : Strand) : Bool := (t.scstate == 2 && t.park == .debug) || ((t.scstate == 1 || t.scstate == 2) && t.core.w.toList.any (·.brk))

/-- `RESUME`: every strand that a stop or a breakpoint of the task stopped. -/
def State.dbgResume (s : State) : State :=
  s.dbgRegion.foldl (fun s sid => if (s.strand sid).stopped then s.scResume sid else s) s
def execResume (_core : Nat) (s : State) : Out := .next s.dbgResume

/-! ## Single step (20: R424) -/

/-- A sequencer that a step runs issues again also where it had blocked. -/
def Seq.stepOn (q : Seq) (on : Bool) : Seq := if on then { q with woken := true } else q

/-- `SCSTEP`: the named sequencers of a strand parked for debugging run to the end of their block. -/
def execScstep (sid : Nat) (mask : BitVec 2) (s : State) : Out :=
  let t := s.strand sid
  let a := mask.getLsbD 0 && !t.core.a.exited
  let e := mask.getLsbD 1 && !t.core.e.exited
  if 4096 ≤ sid || t.scstate != 2 || !(t.stopped || t.park == .brk) || !(a || e) then .next s
  else .next (s.updStrand sid (fun t => { t with
    scstate := 1, stepA := a, stepE := e, core := { t.core with a := t.core.a.stepOn a, e := t.core.e.stepOn e } }))

/-- A sequencer's part of a step is over; with the last one the strand parks again. -/
def State.stepEnd (s : State) (a : Agent) : State :=
  let s := s.updStrand a.sid (fun t => if a.e then { t with stepE := false } else { t with stepA := false })
  let t := s.strand a.sid
  if t.stepA || t.stepE then s
  else (s.faultRecord a cStep 0 0 [0, 0, 0, 0] akTrap).park a.sid (if t.park == .none then .debug else t.park)

/-! ## Debug reads (20: R425) -/

/-- The status and the word of an item. -/
def State.dbgItem (s : State) (sid : Nat) (v : Word) : Nat × Word :=
  let t := s.strand sid
  let c := t.core
  let kind := bitsOf v 12 4
  let ix := bitsOf v 0 12
  let pair := bitsOf v 16 6
  let m := s.mx (sidTile sid)
  let mine := m.owner == some sid
  let bad : Nat × Word := (3, 0)
  if bitsOf v 22 40 != 0 || (kind != 3 && pair != 0) || 6 ≤ kind then bad
  else
    let ans : Nat × Word :=
      match kind with
      | 0 => if ix < 32 then (0, c.a.gGet (BitVec.ofNat 5 ix)) else bad
      | 1 => if ix < 32 then (0, c.e.gGet (BitVec.ofNat 5 ix)) else bad
      | 2 => if ix < 1024 && ix / 16 % 2 == 0 then (0, BitVec.ofNat 64 (bitsOf (c.v.getD (ix / 32) 0) (ix % 16 * 64) 64)) else bad
      | 3 =>
        let b := ix / 2048
        let r := ix / 16 % 128
        if ix % 16 != 0 || !mine then bad
        else if m.owned b r then (1, 0)
        else (0, BitVec.ofNat 64 (m.accAt b r (2 * pair) + m.accAt b r (2 * pair + 1) * 2 ^ 32))
      | 4 => if ix < 8 && mine then (0, (m.entry ix).word) else bad
      | _ =>
        let e := c.chEnd (ix / 3)
        if ix < 24 then (0, (if ix % 3 == 0 then e.cFull else if ix % 3 == 1 then e.cEmpty else e.cMove).setWidth 64) else bad
    if ans.1 != 3 && t.scstate != 2 then (2, 0) else ans

/-- `SCDBGA`: a write names an item; the status stands in [63:62]. -/
def execScdbga (sid : Nat) (v : Word) (s : State) : Out :=
  if 4096 ≤ sid then .next s
  else
    let v' := setBits v 62 2 0
    .next (s.updStrand sid (fun t => { t with scdbga := setBits v' 62 2 (s.dbgItem sid v').1 }))

/-- `SCDBGD`: the item's word, zero unless it is valid. -/
def State.dbgData (s : State) (sid : Nat) : Word :=
  let v := (s.strand sid).scdbga
  if bitsOf v 62 2 == 0 then (s.dbgItem sid (setBits v 62 2 0)).2 else 0

end Sys2Proof.Machine
end

