-- ==== Sys2Proof/Machine/Links.lean ====
section
/-! DEFINITION. Links.lean: viaducts, scale-up ports and Ethernet ports: their registers, flits, training, drains, keys and wavelengths
(19: R389-R399; 21: R427). -/

namespace Sys2Proof.Machine

/-! ## Link numbers (19: R389) -/

def isPort (k : Nat) : Bool := k < 12
def isViaduct (k : Nat) : Bool := 32 ≤ k && k < 68
def isEther (k : Nat) : Bool := 96 ≤ k && k < 112
def isLink (k : Nat) : Bool := isPort k || isViaduct k || isEther k
/-- The link that `LNKSEL` selects, and the fibre. -/
def State.selLink (s : State) : Nat := bitsOf s.lnksel 0 8
def State.selFibre (s : State) : Nat := bitsOf s.lnksel 8 4
def State.fibre (s : State) (k f : Nat) : Fibre := (s.link k).fibres.getD f .empty
def Link.setFibre (l : Link) (f : Nat) (x : Fibre) : Link := { l with fibres := l.fibres.setIfInBounds f x }
def State.updFibre (s : State) (k f : Nat) (g : Fibre → Fibre) : State := s.updLink k (fun l => l.setFibre f (g (l.fibres.getD f .empty)))

/-! ## Register words (19: R389) -/

/-- The rate shows while the link is locked. -/
def Link.stat (l : Link) : Word :=
  let rate := if l.st == 1 || l.st == 2 || l.st == 3 || l.st == 6 then l.rate.toNat else 0
  BitVec.ofNat 64 (l.rplcnt.toNat * 2 ^ 32 + l.inc.toNat * 2 ^ 24 + l.pkg.toNat * 2 ^ 14 + rate * 2 ^ 12 + (if l.sec then l.key.toNat * 16 else 0) + l.st.toNat)
def Link.ctl (l : Link) : Word := BitVec.ofNat 64 (b01 l.enable * 16 + b01 l.secen * 8)
def Fibre.wlWord (f : Fibre) : Word := BitVec.ofNat 64 (b01 f.spused * 2 ^ 25 + f.wlmap.toNat)
def Fibre.wqWord (f : Fibre) : Word := BitVec.ofNat 64 (f.cerr.toNat * 2 ^ 32 + f.eye.toNat * 2 ^ 16 + f.worst.toNat)

def satInc (x : BitVec 32) : BitVec 32 := satInc32 x
def State.countReplay (s : State) (k : Nat) : State := s.updLink k (fun l => { l with rplcnt := satInc l.rplcnt })
def State.setLink (s : State) (k : Nat) (st : BitVec 3) : State := s.updLink k (fun l => { l with st := st })

/-- A service-core event for all sixteen cores. -/
def State.allCores (s : State) (kind : Nat) (data : List Byte) : State :=
  (List.range 16).foldl (fun s n => s.coreEvent n kind 0 data) s

/-- An event that link `k` raised is held, which stalls its training (17: R355). -/
def State.linkStalled (s : State) (k : Nat) : Bool :=
  s.cores.any (fun c => c.2.held.any (fun e => 0x30 ≤ leAt e 0 2 && leAt e 0 2 ≤ 0x32 && leAt e 0x10 1 == k))

/-! ## States of a scale-up port (19: R398; 21: R427) -/

def State.rtepoch (s : State) : BitVec 32 := BitVec.ofNat 32 (s.rd rtepochAddr 4)

/-- A decrement for another module whose flit is dropped: it is on its way nowhere, and is lost in time (01: R20). -/
def Flit.lostDec (f : Flit) : Option DMsg :=
  if f.msg.kind == 4 then
    some ⟨false, f.msg.data.getD 0 0, (f.msg.data.getD 1 0).toNat, f.msg.data.getD 2 0 != 0, (f.msg.data.getD 3 0).setWidth 12, f.first, 0, 0, some noWay⟩
  else none

/-- A port leaves ACTIVE for DOWN: its unacknowledged flits are dropped, and the chunks whose path it was are redone (06: R168). -/
def State.portDown (s : State) (k : Nat) : State :=
  let ep := s.rtepoch
  let s : State := { s with msgs := s.msgs ++ (s.link k).unacked.filterMap Flit.lostDec }
  (s.updLink k (fun l => { l with st := 7, unacked := [], early := [], swaps := [], credit := false, epoch := if l.st == 1 then ep else l.epoch })).trussPortLost k

/-- Training starts. A viaduct keeps what belongs to its pair: the numbers, and the flits received ahead of their turn (19: R390). -/
def State.startLock (s : State) (k : Nat) : State :=
  s.updLink k (fun l => if isPort k then { l with st := 5, fails := 0, unacked := [], early := [], swaps := [], credit := false } else { l with st := 5, fails := 0 })

/-- Announce the incarnation to every valid package (19: R397), with the source number of service core 0 (DESIGN CHOICE, log 26). -/
def State.announce (s : State) : State :=
  let dsts := (List.range 1024).filter (fun p => routeValid (s.route p))
  { dsts.foldl (fun s p => s.trySend 1024 ⟨6, p, 0, [s.incarnation.setWidth 64]⟩) s with announced := true }

/-- `GO`: LOCKED becomes ACTIVE, the held packets are routed by the table as it stands, and the first port after a reset announces. -/
def State.goLink (s : State) (k : Nat) : State :=
  if (s.link k).st != 6 then s
  else
    let s := (s.updLink k (fun l => { l with st := 1, drained := false, goBy := none })).reroute k
    if isPort k && !s.announced then s.announce else s

/-- The peer check of 21: R427. -/
def State.peerOk (s : State) (k : Nat) : Bool :=
  let e := s.route (s.link k).pkg.toNat
  routeValid e && bitsOf e 12 10 == (s.link k).pkg.toNat

/-- Casquin may write `GO` to a port. -/
def State.goAllowed (s : State) (k : Nat) : Bool := (s.link k).st == 6 && (!isPort k || (s.rtepoch != (s.link k).epoch && s.peerOk k))

def linkData (k : Nat) (l : Link) : List Byte := bytesLE k 1 ++ bytesLE 0 1 ++ bytesLE l.pkg.toNat 2 ++ bytesLE l.inc.toNat 1 ++ bytesLE 0 3

/-- Casquin's check of a LOCKED port whose epoch differs: `LINK_MISMATCH` when the peer is not the table's. -/
def State.checkPort (s : State) (k : Nat) : State :=
  if isPort k && (s.link k).st == 6 && s.rtepoch != (s.link k).epoch && !s.peerOk k then s.allCores 0x32 (linkData k (s.link k)) else s

/-- A LOCKED port after a write of the epoch word: from the first one that lets it go, Casquin has 1,200 cycles to write `GO`; a word written back
to the recorded value counts as unchanged. -/
def State.epochPort (s : State) (k : Nat) : State :=
  if (s.link k).st != 6 then s
  else
    let by_ := if s.goAllowed k then (s.link k).goBy.or (some (s.cycle + 1200)) else none
    (s.checkPort k).updLink k (fun l => { l with goBy := by_ })

/-- The epoch word has been written. -/
def State.epochWritten (s : State) (old : BitVec 32) : State :=
  if s.rtepoch == old then s else (List.range 12).foldl State.epochPort s

/-- `RTEPOCH_WRITE`. -/
def execRtepochWrite (v : BitVec 32) (s : State) : Out := .next ((s.wr rtepochAddr 4 v.toNat).epochWritten s.rtepoch)

/-- `GO` written to the selected link by Casquin. -/
def execGo (_core : Nat) (s : State) : Out := .next (if s.goAllowed s.selLink then s.goLink s.selLink else s)

/-- Casquin writes `GO` at the latest 1,200 cycles after the epoch word first differed. -/
def execPortGo (port : Nat) (s : State) : Out :=
  match (s.link port).goBy with
  | some c => .next (if c.toNat ≤ s.cycle.toNat && s.goAllowed port then s.goLink port else s)
  | none => .next s

/-- Light is of scale-up ports; the other links are taken to have it. -/
def State.lit (s : State) (k : Nat) : Bool := !isPort k || (s.link k).light

/-- `RETRAIN`: DOWN becomes LOCKING. -/
def State.retrainLink (s : State) (k : Nat) : State := if (s.link k).st == 7 && s.lit k then s.startLock k else s
def execRetrain (_core : Nat) (s : State) : Out := .next (s.retrainLink s.selLink)

/-- `ENABLE` set: an OFF link with light trains. -/
def State.enableLink (s : State) (k : Nat) : State :=
  if !isLink k then s
  else
    let s := s.updLink k (fun l => { l with enable := true })
    if (s.link k).st == 0 && s.lit k then s.startLock k else s
def execEnable (_core : Nat) (s : State) : Out := .next (s.enableLink s.selLink)

/-- `ROTATE` (19: R394): transmission switches to a new key. It is ignored while a previous key is kept: here, or at the far end, which
keeps it for two replay windows from the first flit that arrives under the new one. -/
def State.rotateLink (s : State) (k : Nat) : State :=
  let l := s.link k
  let now := s.cycle.toNat
  let kept := match l.rotAt with
    | none => false
    | some c => now < c.toNat + 32768 || (now < c.toNat + 32768 + 16384 && s.freeBit 1)
  if l.st != 1 || !l.sec || l.prev.isSome || kept then s
  else s.updLink k (fun l => { l with key := l.key + 1, rotAt := some s.cycle })
def execRotate (_core : Nat) (s : State) : Out := .next (s.rotateLink s.selLink)

/-- A write of `LNKCTL`. -/
def State.writeCtl (s : State) (k : Nat) (v : Word) : State :=
  if !isLink k then s
  else
    let s := s.updLink k (fun l => { l with enable := v.getLsbD 4, secen := v.getLsbD 3 })
    let s := if v.getLsbD 4 then s.enableLink k else s
    let s := if v.getLsbD 2 then s.rotateLink k else s
    let s := if v.getLsbD 1 then s.retrainLink k else s
    if v.getLsbD 0 then s.goLink k else s

/-- `LOSS_OF_LIGHT`. -/
def execLossOfLight (port : Nat) (s : State) : Out :=
  if !isPort port then .next s
  else
    let s := s.updLink port (fun l => { l with light := false })
    let st := (s.link port).st
    .next (if st == 1 || st == 2 then s.portDown port else if st == 3 then s.setLink port 4 else s)

/-- `LIGHT_PRESENT`. -/
def execLightPresent (port : Nat) (s : State) : Out :=
  if !isPort port then .next s
  else
    let s := s.updLink port (fun l => { l with light := true })
    let l := s.link port
    .next (if l.st == 4 || (l.st == 0 && l.enable) then s.startLock port else s)

/-- The fibres after a lock: the 24 data wavelengths carry data, unless the boot has already put the spare in use. -/
def Link.lockFibres (l : Link) : Link := { l with fibres := l.fibres.map (fun f => if f.wlmap == 0 then { f with wlmap := 0xFFFFFF } else f) }

/-- A viaduct or an Ethernet port carries traffic: die roots that are reached again have their path, and what waited at a port for a way to it
goes on. -/
def State.linkUp (s : State) (k : Nat) : State :=
  let s := s.setLink k 1
  let bad (n : Nat) : Bool := match (List.range 4).filter (fun d => rootNode (256 * d) == n) with
    | [d] => !s.reach 0 d
    | _ => true
  (List.range 12).foldl State.portFlow ({ s with trussBad := s.trussBad.filter bad }).rewriteAlts

/-- `LINK_LOCKED` (19: R397, R398): rate, keys and incarnations are agreed. A port is LOCKED, and has no credit of its far end yet (21: R430). -/
def execLinkLocked (port : Nat) (pkg : BitVec 10) (inc : BitVec 8) (rate : BitVec 2) (s : State) : Out :=
  if (s.link port).st != 5 || s.linkStalled port then .next s
  else if !isPort port then .next (s.linkUp port)
  else if rate == 0 || rate == 3 then .next s
  else
    let k0 := (s.free 1).setWidth 8
    let k1 := (s.free 2).setWidth 8
    let lock (l : Link) : Link :=
      { l with st := 6, pkg := pkg, inc := inc, rate := rate, sec := l.secen, key := k0, rxKey := k1, prev := none, rotAt := none, goBy := none, credit := false,
               txNext := 0, rxNext := 0, unacked := [], early := [] }
    let s := s.updLink port (fun l => (lock l).lockFibres)
    let s := (s.learnInc pkg.toNat inc).emit ⟨6, pkg.toNat, 0, [s.incarnation.setWidth 64]⟩
    .next ((s.allCores 0x31 (linkData port (s.link port))).checkPort port)

/-- `TRAINING_FAILED`: the third takes the port DOWN. -/
def execTrainingFailed (port : Nat) (s : State) : Out :=
  let l := s.link port
  if l.st != 5 || s.linkStalled port then .next s
  else .next (s.updLink port (fun l => if 2 ≤ l.fails then { l with st := 7, fails := 0 } else { l with fails := l.fails + 1 }))

/-- `DRAIN_ACK`. -/
def execDrainAck (port : Nat) (s : State) : Out :=
  if !isPort port || (s.link port).st != 2 then .next s
  else .next (s.updLink port (fun l => { l with st := 3, drained := true, unacked := [] }))

/-- `ETHERNET_PORT_DOWN` (19: R399): the port sends nothing; the engine's traffic goes over the destination's other ports. -/
def execEthernetPortDown (port : Nat) (s : State) : Out :=
  if port < 16 && (s.link (96 + port)).st == 1 then .next (s.setLink (96 + port) 7) else .next s

/-! ## Flits (19: R390-R392, R394) -/

/-- Whether a flit's key is accepted, and the keys after it. A previous key is kept for two replay windows. -/
def Link.accept (l : Link) (key : BitVec 8) (now : Word) : Option Link :=
  if !l.sec || key == l.rxKey then some l
  else match l.prev.filter (fun p => now.toNat < p.2.toNat) with
    | some (k, _) => if key == k then some l else none
    | none => if key == l.rxKey + 1 then some { l with rxKey := key, prev := some (l.rxKey, now + 32768) } else none

/-- The flit of number `n` in a direction. -/
def Flit.at (n : Nat) (back : Bool) (f : Flit) : Bool := f.seqNo == n && f.back == back

/-- The far end of a port grants credit: what waited for it leaves (21: R430). -/
def State.grantCredit (s : State) (k : Nat) : State :=
  if (s.link k).credit then s else (s.updLink k (fun l => { l with credit := true })).portFlow k

/-- `FLIT`. On a port: a flit of the far end arrives, under a key that is accepted or dropped; it brings credit (log 72), and may acknowledge flits
of this end, how many is a free choice. On a viaduct: a flit that it carries arrives, and `key.ack` says that its sender hears of it. -/
def execFlit (link : Nat) (seq : FlitNo) (key : FlitKey) (s : State) : Out :=
  let l := s.link link
  if isPort link then
    if !(l.st == 1 || l.st == 2 || l.st == 3) then .next s
    else match l.accept key.key s.cycle with
      | none => .next (s.countReplay link)
      | some l' =>
        let acked := if key.ack then (s.free 1).toNat % (l.unacked.length + 1) else 0
        .next (((s.updLink link (fun _ => { l' with unacked := l'.unacked.drop acked })).receiveFlit link seq.no).grantCredit link)
  else if isViaduct link && l.st == 1 && l.unacked.any (Flit.at seq.no seq.back) then
    let s := s.receiveFlit (orderLink ((link - 32) / 6) seq.back) seq.no
    .next (if key.ack then s.updLink link (fun l => { l with unacked := l.unacked.filter (fun f => !f.at seq.no seq.back) }) else s)
  else .next s

/-- A flit goes out again over viaduct `k`. -/
def State.resendOn (s : State) (k : Nat) (f : Flit) : State :=
  (s.countReplay k).updLink k (fun l => { l with unacked := l.unacked ++ [{ f with last := s.cycle }] })

/-- `FLIT_RESEND`: after the resend interval, or at once on a negative acknowledgement. A viaduct's flit goes over any ACTIVE one of
the pair (`onto`); a port's goes out again under its own key. -/
def execFlitResend (link : Nat) (seq : FlitAgain) (s : State) : Out :=
  let l := s.link link
  match l.unacked.find? (Flit.at seq.no seq.back) with
  | none => .next s
  | some f =>
    let due (n : Nat) : Bool := seq.nak || f.last.toNat + n ≤ s.cycle.toNat
    if isViaduct link then
      if l.st == 1 && due 256 && (s.upLinks ((link - 32) / 6)).contains seq.onto then
        .next ((s.updLink link (fun l => { l with unacked := l.unacked.filter (fun f => !f.at seq.no seq.back) })).resendOn seq.onto f)
      else .next s
    else if isPort link && (l.st == 1 || l.st == 2) && due 2048 then
      .next (((s.countReplay link).updLink link (fun l =>
        { l with unacked := l.unacked.map (fun f => if f.at seq.no seq.back then { f with last := s.cycle } else f) })).emit f.msg)
    else .next s

/-- Flits in sequence order, direction by direction. -/
def insertFlit (f : Flit) : List Flit → List Flit
  | [] => [f]
  | g :: r => if (f.back == g.back && f.seqNo < g.seqNo) || (!f.back && g.back) then f :: g :: r else g :: insertFlit f r

/-- Two dies can no longer reach each other (19: R392): records with invocations there lose them, and a die root's path fails. A path between
two other dies is one to an alternate, at which `State.pathBad` looks. -/
def State.cutDies (s : State) (a b : Nat) : State :=
  let hit := (s.recs.filter (fun p => recDie p.1 == a || recDie p.1 == b)).map (·.1)
  let s := hit.foldl (fun s rk => s.loseDie rk (if recDie rk == a then b else a)) s
  let d := max a b
  (if min a b == 0 then { s with trussBad := insertNat (rootNode (256 * d)) s.trussBad } else s).rewriteAlts

/-- The last viaduct of a pair is gone: what its flits carried and was not delivered goes over the relay, and the numbers of the pair go
on from there. -/
def State.pairGone (s : State) (p : Nat) : State :=
  let o : List Nat := [orderLink p false, orderLink p true]
  let left (k : Nat) : List (Nat × Nat) := let l := s.link k; (List.range (l.txNext - l.rxNext)).map (fun i => (k, l.rxNext + i))
  let lost := o.flatMap left
  (o.foldl (fun s k => s.updLink k (fun l => { l with rxNext := l.txNext, early := [] })) s).relayLost lost

/-- `VIADUCT_DOWN`: a flit of it is unacknowledged 4,096 cycles after its first transmission, which is that on this viaduct: a flit that has come
here from a failed one has its 4,096 cycles again (DEDUCED, log 40). Its flits go on over the others of the pair, in sequence order; with the
last of them the pair is relayed, or the dies that lose each other are cut. -/
def execViaductDown (link : Nat) (s : State) : Out :=
  let l := s.link link
  if !isViaduct link || l.st != 1 || !(l.unacked.any (fun f => f.first.toNat + 4096 ≤ s.cycle.toNat)) then .next s
  else
    let s0 := s
    let p := (link - 32) / 6
    let s := (s.updLink link (fun l => { l with st := 7, unacked := [] })).allCores 0x30 (bytesLE link 8)
    let up := s.upLinks p
    let s := if up.isEmpty then s.pairGone p
      else ((l.unacked.foldr insertFlit []).map (fun f => { f with first := s.cycle })).foldl (fun (s : State) f => s.resendOn (up.getD ((s.free (2 ^ 51 + f.seqNo)).toNat % max 1 up.length) link) f) s
    let all := (List.range 6).map pairDies
    .next (all.foldl (fun s p => if s0.reach p.1 p.2 && !s.reach p.1 p.2 then s.cutDies p.1 p.2 else s) s)

/-- `REPLAY_WINDOW_EXCEEDED`. -/
def execReplayWindowExceeded (port : Nat) (s : State) : Out :=
  let l := s.link port
  if isPort port && l.st == 1 && l.unacked.any (fun f => f.first.toNat + 16384 ≤ s.cycle.toNat) then .next (s.portDown port) else .next s

/-- `PREVIOUS_KEY_EXPIRY`. -/
def execPreviousKeyExpiry (port : Nat) (s : State) : Out :=
  match (s.link port).prev with
  | some (_, t) => .next (if t.toNat ≤ s.cycle.toNat then s.updLink port (fun l => { l with prev := none }) else s)
  | none => .next s

/-! ## Wavelengths (19: R395) -/

/-- A wavelength is weak by the thresholds of `LNKSPTH`. -/
def State.weak (s : State) (cerr : BitVec 32) (eye : BitVec 16) : Bool :=
  bitsOf s.lnkspth 0 32 < cerr.toNat || eye.toNat < bitsOf s.lnkspth 32 16

/-- Wavelengths that carry data one way: the port's rate is as many 192ths of the agreed one. -/
def Link.dataWaves (l : Link) (rx : Bool) : Nat :=
  ((List.range 8).map (fun i => popCount (l.fibres.getD (if rx then 8 + i else i) .empty).wlmap.toNat 25)).sum

/-- What a swap says to the far end, whose fibre of the other direction bears the number less 8. -/
def swapMsg (pkg fibre wl seq : Nat) : OutMsg := ⟨9, pkg, 0, [BitVec.ofNat 64 (fibre % 8), BitVec.ofNat 64 wl, BitVec.ofNat 64 seq]⟩

/-- `SAMPLE_WINDOW`: a window of a receive wavelength ends, at a multiple of 2^24 cycles (DESIGN CHOICE, log 32); the weakest of its fibre
shows in `LNKWQ`, and a weak one asks for a swap. -/
def execSampleWindow (port fibre wl : Nat) (cerr : BitVec 32) (eye : BitVec 16) (s : State) : Out :=
  if !isPort port || fibre < 8 || 16 ≤ fibre || 25 ≤ wl || s.cycle == 0 || s.cycle.toNat % 2 ^ 24 != 0 then .next s
  else
    let win := s.cycle.toNat / 2 ^ 24
    let note (f : Fibre) : Fibre :=
      if f.win != win || f.cerr.toNat < cerr.toNat || (f.cerr == cerr && eye.toNat < f.eye.toNat) then
        { f with worst := BitVec.ofNat 5 wl, cerr := cerr, eye := eye, win := win }
      else f
    let s := s.updFibre port fibre note
    let l := s.link port
    if l.st == 1 && s.weak cerr eye && (s.fibre port fibre).wlmap.getLsbD wl && !(l.swaps.any (fun x => x.fibre == fibre && x.wl == wl)) then
      let q := l.rxNext + 4096 + (s.free 1).toNat % 65536
      .next ((s.updLink port (fun l => { l with swaps := l.swaps ++ [⟨fibre, wl, q, true, s.cycle, false⟩] })).sendPort port
        (swapMsg l.pkg.toNat fibre wl q))
    else .next s

/-- Where a request of the far end stands among the swaps: after those pending, but before this end's of the same cycle when the far
end has the lower package id. -/
def placeSwap (x : Swap) (first : Bool) : List Swap → List Swap
  | [] => [x]
  | y :: r => if first && y.mine && y.asked == x.asked then x :: y :: r else y :: placeSwap x first r

/-- `WAVELENGTH_SWAP_REQUEST`: the sending end acknowledges; by `fromPkg.ack` it is such an acknowledgement of this end's own request. -/
def execWavelengthSwapRequest (port fibre wl seq : Nat) (fromPkg : SwapFrom) (s : State) : Out :=
  let l := s.link port
  if !isPort port || l.st != 1 || 8 ≤ fibre || 25 ≤ wl then .next s
  else if fromPkg.ack then
    .next (s.updLink port (fun l => { l with
      swaps := l.swaps.map (fun x => if x.mine && x.fibre == fibre + 8 && x.wl == wl && x.seqNo == seq then { x with acked := true } else x) }))
  else
    .next ((s.updLink port (fun l => { l with swaps := placeSwap ⟨fibre, wl, seq, false, s.cycle, true⟩ (fromPkg.pkg.toNat < s.pkg.toNat) l.swaps })).sendPort
      port (swapMsg fromPkg.pkg.toNat fibre wl seq))

/-- The spare takes a wavelength's share; with the spare in use the fibre goes on without it. -/
def Fibre.swap (f : Fibre) (wl : Nat) : Fibre :=
  let m := f.wlmap &&& ~~~(1#25 <<< wl)
  { f with wlmap := if f.spused then m else m ||| (1#25 <<< 24), spused := true }

/-- `QUIET_POINT`: the flit that the swap at the head of the queue names is reached, and both ends have agreed to it. -/
def execQuietPoint (port fibre : Nat) (s : State) : Out :=
  let l := s.link port
  match l.swaps with
  | [] => .next s
  | x :: r =>
    if x.fibre != fibre || !x.acked || (if x.mine then l.rxNext else l.txNext) < x.seqNo then .next s
    else .next ((s.updLink port (fun l => { l with swaps := r })).updFibre port fibre (fun f => f.swap x.wl))

end Sys2Proof.Machine
end

