-- ==== Sys2Proof/Machine/System.lean ====
section
/-! DEFINITION. System.lean: system registers of tiles and service cores, their reads and writes, and the service core's own
instructions (13: R332-R335; 17: R354, R365; 18: R376; 19: R389; 20: R402, R414, R417, R418, R421). -/

namespace Sys2Proof.Machine

/-! ## Tile registers (13: R333) -/

/-- Registers 0x010 to 0x017, once per sequencer. -/
def Seq.reg (q : Seq) (r : Nat) : Word :=
  match r with
  | 0x10 => q.trapVec
  | 0x11 => q.tcause
  | 0x12 => q.targ
  | 0x13 => q.trline
  | 0x14 => q.tridx
  | 0x15 => q.trpend
  | 0x16 => q.tscr0
  | 0x17 => q.tscr1
  | _ => 0

def lineAddr (v : Word) : Word := v &&& ~~~0x3F#64
/-- A value that `TRIDX` holds after a write. -/
def tridxOf (v : Word) : Word := BitVec.ofNat 64 (min 128 (bitsOf v 0 8))

def Seq.setReg (q : Seq) (r : Nat) (v : Word) : Seq :=
  match r with
  | 0x10 => { q with trapVec := lineAddr v }
  | 0x13 => { q with trline := lineAddr v }
  | 0x14 => { q with tridx := tridxOf v }
  | 0x15 => { q with trpend := v &&& ~~~0x3E#64 }
  | 0x16 => { q with tscr0 := v }
  | 0x17 => { q with tscr1 := v }
  | _ => q

/-- `IDENT` of a strand. -/
def State.identTile (s : State) : Word :=
  BitVec.ofNat 64 (sidTile s.sid + sidSlot s.sid * 2 ^ 10 + s.pkg.toNat * 2 ^ 12 + s.incarnation.toNat * 2 ^ 22)

def State.tileReg (s : State) (r : Nat) : Word :=
  match r with
  | 0x0 => s.cycle
  | 0x1 => s.core.spanno.setWidth 64
  | 0x2 => s.core.etc.setWidth 64
  | 0x3 => s.identTile
  | 0x4 => s.me.tref
  | 0x5 => s.me.ptag.setWidth 64
  | 0x6 => (s.pitch s.me.ptag.toNat).pbarto
  | 0x7 => (s.pitch s.me.ptag.toNat).ptrsto
  | 0x8 => ctrRead (s.tile (sidTile s.sid)).feover
  | _ => s.seq.reg r

def State.setTileReg (s : State) (r : Nat) (v : Word) : State :=
  if r == 2 then s.updCore (fun c => { c with etc := BitVec.ofNat 32 (sat32 v.toNat) }) else s.updSeq (fun q => q.setReg r v)

/-! ## Pitch registers (17: R354, R365; 20: R402, R414) -/

def Pitch.reg (x : Pitch) (r : Nat) : Word :=
  match r with
  | 0x111 => x.proot
  | 0x112 => x.pctl
  | 0x113 => x.pbarto
  | 0x114 => x.ptrsto
  | 0x115 => x.pcbar[0]
  | 0x116 => x.pcbar[1]
  | 0x117 => x.pcbar[2]
  | 0x118 => x.pcbar[3]
  | 0x119 => x.puncl
  | 0x11A => x.puncln
  | 0x11B => ctrRead x.pstale
  | 0x11C => ctrRead x.pexcess
  | 0x11D => ctrRead x.ptrdrop
  | 0x11E => x.pevlog
  | 0x11F => x.pevlogn
  | 0x120 => x.pviol
  | 0x121 => x.pvioln
  | 0x122 => x.ssmem0
  | 0x123 => x.ssmem1
  | 0x124 => x.key
  | _ => 0

def pitchRegs : List Nat := (List.range 20).map (fun i => 0x111 + i)

/-- Members that `SSMEM0` and `SSMEM1` name as valid. -/
def members (a b : Word) : List Nat :=
  (List.range 8).filterMap (fun m =>
    let r := if m < 4 then a else b
    if r.getLsbD (m % 4) then some (bitsOf r (12 * (m % 4) + 12) 12) else none)

/-- The zero bits of `SSMEM0` and `SSMEM1`. -/
def ssMask (v : Word) : Word := v &&& 0x0FFFFFFFFFFFF00F#64

/-- A truss group or a counting barrier carries the tag. -/
def State.tagUsed (s : State) (p : Nat) : Bool :=
  s.groups.any (fun g => g.2.freed.isNone && g.2.ptag.toNat == p) || (s.pitch p).pcbar.toList.any (fun w => w != 0)

/-- A write of `SSMEM0` or `SSMEM1` (20: R402): a FREE value becomes a set, a set changes, or is freed. -/
def State.writeSsmem (s : State) (p which : Nat) (v : Word) : State :=
  let x := s.pitch p
  let a := if which == 0 then ssMask v else x.ssmem0
  let b := if which == 0 then x.ssmem1 else ssMask v
  let ms := members a b
  if s.pstate p == 0 then
    if 2 ≤ ms.length && ms.eraseDups.length == ms.length && ms.all (fun m => m != 0 && s.pstate m == 1) then
      (s.freshKey p).updPitch p (fun x => { x with ssmem0 := a, ssmem1 := b, pctl := setBits x.pctl 0 2 3 })
    else s
  else if s.pstate p == 3 then
    if ms.isEmpty then
      if s.tagUsed p then s else s.updPitch p (fun x => { x with ssmem0 := a, ssmem1 := b, pctl := setBits x.pctl 0 2 0 })
    else s.updPitch p (fun x => { x with ssmem0 := a, ssmem1 := b })
  else s

/-- A service core that reads for a request, or for a register: the writes of its earlier requests, and those that a release covers, come before
(17: R348, R353). -/
def coreReader (die : Nat) : Who := ⟨.past, none, none, some die⟩

/-- The block of a non-zero `PIMGKEY` value, read at once as pitch 0 from die `die` (17: R365): the block, or the status and the fault
address. A line that refuses the read counts as a fault, and is logged (log 23). -/
def State.readKey (s : State) (die : Nat) (v : Word) : Except (Nat × Word) (List Byte) × State :=
  if spaceOf v != 0 then (.error (3, v), s)
  else match s.globalParts die 0 .load (offOf v) 3136 3 with
    | .error (_, a) => (.error (3, a), s)
    | .ok ps =>
      match s.partsRefusal false ps with
      | some k => (.error (3, v), s.violLog die 0 k 0xFFFF v 0)
      | none =>
        let (b, s) := (s.touch false ps).readAs (coreReader die) 5 (keysOf ps)
        let e := leAt b 0xC20 4
        if (b.drop 0xC24).any (· != 0) || e % 2 == 0 || e < 3 then (.error (1, 0), s) else (.ok b, s)

/-- `PIMGKEY` and Casquin's copy of the keys. -/
def State.putKey (s : State) (p : Nat) (v : Word) (b : List Byte) : State :=
  if s.pstate p == 0 then s else s.updPitch p (fun x => { x with key := v, keys := b })

/-- A write of `PIMGKEY`. -/
def State.writeKey (s : State) (die p : Nat) (v : Word) : State :=
  if v == 0 then s.putKey p 0 []
  else match s.readKey die v with
    | (.ok b, s) => s.putKey p v b
    | (.error _, s) => s

/-- A write of a pitch register. Registers of a FREE value ignore it, but for `SSMEM0` and `SSMEM1`. -/
def State.writePitch (s : State) (die p r : Nat) (v : Word) : State :=
  let upd (f : Pitch → Pitch) : State := s.updPitch p f
  if r == 0x122 || r == 0x123 then s.writeSsmem p (r - 0x122) v
  else if s.pstate p == 0 then s
  else match r with
    | 0x111 => if v.toNat % 8192 != 0 then s else upd (fun x => { x with proot := v })
    | 0x112 => upd (fun x => { x with pctl := setBits x.pctl 2 11 (bitsOf v 2 11) })
    | 0x113 => upd (fun x => { x with pbarto := v })
    | 0x114 => upd (fun x => { x with ptrsto := v })
    | 0x115 => upd (fun x => { x with pcbar := x.pcbar.set 0 v })
    | 0x116 => upd (fun x => { x with pcbar := x.pcbar.set 1 v })
    | 0x117 => upd (fun x => { x with pcbar := x.pcbar.set 2 v })
    | 0x118 => upd (fun x => { x with pcbar := x.pcbar.set 3 v })
    | 0x119 => upd (fun x => { x with puncl := v })
    | 0x11B => upd (fun x => { x with pstale := ctrWrite x.pstale v })
    | 0x11C => upd (fun x => { x with pexcess := ctrWrite x.pexcess v })
    | 0x11D => upd (fun x => { x with ptrdrop := ctrWrite x.ptrdrop v })
    | 0x11E => upd (fun x => { x with pevlog := v })
    | 0x120 => upd (fun x => { x with pviol := v })
    | 0x124 => s.writeKey die p v
    | _ => s

/-! ## Registers of a service core (17: R354; 19: R389; 20: R418, R420, R421) -/

def State.identCore (s : State) (n : Nat) : Word := BitVec.ofNat 64 (n + s.pkg.toNat * 2 ^ 4 + s.incarnation.toNat * 2 ^ 14)
def State.ingressOf (s : State) (p : Nat) : Ingress := Tbl.get s.ingress p .empty
def State.updIngress (s : State) (p : Nat) (f : Ingress → Ingress) : State := { s with ingress := Tbl.put s.ingress p (f (s.ingressOf p)) }
def State.handler (s : State) (h : Nat) : Word × Word := Tbl.get s.handlers h (0, 0)
def State.setHandler (s : State) (h : Nat) (x : Word × Word) : State := { s with handlers := Tbl.put s.handlers h x }
def State.selPitch (s : State) (n : Nat) : Nat := bitsOf (s.coreRegs n).psel 0 12

/-- The numbers of R354, R365, R389, R402, R414, R418, R420 and R421; any other gives ILLEGAL_FORM at block entry. -/
def coreReg (r : Nat) : Bool :=
  r == 0 || r == 3 || (0x10 ≤ r && r ≤ 0x17) || (0x100 ≤ r && r ≤ 0x103) || (0x110 ≤ r && r ≤ 0x124) || (0x150 ≤ r && r ≤ 0x152) ||
  (0x160 ≤ r && r ≤ 0x162) || (0x170 ≤ r && r ≤ 0x175) || (0x180 ≤ r && r ≤ 0x185) || (0x1A0 ≤ r && r ≤ 0x1A2) || r == 0x1B0 || r == 0x1B1

/-- The numbers of R333. -/
def tileRegs (r : Nat) : Bool := r ≤ 8 || (0x10 ≤ r && r ≤ 0x17)
/-- Those that `SYSWR` may name. -/
def tileWritable (r : Nat) : Bool := r == 2 || r == 0x10 || (0x13 ≤ r && r ≤ 0x17)

/-- What a read of a register by core `n` returns; write-only ones read zero (00: R9). -/
def State.coreRead (s : State) (n r : Nat) : Word :=
  let c := s.coreRegs n
  match r with
  | 0x0 => s.cycle
  | 0x3 => s.identCore n
  | 0x100 => c.evqbase
  | 0x101 => c.evqhead
  | 0x102 => c.evqtail
  | 0x103 => c.evqsize
  | 0x110 => c.psel
  | 0x150 => c.portsel
  | 0x151 => (s.ingressOf c.portsel.toNat).ctl
  | 0x152 => (s.ingressOf c.portsel.toNat).slot
  | 0x160 => c.hsel
  | 0x161 => (s.handler c.hsel.toNat).1
  | 0x162 => (s.handler c.hsel.toNat).2
  | 0x170 => s.lnksel
  | 0x171 => if isLink s.selLink then (s.link s.selLink).stat else 0
  | 0x172 => if isLink s.selLink then (s.link s.selLink).ctl else 0
  | 0x173 => if isPort s.selLink then (s.fibre s.selLink s.selFibre).wlWord else 0
  | 0x174 => if isPort s.selLink then (s.fibre s.selLink s.selFibre).wqWord else 0
  | 0x175 => s.lnkspth
  | 0x180 => s.dbgTref
  | 0x182 => s.bps[0]
  | 0x183 => s.bps[1]
  | 0x184 => s.bps[2]
  | 0x185 => s.bps[3]
  | 0x1A0 => c.cesel
  | 0x1A1 => ctrRead (s.tile c.cesel.toNat).cecnt
  | 0x1A2 => s.cesTh
  | 0x1B1 => s.swbuf
  | _ => if 0x111 ≤ r && r ≤ 0x124 then (s.pitch (s.selPitch n)).reg r else (s.strand (4096 + n)).core.a.reg r

/-- A breakpoint register's writable bits. -/
def bpMask (v : Word) : Word := v &&& ~~~0xFFF8#64

/-- A write to a register by core `n`, as it takes effect at the end of its cycle. -/
def State.coreWrite (s : State) (n r : Nat) (v : Word) : State :=
  let upd (f : Core → Core) : State := s.updCoreRegs n f
  let c := s.coreRegs n
  let lo (k : Nat) : Word := BitVec.ofNat 64 (bitsOf v 0 k)
  match r with
  | 0x100 => upd (fun c => { c with evqbase := v })
  | 0x101 => (upd (fun c => { c with evqhead := v })).flushHeld n (c.held.length + 1)
  | 0x103 => upd (fun c => { c with evqsize := if 6 ≤ v.toNat && v.toNat ≤ 16 then v else 6 })
  | 0x110 => upd (fun c => { c with psel := lo 12 })
  | 0x150 => upd (fun c => { c with portsel := lo 6 })
  | 0x151 => s.updIngress c.portsel.toNat (fun x => { x with ctl := v &&& 0x0FFF0001#64 })
  | 0x152 => s.updIngress c.portsel.toNat (fun x => { x with slot := v })
  | 0x160 => upd (fun c => { c with hsel := lo 12 })
  | 0x161 => s.setHandler c.hsel.toNat (v &&& ~~~0x3F0000#64, (s.handler c.hsel.toNat).2)
  | 0x162 => s.setHandler c.hsel.toNat ((s.handler c.hsel.toNat).1, v)
  | 0x170 => { s with lnksel := lo 12 }
  | 0x172 => s.writeCtl s.selLink v
  | 0x175 => { s with lnkspth := lo 48 }
  | 0x180 => { s with dbgTref := v }
  | 0x181 =>
    let s := if v.getLsbD 0 then s.dbgStop else s
    if v.getLsbD 1 then s.dbgResume else s
  | 0x182 => { s with bps := s.bps.set 0 (bpMask v) }
  | 0x183 => { s with bps := s.bps.set 1 (bpMask v) }
  | 0x184 => { s with bps := s.bps.set 2 (bpMask v) }
  | 0x185 => { s with bps := s.bps.set 3 (bpMask v) }
  | 0x1A0 => upd (fun c => { c with cesel := lo 10 })
  | 0x1A1 => s.updTile c.cesel.toNat (fun t => { t with cecnt := ctrWrite t.cecnt v })
  | 0x1A2 => { s with cesTh := v }
  | 0x1B0 => s.stallStart n v
  | 0x1B1 => { s with swbuf := v }
  | _ => if 0x111 ≤ r && r ≤ 0x124 then s.writePitch (n / 4) (s.selPitch n) r v else s

/-- A write that waits for the end of the cycle (17: R354). -/
def State.queueReg (s : State) (n : Nat) (w : RegW) : State := s.updCoreRegs n (fun c => { c with regq := c.regq ++ [w] })

/-- It takes effect, or the request completes whose writes have. An `HSET` writes `HENT0` with STATE 2, `HENT1`, and `HENT0` with STATE 1 (17: R363). -/
def State.applyReg (s : State) (n : Nat) (w : RegW) : State :=
  match w with
  | .reg r v => s.coreWrite n r v
  | .pset p r v => s.writePitch (n / 4) p r v
  | .key p v b => s.putKey p v b
  | .hset h e m =>
    let s := s.setHandler h (e ||| 2, (s.handler h).2)
    let s := s.setHandler h (e ||| 2, m)
    s.setHandler h (e ||| 1, m)
  | .finish q st => (s.reqAt q).elim s (fun r => s.complete q r st 0)

/-- The end of the cycle: the writes of core `n` take effect in order. -/
def State.applyRegs (s : State) (n : Nat) : State :=
  ((s.coreRegs n).regq).foldl (fun s w => s.applyReg n w) (s.updCoreRegs n (fun c => { c with regq := [] }))

/-- `REGISTER_WRITE`: a write, which takes effect at the end of the cycle. -/
def execRegisterWrite (core reg : Nat) (v : Word) (s : State) : Out := .next (if core < 16 then s.queueReg core (.reg reg v) else s)

/-- `COUNTER_WRITE` (20: R417): a writable 48-bit counter. -/
def execCounterWrite (core reg : Nat) (v : Word) (s : State) : Out :=
  .next (if core < 16 && (reg == 0x11B || reg == 0x11C || reg == 0x11D || reg == 0x1A1) then s.queueReg core (.reg reg v) else s)

/-- `PIMGKEY` (17: R365). -/
def execPimgkey (core : Nat) (v : Word) (s : State) : Out := .next (if core < 16 then s.queueReg core (.reg 0x124 v) else s)

/-- `SSMEM_WRITE` (20: R402). -/
def execSsmemWrite (core which : Nat) (v : Word) (s : State) : Out :=
  .next (if core < 16 && which < 2 then s.queueReg core (.reg (0x122 + which) v) else s)

/-! ## SYSRD and SYSWR (13: R332) -/

def execSysrd (d : BitVec 5) (reg : BitVec 12) (s : State) : Out :=
  s.ret d (if isCore s.cur then s.coreRead (coreNo s.cur) reg.toNat else s.tileReg reg.toNat)

/-- A service core's write waits for the end of its cycle, but for the trap registers, which are the sequencer's own. -/
def execSyswr (a : BitVec 5) (reg : BitVec 12) (s : State) : Out :=
  let r := reg.toNat
  let v := s.g a
  if isCore s.cur then
    done (if 0x10 ≤ r && r ≤ 0x17 then s.updSeq (fun q => q.setReg r v)
      else s.queueReg (coreNo s.cur) (.reg r v))
  else done (s.setTileReg r v)

/-- `TRAPRET` (13: R334). -/
def execTrapret (s : State) : Out := if s.seq.tcause.getLsbD 8 then stay (s.updSeq Seq.trapRet) else done s

/-! ## TLBINV and IDLE (13: R335; 18: R376, R377) -/

/-- The page of an extent-0 `TLBINV`: base and bytes, of the largest leaf that a table or a structure has for it. -/
def State.invPage (s : State) (p va : Nat) : Nat × Nat :=
  let now := match s.leafNow p va with
    | .ok (_, _, size) => size
    | .error _ => 65536
  let cached := ((s.tlb.filter (fun t => t.ptag.toNat == p)).map (fun t => (t.page, t.size))) ++
    (s.recs.filter (fun r => r.2.ptag.toNat == p)).flatMap (fun r => r.2.held.map (fun h => (h.1, h.2.2.2)))
  let n := cached.foldl (fun n t => if t.1 * 65536 / t.2 == va / t.2 then max n t.2 else n) now
  (va / n * n, n)

/-- Whether an extent covers a page of a pitch. -/
structure Extent where
  all : Bool
  ptag : Nat
  page : Option (Nat × Nat)

def Extent.covers (x : Extent) (p va n : Nat) : Bool :=
  x.all || (x.ptag == p && (match x.page with
    | none => true
    | some (b, m) => va < b + m && b < va + n))

def Extent.coversRow (x : Extent) (p : Nat) (r : CpRow) : Bool :=
  (spaceOf r.sva == 0 && x.covers p (offOf r.sva) r.len) || (spaceOf r.dva == 0 && x.covers p (offOf r.dva) r.len)

/-- Some copy, transport post or held write-back has a translation of the extent. -/
def State.heldIn (s : State) (x : Extent) : Bool :=
  s.copies.any (fun c => c.2.rows.any (fun r => x.coversRow c.2.ptag.toNat r)) ||
  s.posts.any (fun p => x.covers p.2.ptag.toNat (offOf p.2.laddr) p.2.len) ||
  s.recs.any (fun r => r.2.invs.any (fun i => i.2.wb.any (fun w => w.2.2.any (fun c => !c.dst.isEmpty && x.coversRow r.2.ptag.toNat c))))

/-- Every structure drops its entries of the extent, dispatcher-held translations too, and no load or store that used one is
left behind. -/
def State.dropIn (s : State) (x : Extent) : State :=
  let s : State := { s with tlb := s.tlb.filter (fun t => !x.covers t.ptag.toNat (t.page * 65536) 65536) }
  let s : State := { s with recs := s.recs.map (fun r =>
    (r.1, { r.2 with held := r.2.held.filter (fun h => !x.covers r.2.ptag.toNat (h.1 * 65536) 65536) })) }
  let busy (t : Strand) : Bool := !t.pend.isEmpty || !t.loads.isEmpty || t.core.w.toList.any (fun w => !w.rd.isEmpty)
  let sids := (s.strands.filter (fun t => t.1 < 4096 && busy t.2 && (x.all || t.2.ptag.toNat == x.ptag))).map (·.1)
  sids.foldl (fun s sid => (s.settleLoads sid).drain sid allKinds) s

def execTlbinv (d a b : BitVec 5) (s : State) : Out :=
  let v := s.g a
  let e := bitsOf v 12 2
  if bitsOf v 14 50 != 0 || e == 3 then s.ret d 4
  else
    let p := bitsOf v 0 12
    let x : Extent := ⟨e == 2, p, if e == 0 then some (s.invPage p (offOf (s.g b))) else none⟩
    let s := s.dropIn x
    if s.heldIn x then .next (s.block .tlbinv) else s.ret d 0

/-- `IDLE`: sleeps until an event arrives in the core's ring, or a doorbell rings. -/
def execIdle (s : State) : Out := if s.seq.wait == some .idle then done s else .next (s.block .idle)

end Sys2Proof.Machine
end

