-- ==== Sys2Proof/Machine/Image.lean ====
section
/-! DEFINITION. Image.lean: Fredihal images: their layout, the checks of a load, and the template table (17: R364-R368; 01: R13-R27;
17: R361). -/

namespace Sys2Proof.Machine

/-! ## The chain of a measurement (17: R371) -/

def chainBytes (m : BitVec 512) : List Byte := bytesLE m.toNat 64
/-- One extension of a chain by a component. -/
def extend (m : BitVec 512) (component : List Byte) : BitVec 512 := sha512 (chainBytes m ++ chainBytes (sha512 component))

/-! ## Memory of a pitch for a request -/

/-- Keys of `[va, va+n)` of a pitch, or the faulting address. A line that refuses the access counts as a fault. -/
def State.pitchKeys (s : State) (die p : Nat) (nd : Need) (va : Word) (n : Nat) : Except Word (List Nat × List Part) :=
  if n == 0 then .ok ([], [])
  else if 2 ^ 56 < va.toNat + n then .error va
  else match s.globalParts die p nd va.toNat n (n / 65536 + 2) with
    | .error (_, a) => .error a
    | .ok ps => if (s.partsRefusal nd.w ps).isSome then .error va else .ok (keysOf ps, ps)

/-- Read them; or write them, for service core `core`, whose write it is (03: R110). -/
def State.pitchRead (s : State) (die p : Nat) (va : Word) (n : Nat) : Except Word (List Byte × State) :=
  match s.pitchKeys die p .load va n with
  | .error a => .error a
  | .ok (ks, ps) => .ok ((s.touch false ps).readAs (coreReader die) 5 ks)

def State.pitchWrite (s : State) (core p : Nat) (nd : Need) (va : Word) (b : List Byte) : Except Word State :=
  match s.pitchKeys (core / 4) p nd va b.length with
  | .error a => .error a
  | .ok (ks, ps) =>
    .ok (((s.touch true ps).unpoison ps).putUnits (s.whoOf (4096 + core)) false (wordUnits 4 ks.length (ks.zip b)))

/-! ## Layout (17: R364, R366) -/

def zeroBytes (b : List Byte) : Bool := b.all (· == 0)

/-- A section entry, and whether its zero bytes are zero. -/
structure Sect where
  kind : Nat
  off : Nat
  len : Nat
  vaddr : Nat
  clean : Bool
  deriving DecidableEq, Repr

def sectOf (b : List Byte) : Sect := ⟨leAt b 0 1, leAt b 8 8, leAt b 16 8, leAt b 24 8, zeroBytes ((b.drop 1).take 7)⟩

/-- The header and the section table hold what R364 and R366 let them; the failing section otherwise. -/
def imageSects (b : List Byte) (len : Nat) : Except Nat (List Sect) :=
  let n := leAt b 6 2
  let v := leAt b 4 2
  let so := leAt b 0x10 8
  let sig := leAt b 0x18 8
  let sigLen := leAt b 0x20 4
  if leAt b 0 4 != 0x4C484446 || !(v == 1 || v == 2) || n == 0 || 256 < n || leAt b 8 8 != len || !zeroBytes ((b.drop 0x24).take 28) || len < so + 32 * n ||
      (v == 1 && (sig != 0 || sigLen != 0)) || (sig == 0 && sigLen != 0) || (sig != 0 && (sigLen != 5139 || len < sig + sigLen)) then .error 0
  else
    let l := (List.range n).map (fun i => sectOf ((b.drop (so + 32 * i)).take 32))
    let bad (x : Sect) : Bool := x.kind == 0 || 4 < x.kind || !x.clean || len < x.off + x.len || (x.kind == 1 && x.vaddr % 64 != 0) ||
      (3 ≤ x.kind && x.vaddr != 0)
    match (List.range n).find? (fun i => bad (l.getD i ⟨0, 0, 0, 0, false⟩)) with
    | some i => .error i
    | none => .ok l

/-- The signatures of R364 verify under the pitch's keys. -/
def imageSigned (keys b : List Byte) : Bool :=
  let sig := leAt b 0x18 8
  sig != 0 && !keys.isEmpty &&
    Config.sigOk keys (sha512 (b.take sig ++ List.replicate 5139 0 ++ b.drop (sig + 5139))) ((b.drop sig).take 5139)

/-- The `n` bytes that a pointer names wholly within one section of a kind. -/
def imageAt (b : List Byte) (l : List Sect) (kind ptr n : Nat) : Option (List Byte) :=
  (l.find? (fun x => x.kind == kind && x.vaddr ≤ ptr && ptr + n ≤ x.vaddr + x.len)).map (fun x => (b.drop (x.off + (ptr - x.vaddr))).take n)

/-- A prototype of a template section with what its pointers name. -/
structure Proto where
  die : Nat
  r : Rec
  ops : List OpD
  chans : List (List Byte)
  succ : List Word
  inSects : Bool                  -- every pointer lies as step 3 of R367 asks

/-- A template section. The zero bytes of it and of its entries are read by nobody: R367 states no fault for them (00: R10). -/
structure Tmpl where
  tid : Nat
  nslot : Nat
  protos : List Proto

def protoOf (b : List Byte) (l : List Sect) (p tid i : Nat) (x : List Byte) : Proto :=
  let r : Rec := { recOfBytes (x.drop 8) with ptag := BitVec.ofNat 12 p, tid := BitVec.ofNat 16 tid, slot := BitVec.ofNat 16 i }
  let get (n : Nat) (ptr : Word) : Option (List Byte) := if n == 0 then some [] else imageAt b l 2 ptr.toNat n
  let ops := get (32 * r.nops.toNat) r.ops
  let chans := get (16 * r.nchan.toNat) r.chans
  let succ := get (8 * r.nsucc.toNat) r.succ
  let chs := split16 16 (chans.getD []) r.nchan.toNat
  { die := leAt x 0 1, r := { r with binds := chs }, ops := (split16 32 (ops.getD []) r.nops.toNat).map opOf, chans := chs,
    succ := (split16 8 (succ.getD []) r.nsucc.toNat).map (fun e => BitVec.ofNat 64 (natOfBytes e)),
    inSects := ops.isSome && chans.isSome && succ.isSome && (!(r.kind == 2#4) || (imageAt b l 2 r.recs.toNat 32).isSome) &&
      (imageAt b l 1 r.entryA.toNat 64).isSome && (imageAt b l 1 r.entryE.toNat 64).isSome }

def tmplOf (b : List Byte) (l : List Sect) (p : Nat) (x : Sect) : Tmpl :=
  let t := (b.drop x.off).take x.len
  let tid := leAt t 0 2
  ⟨tid, leAt t 2 2, (List.range (leAt t 4 2)).map (fun i => protoOf b l p tid i ((t.drop (8 + 136 * i)).take 136))⟩

/-! ## What is rejected at load (01: R16-R26; 17: R361) -/

/-- R21, R22, R23: the fields of the record. -/
def Rec.loadOk (r : Rec) : Bool :=
  let fan := if r.kind == 1 then 1 ≤ r.fan.toNat && r.fan.toNat ≤ 2 ^ 20 else if r.kind == 2 then r.fan == 0 else r.fan == 1
  let spad := 4 ≤ r.spad.toNat && r.spad.toNat ≤ (if r.tkind == 0 then 64 else 192)
  (r.fmt == 1 || r.fmt == 2) && r.kind.toNat ≤ 4 && fan && r.tkind.toNat ≤ 2 && (r.fmt == 1 || spad) && r.cw ≤ (if r.tkind == 0 then 12 else 4) &&
  r.entryA.toNat % 64 == 0 && r.entryE.toNat % 64 == 0 && r.scope.toNat ≤ 5 && r.nchan.toNat ≤ 8 && r.nops.toNat ≤ 64 &&
  (r.fmt != 1 || (r.kind != 2 && !r.rollback && !r.streamlink))

/-- The allocation that R23 and R24 check a descriptor against. -/
def Rec.loadAlloc (r : Rec) : Nat := if r.fmt == 1 then (if r.tkind == 0 then 0x100000 else 0x300000) else r.spad.toNat * 16384

/-- R16, R23, R24: a descriptor. -/
def OpD.loadOk (o : OpD) (r : Rec) (nslot : Nat) : Bool :=
  o.flags < 128 && o.ety ≤ 14 && o.ety != 13 && 1 ≤ o.rows && o.rows ≤ 4096 && 1 ≤ o.rowbytes && o.rowbytes ≤ 65536 &&
  o.doff + o.rows * o.rowbytes ≤ r.loadAlloc && (!o.recrow || o.rows ≤ 32) && (r.fmt != 1 || (!o.recrow && !o.keyoff)) &&
  (!o.slot || bitsOf o.addr 0 16 < nslot)

/-- R16, R19: a successor entry. -/
def succOk (e : Word) (nproto nslot : Nat) : Bool :=
  let inst := trefInst e
  let k := bitsOf e 37 15
  if inst == 0 then k < nproto else if inst == 0xFFFFFFFF then k < nslot else true

/-- R25, R361: the fields of a binding. -/
def bindOk (b : List Byte) : Bool :=
  let slots := leAt b 2 1
  let pch := leAt b 3 1
  leAt b 0 1 < 8 && leAt b 1 1 ≤ 1 && slots ≤ 64 && (if slots == 0 then pch < 64 && pch / 8 % 2 == 0 else pch < 8) &&
  (leAt b 4 2 != 0xFFFE || (leAt b 1 1 == 1 && 1 ≤ slots))

def opposite (d : Nat) : Nat := if d == 0 then 1 else if d == 1 then 0 else if d == 2 then 3 else 2

/-- R26: a zero-slot binding pairs within its record. -/
def zeroPairs (l : List Bind) (b : Bind) : Bool :=
  l.any (fun c => c.ch == b.pch && c.slots == 0 && c.send != b.send && c.dirn == opposite b.dirn && c.pch == b.ch)

/-- R26: a binding with slots pairs with its peer's. -/
def slotPairs (ps : List Proto) (i : Nat) (b : Bind) : Bool :=
  match ps[i]?, ps[b.peer]? with
  | some x, some y => x.r.streamlink && y.r.streamlink &&
      (y.chans.map bindOf).any (fun c => c.ch == b.pch && c.slots == b.slots && c.send != b.send && c.pch == b.ch && c.peer == i)
  | _, _ => false

/-- R26: a directed cycle of channel ends. Every tile of a camp has the same bindings, and a receive end leads to every send end of its
tile, so there is a cycle just where sends go both ways along a camp dimension of two tiles or more. A binding with slots whose peer is its own
prototype closes one too. -/
def cyclic (r : Rec) (l : List Bind) : Bool :=
  let goes (d : Nat) : Bool := l.any (fun b => b.slots == 0 && b.send && b.dirn == d)
  (2 ≤ r.cw && goes 0 && goes 1) || (2 ≤ r.ch && goes 2 && goes 3)

def Proto.ok (ps : List Proto) (i nslot version : Nat) (x : Proto) : Bool :=
  let l := x.chans.map bindOf
  x.inSects && x.die < 4 && x.r.loadOk && (version == 2 || x.r.fmt == 1) && x.ops.all (fun o => o.loadOk x.r nslot) &&
  x.succ.all (fun e => succOk e ps.length nslot) && x.chans.all bindOk &&
  l.all (fun b => if b.slots == 0 then zeroPairs l b else b.peer == 0xFFFE || (b.peer != i && slotPairs ps i b)) && !cyclic x.r l

/-- The first prototype of a template that is refused; `protos.length` when the section itself is. -/
def Tmpl.bad (t : Tmpl) (x : Sect) (version : Nat) : Option Nat :=
  if 4096 ≤ t.tid || 1024 < t.nslot || x.len < 8 + 136 * t.protos.length ||
      (List.range 4).any (fun d => 32768 < (t.protos.filter (fun p => p.die == d)).length) then some t.protos.length
  else (indexed t.protos).find? (fun p => !(p.2.ok t.protos p.1 t.nslot version)) |>.map (·.1)

/-! ## LOAD and UNLOAD (17: R367, R368) -/

/-- Copy the code and data sections; the bytes already copied stay written. -/
def State.copySects (s : State) (core p : Nat) (b : List Byte) : List Sect → State × Option Word
  | [] => (s, none)
  | x :: r =>
    if x.kind == 1 || x.kind == 2 then
      match s.pitchWrite core p ⟨false, true, x.kind == 1⟩ (BitVec.ofNat 64 x.vaddr) ((b.drop x.off).take x.len) with
      | .error a => (s, some a)
      | .ok s => s.copySects core p b r
    else s.copySects core p b r

/-- `LOAD` by a service core: status, result, state. -/
def State.loadImage (s : State) (core p : Nat) (addr : Word) (len : Nat) : Nat × Word × State :=
  match s.pitchRead (core / 4) p addr len with
  | .error a => (3, a, s)
  | .ok (b, s) =>
    match imageSects b len with
    | .error i => (5, BitVec.ofNat 64 (i * 2 ^ 32), s)
    | .ok l =>
      let x := s.pitch p
      if (x.pctl.getLsbD 12 || leAt b 0x18 8 != 0) && !imageSigned x.keys b then (6, 0, s)
      else
        let ts := ((indexed l).filter (fun q => q.2.kind == 3)).map (fun q => (q.1, q.2, tmplOf b l p q.2))
        match ts.findSome? (fun t => (t.2.2.bad t.2.1 (leAt b 4 2)).map (fun i => (t.1, i))) with
        | some (j, i) => (5, BitVec.ofNat 64 (j * 2 ^ 32 + i), s)
        | none =>
          let ids := ts.map (fun t => t.2.2.tid)
          if ids.eraseDups.length != ids.length || ids.any (fun t => (Tbl.find s.templates t).isSome) then (4, 0, s)
          else match s.copySects core p b l with
            | (s, some a) => (3, a, s)
            | (s, none) =>
              let put (s : State) (t : Tmpl) : State :=
                let v : Template := ⟨BitVec.ofNat 12 p, t.nslot, t.protos.map (fun q => (q.die, q.r))⟩
                { s with templates := Tbl.put s.templates t.tid v }
              let s := (ts.map (·.2.2)).foldl put s
              (0, 0, s.updPitch p (fun x => { x with meas := extend x.meas b }))

/-- `UNLOAD`. -/
def State.unload (s : State) (p tid : Nat) : Nat × Word × State :=
  match Tbl.find s.templates tid with
  | none => (9, 0, s)
  | some t =>
    if t.ptag.toNat != p then (9, 0, s)
    else if s.insts.any (fun e => e.2.tid.toNat == tid) then (4, 0, s)
    else (0, 0, { s with templates := Tbl.del s.templates tid })

/-- The prototype and channel of a handler entry name an ingress end of its template (17: R361). -/
def State.ingressEnd (s : State) (h : Word) : Bool :=
  match Tbl.find s.templates (bitsOf h 40 12) with
  | none => false
  | some t => match t.protos[bitsOf h 25 15]? with
    | none => false
    | some q => (q.2.binds.map bindOf).any (fun b => b.ch == bitsOf h 22 3 && b.peer == 0xFFFE)

end Sys2Proof.Machine
end

