-- ==== Sys2Proof/Machine/Ingress.lean ====
section
/-! DEFINITION. Ingress.lean: ingress ports: headers, handler entries, instances that a stream starts, its tokens (17: R359-R363). -/

namespace Sys2Proof.Machine

/-- The owner of a port, and whether it is enabled (17: R354 `PORTCTL`). -/
def Ingress.owner (x : Ingress) : Nat := bitsOf x.ctl 16 12
def Ingress.enabled (x : Ingress) : Bool := x.ctl.getLsbD 0

def hdrBytes (h : BitVec 1024) : List Byte := bytesLE h.toNat 128
def hdrNum (h : BitVec 1024) : Nat := bitsOf h 0 16
def hdrStream (h : BitVec 1024) : Nat := bitsOf h 32 32
def hdrParams (h : BitVec 1024) : Word := BitVec.ofNat 64 (bitsOf h 64 64)
def hdrSlot (h : BitVec 1024) (i : Nat) : Nat := bitsOf h (128 + 64 * i) 64

/-- Fields of `HENT0` (17: R361). -/
def hentPtag (e : Word) : Nat := bitsOf e 52 12
def hentTid (e : Word) : Nat := bitsOf e 40 12
def hentProto (e : Word) : Nat := bitsOf e 25 15
def hentCh (e : Word) : Nat := bitsOf e 22 3
def hentBind (e : Word) (i : Nat) : Bool := e.getLsbD (2 + i)
def hentState (e : Word) : Nat := bitsOf e 0 2

/-- The service core a port is bound to (17: R359), and the die that port's accesses are translated on. -/
def portCore (port : Nat) : Nat := port / 4
def portDie (port : Nat) : Nat := port / 16

/-- The header in front is done with: its stream is `o`, or discarded. -/
def State.endHeader (s : State) (port : Nat) (o : Option (Nat × Nat)) : State :=
  s.updIngress port (fun x => { x with st := .idle, streams := x.streams ++ [o] })

/-- An entry of the unclaimed ring of a pitch (17: R354 `PUNCL`). Where the ring is not written, the drop is counted; when it is full is
not stated, and a free choice. -/
def State.unclaimedEntry (s : State) (die p : Nat) (h : BitVec 1024) : State :=
  let x := s.pitch p
  let n := bitsOf x.puncln 0 8
  let drop := s.updPitch p (fun x => { x with puncln := setBits x.puncln 8 48 (bitsOf x.puncln 8 48 + 1) })
  if s.freeBit 5 then drop
  else match s.wrAsPitch die p (offOf x.puncl + 128 * n) (hdrBytes h) with
    | some s => s.updPitch p (fun x => { x with puncln := setBits x.puncln 0 8 (n + 1) })
    | none => drop

/-- An unclaimed header (17: R362). -/
def State.unclaimed (s : State) (port : Nat) (h : BitVec 1024) : State :=
  let p := (s.ingressOf port).owner
  ((s.unclaimedEntry (portDie port) p h).coreEvent (portCore port) 0x10 p
    (bytesLE port 2 ++ bytesLE (hdrNum h) 2 ++ bytesLE (hdrStream h) 4)).endHeader port none

/-- The header waits in state `st`; its time runs from now when the state is new. -/
def State.holdHeader (s : State) (port : Nat) (st : PortState) (h : BitVec 1024) (e : Word) : State :=
  s.updIngress port (fun x => { x with st := st, hdr := h, ent := e, since := if x.st == st then x.since else s.cycle })

/-- The slots that the header binds. -/
def State.bindSlots (s : State) (die p : Nat) (tbl : Word) (h : BitVec 1024) (e : Word) (n : Nat) : State :=
  ((List.range 14).filter (fun i => hentBind e i && i < n)).foldl (fun s i =>
    (s.wrAsPitch die p (offOf tbl + 8 * i) (bytesLE (hdrSlot h i) 8)).getD s) s

/-- The slot table zeroed, when the instance can be made (13: R328); `none` when a store faults. -/
def State.zeroSlots (s : State) (die p n : Nat) (tbl : Word) : Option State :=
  if n == 0 then some s else s.wrAsPitch die p (offOf tbl) (List.replicate (8 * n) 0)

/-- The port instantiates as the entry's pitch: zeroed slot table, `TINST`, slots, `PARAMS`, channel; the seal follows (17: R362). -/
def State.portStart (s : State) (port : Nat) (h : BitVec 1024) (e : Word) : State :=
  let p := hentPtag e
  let die := portDie port
  let tbl := (s.ingressOf port).slot
  match s.templateFor p (hentTid e) with
  | none =>
    if (s.ingressOf port).st == .absent then s
    else (s.coreEvent (portCore port) 0x11 p (bytesLE (hentTid e) 2)).holdHeader port .absent h e
  | some t =>
    let (x, st, inst, rks) := s.instantiate p (hentTid e) tbl
    if st != 0 then x.holdHeader port .full h e
    else match s.zeroSlots die p t.nslots tbl with
      | none => s.unclaimed port h
      | some s =>
        let s := { s with instCtr := x.instCtr, insts := x.insts, recs := x.recs }
        let s := s.bindSlots die p tbl h e t.nslots
        let rk := rks[hentProto e]?
        let s := match rk with
          | none => s
          | some rk =>
            let s := if hdrParams h == 0 then s else s.updRec rk (fun r => { r with params := hdrParams h })
            let slots := (((s.recOf rk).binds.map bindOf).find? (fun (b : Machine.Bind) => b.ch == hentCh e)).map Machine.Bind.slots
            { s with chans := Tbl.put s.chans (ingressKey rk 0 0 (hentCh e)) { Chan.empty with slots := slots.getD 0, port := some port } }
        s.holdHeader port (.sealing inst (rk.map (fun rk => (rk, hentCh e)))) h e

/-- The port takes up a header, and reads its handler entry (17: R362). While the owner is ENDING it is dropped (17: R356). -/
def State.takeUp (s : State) (port : Nat) (h : BitVec 1024) : State :=
  let x := s.ingressOf port
  let e := if hdrNum h < 4096 then s.handler (hdrNum h) else (0, 0)
  if s.pstate x.owner == 2 then s.endHeader port none
  else if hentState e.1 == 2 then s.holdHeader port .held h e.1
  else if hentState e.1 != 1 || hentPtag e.1 != x.owner || !e.2.getLsbD port then s.unclaimed port h
  else s.portStart port h e.1

/-- An event that this port raised is held at it, which stalls it (17: R355): an `UNCLAIMED`, which names it, or the `TEMPLATE_ABSENT` of the
header that stands at it, of the pitch, template and cycle of that header's wait. -/
def State.portStalled (s : State) (port : Nat) : Bool :=
  let x := s.ingressOf port
  (s.coreRegs (portCore port)).held.any (fun e =>
    (leAt e 0 2 == 0x10 && leAt e 0x10 2 == port) ||
    (x.st == .absent && leAt e 0 2 == 0x11 && leAt e 2 2 == hentPtag x.ent && leAt e 8 8 == x.since.toNat && leAt e 0x10 2 == hentTid x.ent))

/-- `INGRESS_HEADER`: taken up in the cycle of arrival, or kept while an earlier header waits; while the owner is ENDING it is dropped
(17: R356). -/
def execIngressHeader (port : Nat) (hdr : BitVec 1024) (s : State) : Out :=
  let x := s.ingressOf port
  if 64 ≤ port || !x.enabled then .next s
  else if s.pstate x.owner == 2 then .next (s.endHeader port none)
  else if x.st == .idle && x.waiting.isNone && !s.portStalled port then .next (s.takeUp port hdr)
  else if x.waiting.isNone then .next (s.updIngress port (fun x => { x with waiting := some hdr }))
  else .next s

/-- A header in front that has waited its time, still in state `st`, is unclaimed. -/
def State.portLimit (s : State) (port : Nat) (st : PortState) (n : Nat) : State :=
  let x := s.ingressOf port
  if x.st == st && x.since.toNat + n ≤ s.cycle.toNat then s.unclaimed port x.hdr else s

/-- A cycle of a port: a held header reads its entry again, one for an absent template or a full table tries again, and each is unclaimed at
its limit; an instance is sealed, after a time that a free bit ends (log 1); and a second header is taken up in the cycle after that. -/
def State.portCycle (s : State) (port : Nat) : State :=
  let x := s.ingressOf port
  if s.portStalled port then s
  else match x.st with
    | .held => (s.takeUp port x.hdr).portLimit port .held 4096
    | .absent => (s.portStart port x.hdr x.ent).portLimit port .absent (2 ^ 20)
    | .full => (s.portStart port x.hdr x.ent).portLimit port .full (2 ^ 20)
    | .sealing inst o => if s.freeBit (2 ^ 72 + port) then (s.sealNow inst).endHeader port o else s
    | .idle => match x.waiting with
      | some h => (s.updIngress port (fun x => { x with waiting := none })).takeUp port h
      | none => s

/-- The channel that a port's oldest stream goes to. -/
def Ingress.target (x : Ingress) : Option Nat :=
  match x.streams with
  | some (rk, ch) :: _ => some (ingressKey rk 0 0 ch)
  | _ => none

/-- `INGRESS_TOKEN`: to the stream's channel when it has room, the port's credit; of a discarded stream, nowhere. The end token ends
the stream. -/
def execIngressToken (port : Nat) (tok : Token) (s : State) : Out :=
  let x := s.ingressOf port
  if 64 ≤ port || !x.enabled || x.streams.isEmpty || s.portStalled port then .next s
  else
    let pop (s : State) : State := if tok == .fin then s.updIngress port (fun x => { x with streams := x.streams.drop 1 }) else s
    match x.target.bind (fun k => (Tbl.find s.chans k).map (fun c => (k, c))) with
    | none => .next (pop s)
    | some (k, c) => if c.room 1 then .next (pop (s.chanPut k tok)) else .next s

def execHeaderHoldTimeout (port : Nat) (s : State) : Out := .next (s.portLimit port .held 4096)
def execTemplateAbsent (port : Nat) (s : State) : Out := .next (s.portLimit port .absent (2 ^ 20))
def execIngressTinstTimeout (port : Nat) (s : State) : Out := .next (s.portLimit port .full (2 ^ 20))

end Sys2Proof.Machine
end

