-- ==== Sys2Proof/Machine/Host.lean ====
section
/-! DEFINITION. Host.lean: host queues and their requests (17: R348-R352, R356-R358, R363, R367, R368, R371, R372; 01: R29, R52; 06:
R160, R162). -/

namespace Sys2Proof.Machine

/-! ## Doorbell and head index (17: R348) -/

def execDoorbell (q : Nat) (tail : BitVec 32) (s : State) : Out :=
  let x := s.queue q
  if x.opened then .next ((s.updQueue q (fun x => { x with tail := tail.toNat % max 1 x.count })).wakeIdle x.core) else .next s

/-- `HEAD_INDEX_READ`: the read returns the queue's head index to the host. It acquires the completions below that index at `POD` scope: each
was a release of its core, and a completion is written in host memory for all to see. -/
def execHeadIndexRead (q : Nat) (s : State) : Out :=
  let x := s.queue q
  .next (if x.opened then s.emit ⟨11, s.pkg.toNat, x.owner, [BitVec.ofNat 64 q, BitVec.ofNat 64 x.head]⟩ else s)

/-! ## Requests by step (17: R350) -/

inductive ReqKind where
  | read | write | load | unload | launch | pcreate | pset | pend | gcreate | gfree | hset | pin | join | quote | power
  | queueCreate | queueDestroy | redispatch | abandon | tile | reserved
  deriving DecidableEq, Repr

/-- What a request asks for. -/
def Req.kind (r : Req) : ReqKind :=
  match r.opc with
  | 0x01 => .read
  | 0x02 => .write
  | 0x03 => .load
  | 0x04 => .unload
  | 0x05 => .launch
  | 0x06 => .pcreate
  | 0x07 => .pset
  | 0x08 => .pend
  | 0x09 => .gcreate
  | 0x0A => .gfree
  | 0x0B => .hset
  | 0x0C => .pin
  | 0x0D => .join
  | 0x0E => .quote
  | 0x0F => .power
  | 0x10 => if bitsOf r.arg0 62 2 == 1 then .queueCreate else if bitsOf r.arg0 62 2 == 2 then .queueDestroy else .reserved
  | 0x11 => if r.arg1 == 0 then .redispatch else if r.arg1 == 1 then .abandon else .reserved
  | 0x12 => .tile
  | _ => .reserved

/-- Rights "Own, zero"; every other request is of pitch-0 queues only. -/
def ReqKind.own (k : ReqKind) : Bool :=
  match k with
  | .read | .write | .load | .unload | .launch | .quote | .redispatch | .abandon => true
  | _ => false

/-- Requests that act on a pitch, which must be ACTIVE (17: R351). -/
def ReqKind.onPitch (k : ReqKind) : Bool := k.own || k == .pset || k == .join

/-- Status, result and state of a request. -/
abbrev Served := Nat × Word × State

def ok0 (s : State) : Served := (0, 0, s)
def fail (n : Nat) (s : State) : Served := (n, 0, s)

/-! ## READ, WRITE (17: R350, R370) -/

/-- Byte `k` of physical memory, where the core finds `b`, as a host `READ` sees it: the journal's window shows the journal, a ring of 8,192
records. -/
def JRec.bytes (j : JRec) : List Byte :=
  padTo 32 (bytesLE j.bootno.toNat 4 ++ bytesLE j.step.toNat 1 ++ bytesLE j.phase.toNat 1 ++ bytesLE j.detail.toNat 2 ++ bytesLE j.cycle.toNat 8)

def State.hostByte (s : State) (k : Nat) (b : Byte) : Byte :=
  let o := k - Config.journalWindow
  if Config.journalWindow ≤ k && o < 0x40000 then
    let age := (s.jcount + 8191 - o / 32) % 8192
    match s.journal[age]? with
    | some j => j.bytes.getD (o % 32) 0
    | none => 0
  else b

/-- In recovery, where no tables stand, the flash and the journal windows are reached at their physical addresses (DESIGN CHOICE, log 34). -/
def State.recoveryRange (s : State) (r : Req) : Bool :=
  let va := r.addr.toNat
  s.recovery && ((Config.flashWindow ≤ va && va + r.len ≤ Config.flashWindow + Config.flashBytes) ||
    (Config.journalWindow ≤ va && va + r.len ≤ Config.journalWindow + 0x40000))

/-- `hb` is where the requesting host's memory stands. -/
def State.hostRead (s : State) (die hb : Nat) (r : Req) : Served :=
  if 2 ^ 32 < r.len then fail 1 s
  else if s.recoveryRange r then ok0 (s.wrBytes (hb + r.haddr.toNat) ((List.range r.len).map (fun i => s.hostByte (r.addr.toNat + i) (s.byte (r.addr.toNat + i)))))
  else match s.pitchKeys die r.ptag .load r.addr r.len with
    | .error a => (3, a, s)
    | .ok (ks, ps) =>
      let (b, s) := (s.touch false ps).readAs (coreReader die) 5 ks
      ok0 (s.wrBytes (hb + r.haddr.toNat) ((ks.zip b).map (fun x => s.hostByte x.1 x.2)))

def State.hostWrite (s : State) (core hb : Nat) (r : Req) : Served :=
  if s.recoveryRange r then ok0 (s.wrBytes r.addr.toNat (s.rdBytes (hb + r.haddr.toNat) r.len))
  else match s.pitchWrite core r.ptag .store r.addr (s.rdBytes (hb + r.haddr.toNat) r.len) with
  | .error a => (3, a, s)
  | .ok s' => ok0 (s'.epochWritten s.rtepoch)

/-! ## LAUNCH (17: R350) -/

def State.hostLaunch (s : State) (r : Req) : Served :=
  let (s, st, inst, _) := s.instantiate r.ptag (bitsOf r.arg0 0 16) r.addr
  if st == 1 then fail 7 s else if st == 2 then fail 9 s else (0, BitVec.ofNat 64 inst, s.sealNow inst)

/-! ## Pitches (17: R356; 20: R401, R406) -/

def State.hostPcreate (s : State) (r : Req) : Served :=
  if r.ptag == 0 then fail 2 s
  else if s.pstate r.ptag != 0 then fail 4 s
  else if r.addr.toNat % 8192 != 0 then fail 1 s
  else ok0 ((s.freshKey r.ptag).updPitch r.ptag (fun _ => { Pitch.empty with proot := r.addr, pctl := BitVec.ofNat 64 (bitsOf r.arg0 2 11 * 4 + 1) }))

/-- `PSET`: the write takes effect at the end of the cycle (17: R354); a key block is read at once (17: R365). -/
def State.hostPset (s : State) (core : Nat) (r : Req) : Served :=
  let n := r.arg0.toNat
  if !pitchRegs.contains n || (n == 0x111 && r.arg1.toNat % 8192 != 0) then fail 1 s
  else if n == 0x124 && r.arg1 != 0 then
    match s.readKey (core / 4) r.arg1 with
    | (.error (st, a), s) => (st, a, s)
    | (.ok b, s) => ok0 (s.queueReg core (.key r.ptag r.arg1 b))
  else ok0 (s.queueReg core (.pset r.ptag n r.arg1))

/-- What the other modules of a group write on their nodes: its id, the root's entry (zero where it is freed), the endpoint and the members
(log 33). -/
def State.groupMsgs (s : State) (gid : Nat) (g : Group) (w : Word) : State :=
  let ms := g.members.map (fun m => BitVec.ofNat 64 (m.2 * 1024 + m.1))
  (((g.members.map (·.2)).eraseDups).filter (· != s.pkg.toNat)).foldl (fun s p =>
    s.trySend 1024 ⟨13, p, g.ptag, [BitVec.ofNat 64 gid, w, g.endp.setWidth 64] ++ ms⟩) s

/-- A group is freed on every node of this module (06: R162); what its nodes hold of a chunk goes. -/
def State.clearGroup (s : State) (gid : Nat) : State :=
  let s := s.dropParts gid
  let ns := (List.range 85).filter (fun n => entValid (s.trussEntry n gid))
  let s := ns.foldl (fun (s : State) n =>
    let e := s.trussEntry n gid
    { s with truss := Tbl.put s.truss (n * 1024 + gid) (setBits (setBits e 48 4 ((entGen e).toNat + 1)) 0 1 0) }) s
  match Tbl.find s.groups gid with
  | some g => { s with groups := Tbl.put s.groups gid { g with freed := some s.cycle } }
  | none => s

/-- It is freed, and its other modules hear of it. -/
def State.freeGroup (s : State) (gid : Nat) : State :=
  ((Tbl.find s.groups gid).elim s (fun g => s.groupMsgs gid g 0)).clearGroup gid

/-- What a pitch has in the module's tables goes: templates, handlers, groups, joins, ports, whose last headers are dropped with it, and counting
barriers (17: R356). -/
def State.freePitch (s : State) (p : Nat) : State :=
  let s := s.discardStreams p
  let s := ((s.groups.filter (fun g => g.2.freed.isNone && g.2.ptag.toNat == p)).map (·.1)).foldl State.freeGroup s
  let bars := (s.cbars.filter (fun b => ((s.pitch p).pcbar.getD (b.1 / 64) 0).getLsbD (b.1 % 64))).map (·.1)
  let s : State := { s with
    templates := s.templates.filter (fun t => t.2.ptag.toNat != p),
    handlers := s.handlers.filter (fun h => hentPtag h.2.1 != p),
    joins := s.joins.filter (fun j => j.ptag.toNat != p),
    ingress := s.ingress.map (fun x => if x.2.owner == p then (x.1, { x.2 with ctl := 0 }) else x),
    cbars := s.cbars.filter (fun b => !bars.contains b.1) }
  s.updPitch p (fun x => { x with pctl := 0, pcbar := Vector.replicate 4 0, key := 0, keys := [] })

def State.hostPend (s : State) (r : Req) : Served :=
  if r.ptag == 0 || !(s.pstate r.ptag == 1 || s.pstate r.ptag == 2) then fail 2 s
  else ok0 ((s.endPitch r.ptag ⟨0, 0xFFFF, 0, 0⟩).freePitch r.ptag)

/-! ## Truss groups (17: R358; 06: R159, R160) -/

/-- The tile is in a camp of a pitch that the tag admits (06: R159; 20: R402). -/
def State.inCampOf (s : State) (tag tile : Nat) : Bool :=
  s.recs.any (fun r => s.tagAdmits tag r.2.ptag.toNat && r.2.invs.any (fun i => i.2.tiles.contains tile && i.2.st != .finished && i.2.st != .lost && i.2.st != .saved))

/-- A member tile is closed, reserved to another pitch (17: R358), or outside the camps of the tag's pitches (06: R159). What another module
holds of its tiles is not known here: its answer is free (log 33). -/
def State.memberBad (s : State) (tag : Nat) (m : Nat × Nat) : Bool :=
  let t := s.tile m.1
  if m.2 != s.pkg.toNat then s.freeBit (2 ^ 73 + m.2 * 1024 + m.1)
  else 2 ≤ t.rmode.toNat || (t.rmode == 1 && !s.tagAdmits tag t.rptag.toNat) || !s.inCampOf tag m.1

/-- Nodes of this module over a set of tiles, the module root among them. -/
def groupNodes (ts : List Nat) : List Nat := (84 :: ts.flatMap (fun t => [clusterNode t, quadNode t, rootNode t])).eraseDups

/-- `CHILD` of a node over those tiles. -/
def groupChild (ts : List Nat) (n : Nat) : Nat :=
  let below := (ts.map (1000 + ·) ++ groupNodes ts).filter (fun m => m != 84 && nodeParent m == n)
  ((below.map childNo).eraseDups.map (fun i => 2 ^ i)).sum

/-- The entry of a node. -/
def groupWord (tag op : Nat) (gen : BitVec 4) (ts : List Nat) (n : Nat) : Word :=
  BitVec.ofNat 64 (tag * 2 ^ 52 + gen.toNat * 2 ^ 48 + op * 2 ^ 44 + groupChild ts n * 2 ^ 16 + 1)

/-- The tiles of this module among the members of a group. -/
def State.groupTiles (s : State) (ms : List (Nat × Nat)) : List Nat := ((ms.filter (fun m => m.2 == s.pkg.toNat)).map (·.1)).eraseDups

/-- Entries from the root down, then `ALTPAR`, on this module's nodes. Nothing is left of an earlier group of the id. -/
def State.putGroup (s : State) (gid tag op : Nat) (gen : BitVec 4) (endp : BitVec 10) (ms : List (Nat × Nat)) : State :=
  let ts := s.groupTiles ms
  let s := (groupNodes ts).foldl (fun (s : State) n => { s with truss := Tbl.put s.truss (n * 1024 + gid) (groupWord tag op gen ts n) }) s
  ({ s.dropParts gid with groups := Tbl.put s.groups gid ⟨BitVec.ofNat 12 tag, endp, ms, none, []⟩ }).writeAlts gid

/-- A group is made here; its other modules hear of it, and write theirs with the same generation. -/
def State.makeGroup (s : State) (gid tag op : Nat) (endp : BitVec 10) (ms : List (Nat × Nat)) : State :=
  let gen := entGen (s.trussEntry 84 gid)
  (s.putGroup gid tag op gen endp ms).groupMsgs gid ⟨BitVec.ofNat 12 tag, endp, ms, none, []⟩ (groupWord tag op gen (s.groupTiles ms) 84)

/-- Another module's Casquin makes or frees a group that has members here (06: R159; 17: R358). -/
def State.groupMsg (s : State) (gid tag op : Nat) (gen : BitVec 4) (endp : BitVec 10) (ms : List (Nat × Nat)) (on : Bool) : State :=
  if on then s.putGroup gid tag op gen endp ms else s.clearGroup gid

def State.hostGcreate (s : State) (die : Nat) (r : Req) : Served :=
  let gid := bitsOf r.arg0 0 10
  let op := bitsOf r.arg0 10 4
  match s.pitchRead die r.ptag r.addr 4 with
  | .error a => (3, a, s)
  | .ok (b, s) =>
    let n := natOfBytes b
    if n == 0 || 2 ^ 20 < n then fail 1 s
    else match s.pitchRead die r.ptag (r.addr + 4) (4 * n) with
      | .error a => (3, a, s)
      | .ok (l, s) =>
        let ms := (split16 4 l n).map (fun e => (natOfBytes e % 1024, natOfBytes e / 1024 % 1024))
        let busy := match Tbl.find s.groups gid with
          | none => false
          | some g => match g.freed with
            | none => true
            | some c => s.cycle.toNat < c.toNat + 2 ^ 20
        if ms.any (s.memberBad r.ptag) then fail 2 s
        else if 8 ≤ op then fail 1 s
        else if busy then fail 4 s
        else ok0 (s.makeGroup gid r.ptag op (BitVec.ofNat 10 (bitsOf r.arg0 14 10)) ms)

def State.hostGfree (s : State) (r : Req) : Served :=
  let gid := bitsOf r.arg0 0 10
  match Tbl.find s.groups gid with
  | some g => if g.freed.isNone then ok0 (s.freeGroup gid) else fail 9 s
  | none => fail 9 s

/-! ## Handlers, pins, joins (17: R358, R363) -/

/-- `HSET`: its three writes take effect at the end of the cycle. -/
def State.hostHset (s : State) (core : Nat) (r : Req) : Served :=
  let e := r.arg1 &&& ~~~0x3F0003#64
  if !s.ingressEnd e then fail 5 s else ok0 (s.queueReg core (.hset (bitsOf r.arg0 0 12) e r.addr))

def State.hostPin (s : State) (r : Req) : Served :=
  let g := r.arg0.toNat / 0x10000000
  if r.arg0.toNat % 0x10000000 != 0 || 2 ≤ r.arg1.toNat then fail 1 s
  else if r.arg1 == 0 then ok0 { s with pins := s.pins.filter (fun x => x.1 != g) }
  else if s.pins.any (fun x => x.1 == g) then ok0 s
  else if 60 ≤ s.pins.length || s.badGrans.contains g then fail 7 s
  else ok0 { s with pins := s.pins ++ [(g, BitVec.ofNat 12 r.ptag)] }

def State.hostJoin (s : State) (r : Req) : Served :=
  let j : Join := ⟨BitVec.ofNat 10 (bitsOf r.arg0 0 10), BitVec.ofNat 12 (bitsOf r.arg0 16 12), BitVec.ofNat 12 r.ptag⟩
  let rest := s.joins.filter (fun x => !(x.pkg == j.pkg && x.pitch == j.pitch))
  if r.arg1 == 0 then ok0 { s with joins := rest }
  else if 16384 ≤ rest.length then fail 7 s
  else ok0 { s with joins := rest ++ [j] }

/-! ## QUOTE and POWER (17: R371, R372) -/

def State.quoteBytes (s : State) (r : Req) : List Byte :=
  let b := bytesLE 1 4 ++ bytesLE s.pkg.toNat 2 ++ bytesLE s.incarnation.toNat 1 ++ [0] ++ bytesLE s.cycle.toNat 8 ++
    bytesLE r.arg0.toNat 8 ++ bytesLE r.arg1.toNat 8 ++ chainBytes s.modChain ++ bytesLE r.ptag 2 ++ bytesLE 0 6 ++
    chainBytes (s.pitch r.ptag).meas
  b ++ padTo 5139 ((Config.sign (sha512 b)).take 5139)

def State.hostQuote (s : State) (hb : Nat) (r : Req) : Served := ok0 (s.wrBytes (hb + r.haddr.toNat) (s.quoteBytes r))

/-- A change of the power state, with its event. The codes of the reason are not stated. -/
def State.setPower (s : State) (p : BitVec 2) : State :=
  if p == s.power then s
  else { s with power := p }.coreEvent 0 0x12 0 (bytesLE s.power.toNat 1 ++ bytesLE p.toNat 1 ++ bytesLE (bitsOf (s.free 7) 0 8) 1)

def State.hostPower (s : State) (r : Req) : Served :=
  let cap := r.arg1.toNat
  if 3 ≤ r.arg0.toNat || (cap != 0 && (cap < 1000 || 4000 < cap)) then fail 1 s
  else
    let p := BitVec.ofNat 2 r.arg0.toNat
    ok0 { s.setPower p with powerReq := p, cap := cap, capSince := s.cycle }

/-- A `POWER_CHANGE` event is held: whatever changes the state next waits (17: R355). -/
def State.powerStalled (s : State) : Bool := (s.coreRegs 0).held.any (fun e => leAt e 0 2 == 0x12)

/-- `POWER_CAP_LOWER`: the module draws more than the cap; the time below it begins anew. -/
def execPowerCapLower (s : State) : Out :=
  if s.cap == 0 then .next s
  else .next { (if 2 ≤ s.power.toNat || s.powerStalled then s else s.setPower (s.power + 1)) with capSince := s.cycle }

/-- `POWER_CAP_RAISE`: the draw has stayed below the cap for 120,000 cycles; never above the state that was asked for. -/
def execPowerCapRaise (s : State) : Out :=
  if s.cap == 0 || s.powerStalled || s.power.toNat ≤ s.powerReq.toNat || s.cycle.toNat < s.capSince.toNat + 120000 then .next s
  else .next { s.setPower (s.power - 1) with capSince := s.cycle }

/-- `COLD_PLATE_LIMIT`: the next lower state. -/
def execColdPlateLimit (s : State) : Out := if 2 ≤ s.power.toNat || s.powerStalled then .next s else .next (s.setPower (s.power + 1))

/-! ## Queues, records and tiles (17: R348, R350, R357; 01: R29, R52) -/

def isPow2 (n : Nat) : Bool := (List.range 17).any (fun i => n == 2 ^ i)

def State.hostQueueCreate (s : State) (r : Req) : Served :=
  let q := bitsOf r.arg0 0 6
  if !isPow2 r.len || r.len < 64 then fail 1 s
  else if (s.queue q).opened then fail 4 s
  else
    let x : HostQ := { opened := true, owner := BitVec.ofNat 12 (bitsOf r.arg0 16 12), core := bitsOf r.arg0 6 4, req := r.addr,
                       comp := r.haddr, count := r.len, tail := 0, head := 0, compAt := 0 }
    ok0 (s.updQueue q (fun _ => x))

/-- A destroyed queue keeps its ring for the completion of this request. Queue 0 always exists. -/
def State.hostQueueDestroy (s : State) (r : Req) : Served :=
  let q := bitsOf r.arg0 0 6
  if q == 0 then fail 4 s
  else if (s.queue q).opened then ok0 (s.updQueue q (fun x => { x with opened := false })) else fail 9 s

/-- The record of a tref that a pitch may name: its own, or any for pitch 0. -/
def State.hostRec (s : State) (r : Req) : Option Nat :=
  let rk := trefKey r.arg0
  let x := s.recOf rk
  if trefPkg r.arg0 != s.pkg.toNat || x.st == .free || x.inst.toNat != trefInst r.arg0 || (r.ptag != 0 && x.ptag.toNat != r.ptag) then none
  else some rk

/-- `PARTIAL` with `ARG1` = 0 (01: R52). The rule says only that it is refused for a record that is not PARTIAL: the status is BUSY, and NOTFOUND
for a tref that names no record of the pitch (DESIGN CHOICE, log 24). -/
def State.hostRedispatch (s : State) (r : Req) : Served :=
  match s.hostRec r with
  | none => fail 9 s
  | some rk => if (s.recOf rk).st != .partialRet then fail 4 s else ok0 (s.redispatch rk)

/-- `PARTIAL` with `ARG1` = 1 (01: R29). -/
def State.hostAbandon (s : State) (r : Req) : Served :=
  match s.hostRec r with
  | none => fail 9 s
  | some rk => if (s.recOf rk).st != .partialRet then fail 4 s else ok0 (s.taskFailed rk)

/-- `TILE` (17: R357). -/
def State.hostTile (s : State) (r : Req) : Served :=
  let t := bitsOf r.arg0 0 10
  let v := r.arg1
  ok0 (s.updTile t (fun x => { x with
    rptag := BitVec.ofNat 12 (bitsOf v 16 12), rmode := BitVec.ofNat 2 (min 2 (bitsOf v 1 2)), insvc := v.getLsbD 0 && !s.badTiles.contains t }))

/-! ## Serving a request (17: R349-R352) -/

/-- The effect of a request at the module it names, by service core `n`, for a host whose memory stands at `hb`. -/
def State.request (s : State) (n hb : Nat) (r : Req) : Served :=
  let k := r.kind
  let die := n / 4
  if !r.clean || k == .reserved then fail 1 s
  else if s.pstate r.ptag == 2 && k != .pend then fail 2 s
  else if (k.onPitch && s.pstate r.ptag != 1) || (k == .gcreate && s.pstate r.ptag != 1 && s.pstate r.ptag != 3) then fail 2 s
  else match k with
    | .read => s.hostRead die hb r
    | .write => s.hostWrite n hb r
    | .load => s.loadImage n r.ptag r.addr r.len
    | .unload => s.unload r.ptag (bitsOf r.arg0 0 16)
    | .launch => s.hostLaunch r
    | .pcreate => s.hostPcreate r
    | .pset => s.hostPset n r
    | .pend => s.hostPend r
    | .gcreate => s.hostGcreate die r
    | .gfree => s.hostGfree r
    | .hset => s.hostHset n r
    | .pin => s.hostPin r
    | .join => s.hostJoin r
    | .quote => s.hostQuote hb r
    | .power => s.hostPower r
    | .queueCreate => s.hostQueueCreate r
    | .queueDestroy => s.hostQueueDestroy r
    | .redispatch => s.hostRedispatch r
    | .abandon => s.hostAbandon r
    | .tile => s.hostTile r
    | .reserved => fail 1 s

/-- The words of a request entry. -/
def reqWords (b : List Byte) : List Word := (split16 8 b 8).map (fun x => BitVec.ofNat 64 (natOfBytes x))

/-- The effect of a request, and the release that its completion is (03: R110). -/
def State.perform (s : State) (n hb : Nat) (r : Req) : Served :=
  let (st, res, s) := s.request n hb r
  (st, res, s.releaseBy (s.whoOf (4096 + n)) 5 true)

/-- Why a request of queue `q` is refused before its module is asked: fields, rights, recovery. -/
def State.refused (s : State) (q : Nat) (r : Req) : Option Nat :=
  let x := s.queue q
  if !r.clean || r.kind == .reserved then some 1
  else if !(x.owner == 0 || (r.kind.own && x.owner.toNat == r.ptag)) then some 2
  else if s.recovery && !(q == 0 && (r.kind == .read || r.kind == .write || r.kind == .quote)) then some 1
  else none

/-- The die of service core `n` does not reach the port through which its packets for a package go (19: R392). -/
def State.relayCut (s : State) (n pkg : Nat) : Bool := (s.portFor (1024 + n) pkg).any (s.portCut (n / 4))

/-- A request for another module goes to the core of the same number there, in a packet of this one; `none` where the package is not in the
circuit group (17: R352), or the core's die has lost its way to the port (19: R392). -/
def State.relay (s : State) (q : Nat) (r : Req) : Option State :=
  let x := s.queue q
  if s.relayCut x.core r.pkg then none
  else (s.sendPkt (1024 + x.core) ⟨8, r.pkg, BitVec.ofNat 12 r.ptag, reqWords (s.rdBytes (hostKey (x.req.toNat + 64 * x.head)) 64)⟩).map (fun s =>
    s.updCoreRegs x.core (fun c => { c with relayed := some (q, s.rtepoch) }))

/-- The request at the head of `q` is served. It completes once its effect is performed: with the register writes that it makes, at the end of
the cycle (17: R348, R351, R354). -/
def State.serveReq (s : State) (q : Nat) (r : Req) : State :=
  let n := (s.queue q).core
  match s.refused q r with
  | some st => s.complete q r st 0
  | none =>
    if r.pkg == s.pkg.toNat then
      let (st, res, s) := s.perform n (hostKey 0) r
      if (s.coreRegs n).regq.isEmpty then s.complete q r st res else s.queueReg n (.finish q st)
    else (s.relay q r).getD (s.complete q r 8 0)

/-- The step of a request of one kind: it is the queue's oldest, and the queue's turn. A change of the power state waits while the event of
the one before it is held. -/
def State.serveQ (s : State) (q : Nat) (k : ReqKind) : Out :=
  match s.reqAt q with
  | none => .next s
  | some r =>
    let n := (s.queue q).core
    if r.kind != k || s.nextQueue n != some q || (k == .power && s.powerStalled) then .next s
    else .next ((s.serveReq q r).updCoreRegs n (fun c => { c with turn := q }))

/-- A relayed request completes with what its module answers, one of the codes of 17: R351, or with UNREACHABLE when the circuit group has changed
(17: R352), or the way to it is cut (19: R392). -/
def State.answered (s : State) (n src status : Nat) (result : Word) : State :=
  match (s.coreRegs n).relayed.bind (fun x => s.reqAt x.1) with
  | some r => if r.pkg == src && status < 10 then s.endRelayed n status result else s
  | none => s
def State.checkRelay (s : State) (n : Nat) : State :=
  match (s.coreRegs n).relayed with
  | some (q, ep) => if s.rtepoch != ep || !((s.reqAt q).any (fun r => routeValid (s.route r.pkg) && !s.relayCut n r.pkg)) then s.endRelayed n 8 0 else s
  | none => s

def execRead (q : Nat) (s : State) : Out := s.serveQ q .read
def execWrite (q : Nat) (s : State) : Out := s.serveQ q .write
def execLoad (q : Nat) (s : State) : Out := s.serveQ q .load
def execUnload (q : Nat) (s : State) : Out := s.serveQ q .unload
def execLaunch (q : Nat) (s : State) : Out := s.serveQ q .launch
def execPcreate (q : Nat) (s : State) : Out := s.serveQ q .pcreate
def execPset (q : Nat) (s : State) : Out := s.serveQ q .pset
def execPend (q : Nat) (s : State) : Out := s.serveQ q .pend
def execGcreate (q : Nat) (s : State) : Out := s.serveQ q .gcreate
def execGfree (q : Nat) (s : State) : Out := s.serveQ q .gfree
def execHset (q : Nat) (s : State) : Out := s.serveQ q .hset
def execPin (q : Nat) (s : State) : Out := s.serveQ q .pin
def execJoin (q : Nat) (s : State) : Out := s.serveQ q .join
def execQuote (q : Nat) (s : State) : Out := s.serveQ q .quote
def execPower (q : Nat) (s : State) : Out := s.serveQ q .power
def execQueueCreate (q : Nat) (s : State) : Out := s.serveQ q .queueCreate
def execQueueDestroy (q : Nat) (s : State) : Out := s.serveQ q .queueDestroy
def execPartialRedispatch (q : Nat) (s : State) : Out := s.serveQ q .redispatch
def execPartialAbandon (q : Nat) (s : State) : Out := s.serveQ q .abandon
def execTile (q : Nat) (s : State) : Out := s.serveQ q .tile
def execReservedRequest (q : Nat) (s : State) : Out := s.serveQ q .reserved

/-- `RELAYED_REQUEST`: a request of another module's queue, checked there for its right, is taken at a turn boundary in its order of arrival; the
answer goes back (log 30). A module in recovery answers only its queue 0 (17: R369). -/
def execRelayedRequest (core src : Nat) (req : BitVec 512) (s : State) : Out :=
  let r := reqOf (bytesLE req.toNat 64)
  if 16 ≤ core || 1024 ≤ src || (r.kind == .power && s.powerStalled) || s.recovery || !(s.coreRegs core).regq.isEmpty then .next s
  else
    let (st, res, s) := if r.pkg != s.pkg.toNat then fail 8 s else s.perform core (hostKey (2 ^ 64 * (src + 1))) r
    .next (s.trySend (1024 + core) ⟨12, src, BitVec.ofNat 12 r.ptag, [r.tag, BitVec.ofNat 64 st, res]⟩)

end Sys2Proof.Machine
end

