-- ==== Sys2Proof/Machine/Boot.lean ====
section
/-! DEFINITION. Boot.lean: power-on and reset: the boot steps, the journal, what stands in service afterwards (17: R348, R357, R369-R371;
06: R171). -/

namespace Sys2Proof.Machine

/-! ## The journal (17: R370) -/

/-- Phase of a step in the boot `bootno`, from its newest record; codes past 3 read as 2. -/
def phaseOf (j : List JRec) (bootno : Nat) (step : Nat) : Option Nat :=
  (j.find? (fun r => r.bootno.toNat == bootno && r.step.toNat == step)).map (fun r => if 3 < r.phase.toNat then 2 else r.phase.toNat)

def left (p : Option Nat) : Bool := p == some 0 || p == some 2

/-- The last boot's number. -/
def State.lastBoot (s : State) : Nat := (s.journal.head?.map (fun r => r.bootno.toNat)).getD 0
/-- The journal as a step sees it: the alternative of step 2 empties it for the steps after it. -/
def State.journalAt (s : State) (step : Nat) : List JRec := if 2 < step && left (phaseOf s.journal s.lastBoot 2) then [] else s.journal
/-- The step takes its alternative: the last boot left it started, or failed. Steps 1 and 4 have none. -/
def State.altAt (s : State) (step : Nat) : Bool := step != 1 && step != 4 && left (phaseOf (s.journalAt step) s.lastBoot step)
/-- It says that its step failed; a code past 3 reads as 2. -/
def JRec.failed (r : JRec) : Bool := r.phase == 2 || 3 < r.phase.toNat
/-- `DETAIL` of a step's newest record, where it says that the step failed. -/
def State.detailAt (s : State) (step : Nat) : Option Nat :=
  (((s.journalAt step).find? (fun r => r.step.toNat == step)).filter JRec.failed).map (fun r => r.detail.toNat)
/-- Resources that stay excluded: those that `DETAIL` names where two boots running left the step failed. -/
def State.excluded (s : State) (step : Nat) : List Nat :=
  ((s.journalAt step).filter (fun r => r.step.toNat == step && r.failed && left (phaseOf s.journal (r.bootno.toNat - 1) step))).map
    (fun r => r.detail.toNat)
/-- Resources of a step that this boot leaves out: what the alternative marks, and what stays excluded. -/
def State.outAt (s : State) (step : Nat) : List Nat := (if s.altAt step then (s.detailAt step).toList else []) ++ s.excluded step

/-- A step fails in this boot. -/
def bootFails (b : BootResult) (step : Nat) : Bool := b.failed.contains step || (step == 1 && !b.romOk) || (step == 3 && !b.imageOk)

/-- Steps that run: no signature failure is skipped, so after a failure of step 1 or 3 no later step runs, and the module is in recovery until
its next start, which takes the alternative (log 34). -/
def stepsRun (b : BootResult) : List Nat := if bootFails b 1 then [1] else if bootFails b 3 then [1, 2, 3] else (List.range 11).map (· + 1)

/-- The resource that a failed step names: a channel, a granule, a viaduct, a wavelength (port, fibre and wavelength in [15:12], [11:8] and
[7:0]), an Ethernet port by their link numbers, a tile. The coding is not stated (DESIGN CHOICE, log 34). -/
def bootDetail (b : BootResult) (step : Nat) : Option Nat :=
  match step with
  | 5 => b.badChans.head?
  | 6 => b.badGrans.head?
  | 7 => (b.badLinks.filter isViaduct).head?
  | 9 => (b.badLinks.filter isEther).head?
  | 10 => b.badTiles.head?
  | _ => none

/-- `CYCLE` at record `n` of a boot: it counts from 0 at step 1 (00: R3), and how long each step takes is free (log 4). -/
def State.bootCycle (s : State) (n : Nat) : Word := BitVec.ofNat 64 ((List.range n).map (fun i => bitsOf (s.free (300 + i)) 0 48)).sum

/-- The records of a boot, newest first: one when a step starts, one when it ends. -/
def State.bootRecords (s : State) (b : BootResult) : List JRec :=
  let no := BitVec.ofNat 32 (s.lastBoot + 1)
  ((stepsRun b).flatMap (fun k =>
    let phase := if bootFails b k then 2 else if s.altAt k then 3 else 1
    let detail := if bootFails b k then (bootDetail b k).getD (bitsOf (s.free (200 + k)) 0 16) else 0
    [⟨no, BitVec.ofNat 8 k, 0, 0, s.bootCycle (2 * k - 2)⟩,
      ⟨no, BitVec.ofNat 8 k, BitVec.ofNat 8 phase, BitVec.ofNat 16 detail, s.bootCycle (2 * k - 1)⟩])).reverse

/-! ## Links and tiles after boot (19: R389; 17: R357) -/

/-- A weak wavelength that step 8 leaves out gives its share to the spare. -/
def bootFibres (weak : List Nat) (port : Nat) (l : Link) : Link :=
  (weak.filter (fun d => d / 4096 % 16 == port)).foldl (fun l d =>
    { l with fibres := l.fibres.setIfInBounds (d / 256 % 16) ({ Fibre.empty with wlmap := 0xFFFFFF }.swap (d % 32 % 25)) }) l

def bootLink (b : BootResult) (out weak : List Nat) (k : Nat) : Link :=
  let bad := b.badLinks.contains k || out.contains k
  if isViaduct k then { Link.empty with enable := true, st := if bad then 7 else 1 }
  else if isPort k then
    bootFibres weak k { Link.empty with enable := true, light := b.light.contains k, st := if b.light.contains k then 5 else 0 }
  else if bad then Link.empty else { Link.empty with enable := true, st := 1 }

def bootLinks (b : BootResult) (out weak : List Nat) : Tbl Link :=
  (List.range 12 ++ (List.range 36).map (· + 32) ++ (List.range 16).map (· + 96)).map (fun k => (k, bootLink b out weak k))

/-- The flash, which a reset leaves as it is: the Casquin copies. -/
def flashCells (m : Memory) : Memory := m.filter (fun c => Config.flashWindow ≤ c.1 && c.1 < Config.flashWindow + Config.flashBytes)

/-- `MODULE_RESET`: every field as reset leaves it, then the boot steps. DESIGN CHOICE (log 71): R171 has the incarnation advance at each reset, and
R369 has step 11 advance it, whose alternative is recovery; a reset whose boot ends in recovery leaves it as it is. -/
def execModuleReset (b : BootResult) (s : State) : Out :=
  let z := State.reset
  let old := if s.altAt 2 then ([] : List JRec) else s.journal
  let recs := s.bootRecords b
  let tiles := (b.badTiles ++ s.outAt 10).foldr insertNat []
  let grans := (b.badGrans ++ s.outAt 6).foldr insertNat []
  let chans := (b.badChans ++ s.excluded 5).foldr insertNat []
  let up := (stepsRun b).length == 11
  let recovery := !up || s.altAt 11 || bootFails b 11
  let q0 : HostQ := { HostQ.empty with opened := true, req := b.q0req, comp := b.q0comp, count := b.q0count }
  let cores := (List.range 16).map (fun n => (4096 + n, coreStart n))
  let m4 := extend 0 (b.measure.map id)
  .next { z with
    freeCtr := s.freeCtr, cycle := s.bootCycle (recs.length - 1), pkg := b.pkg, mem := flashCells s.mem, copyNo := if s.altAt 3 then 1 else 0,
    journal := (recs ++ old).take 8192, jcount := (if s.altAt 2 then 0 else s.jcount) + recs.length,
    badTiles := tiles, badGrans := grans, badChans := chans, recovery := recovery, queues := [(0, q0)],
    incarnation := if up && !recovery then s.incarnation + 1 else s.incarnation,
    modChain := if !up then 0 else if recovery then m4 else extend m4 (bytesLE (s.free 11).toNat 8),
    links := if up then bootLinks b (s.outAt 7 ++ s.outAt 9) (s.outAt 8) else [],
    tiles := if up then tiles.map (fun t => (t, { Tile.empty with insvc := false })) else [],
    strands := if up && !recovery then cores else [] }

end Sys2Proof.Machine
end

