-- ==== Sys2Proof/Machine/Access.lean ====
section
/-! DEFINITION. Access.lean: scalar and queue-sized accesses, atomics, `LDACQ`, `STREL` (10: R226, R233, R234, R236-R239), and the
windows that only a service core reaches (01: R21; 17: R353, R370; 18: R380, R381; 20: R419, R424, R425). -/

namespace Sys2Proof.Machine

/-! ## Device words of a service core -/

/-- The next state of a meaning. -/
def Out.stateOr (o : Out) (s : State) : State :=
  match o with
  | .next s' => s'
  | _ => s

def retryBase : Nat := 0xFFF1000000000

/-- Strand and offset of a byte of the strand control window (18: R380). -/
def scwSlot (k : Nat) : Nat := (k - scwBase) % 4096 / 256
def scwSid (k : Nat) : Nat := scwSlot k * 1024 + (k - scwBase) / 4096

def isScw (k : Nat) : Bool := scwBase ≤ k && k < scwEnd
def isRetry (k : Nat) : Bool := retryBase ≤ k && k < retryBase + 4 * 4096 && k % 4096 < 8
/-- The trestles of the four dies: 32,768 records of 128 bytes each (01: R21). -/
def isTrestle (k : Nat) : Bool := Config.trestleWindow ≤ k && k < Config.trestleWindow + 4 * 32768 * 128
def isJournal (k : Nat) : Bool := Config.journalWindow ≤ k && k < Config.journalWindow + 0x40000

/-- A byte that is no memory. -/
def isDevice (k : Nat) : Bool := isScw k || isRetry k || isTrestle k || isJournal k

/-- `SCSTATE` and `WFLT`. -/
def Strand.scword (t : Strand) : Word :=
  BitVec.ofNat 64 (t.scstate.toNat + if t.core.w.any (fun w => w.st == .faulted) then 8 else 0)

/-- A word of the strand control window. -/
def State.scwWord (s : State) (sid off : Nat) : Word :=
  let t := s.strand sid
  if 0x40 ≤ off && off % 8 == 0 then
    let i := (off - 0x40) / 8
    let e := t.core.chEnd (i / 3)
    ctrRead (if i % 3 == 0 then e.cFull else if i % 3 == 1 then e.cEmpty else e.cMove)
  else match off with
    | 0x00 => t.scword
    | 0x20 => t.scdbga
    | 0x28 => s.dbgData sid
    | _ => 0

/-- What the device word at `k`, a multiple of 8, reads. -/
def State.devWord (s : State) (k : Nat) : Word :=
  if isScw k then if scwSlot k < 4 then s.scwWord (scwSid k) (k % 256) else 0
  else if isRetry k then 0
  else if isTrestle k then
    let o := k - Config.trestleWindow
    BitVec.ofNat 64 ((s.recOf (o / 128)).word (o % 128 / 8))
  else BitVec.ofNat 64 (leOf (fun j => s.hostByte j 0) k 8)

/-- A record's writable fields. -/
def State.recWrite (s : State) (rk w : Nat) (v : Word) : State :=
  match w with
  | 0 => s.updRec rk (fun r => { r with prio := BitVec.ofNat 3 (bitsOf v 8 3) })
  | 5 => s.updRec rk (fun r => { r with params := v })
  | 11 => s.updRec rk (fun r => { r with donemap := v })
  | 12 => s.updRec rk (fun r => { r with save := v })
  | _ => s

/-- A write of the device word at `k`. -/
def State.devWrite (s : State) (k : Nat) (v : Word) : State :=
  if isScw k then
    if 4 ≤ scwSlot k then s
    else match k % 256 with
      | 0x08 => if v == 1 then (execScresume (scwSid k) s).stateOr s else s
      | 0x10 => (execScstep (scwSid k) (BitVec.ofNat 2 (bitsOf v 0 2)) s).stateOr s
      | 0x20 => (execScdbga (scwSid k) v s).stateOr s
      | _ => s
  else if isRetry k then (execStagingRetry ((k - retryBase) / 4096) v s).stateOr s
  else if isTrestle k then s.recWrite ((k - Config.trestleWindow) / 128) ((k - Config.trestleWindow) % 128 / 8) v
  else s

/-- Physical byte `k` as a service core reads it. -/
def State.physByte (s : State) (k : Nat) : Byte :=
  if isDevice k then BitVec.ofNat 8 (bitsOf (s.devWord (k / 8 * 8)) (k % 8 * 8) 8) else s.byte k

/-- The device word at `k` with the bytes of a store laid over what it reads. -/
def State.devMerge (s : State) (k : Nat) (c : List (Nat × Byte)) : Word :=
  c.foldl (fun w x => if x.1 / 8 == k / 8 then setBits w (x.1 % 8 * 8) 8 x.2.toNat else w) (s.devWord k)

/-- Bytes that a core stores at physical addresses, as one unit or in words: memory, the device words, and the epoch (21: R427). -/
def State.physPut (s : State) (sid : Nat) (whole : Bool) (c : List (Nat × Byte)) : State :=
  let old := s.rtepoch
  let m := c.filter (fun x => !isDevice x.1)
  let s := (s.putUnits (s.whoOf sid) false (if whole then [m] else wordUnits 8 m.length m)).epochWritten old
  let ws := ((c.filter (fun x => isDevice x.1)).map (fun x => x.1 / 8 * 8)).eraseDups
  ws.foldl (fun s k => s.devWrite k (s.devMerge k c)) s

/-- Where an access of a service core goes: its SRAM or physical memory (17: R353). -/
def coreKey (sid : Nat) (va : Word) : Nat := if spaceOf va == 0 then offOf va else sramKey (sid - 4096) (offOf va)

/-- The part that an access of a core touches: a physical range, of kind RELEASE, or one of its SRAM. -/
def corePart (sid : Nat) (va : Word) (n : Nat) : Part := ⟨coreKey sid va, n, .release, if spaceOf va == 0 then some 0 else none⟩

/-- Poison in the physical lines of a core's access (20: R403). -/
def State.corePoison (s : State) (va : Word) (n : Nat) (store : Bool) : Bool :=
  spaceOf va == 0 && (s.lineRefusal store (corePart 4096 va n)) == some 5

/-- A load of a core; one of a device word reads what the device shows. -/
def State.coreLoad (s : State) (sid : Nat) (va : Word) (n : Nat) (k : LKind) : Loaded :=
  if s.spaceFault sid va n then .fault cBounds va
  else if s.corePoison va n false then .bad (s.errorResponse sid 5 va)
  else
    let p := corePart sid va n
    let (c, s) := s.readPart [.strand sid] (k.units p (va.toNat % n == 0)) false
    .ok ((List.range n).map (fun i => (cellOf c (p.key + i)).getD (s.physByte (p.key + i)))) s

def State.coreStore (s : State) (sid : Nat) (va : Word) (b : List Byte) : Stored :=
  if s.spaceFault sid va b.length then .fault cBounds va
  else if s.corePoison va b.length true then .bad (s.errorResponse sid 5 va)
  else .ok (s.physPut sid (va.toNat % b.length == 0) (cellsAt (coreKey sid va) b))

/-- A load of the executing strand or service core. -/
def State.load (s : State) (va : Word) (n : Nat) (k : LKind) : Loaded :=
  if isCore s.cur then s.coreLoad s.sid va n k else s.loadBytes s.sid va n .load k

/-- A store of it. -/
def State.store (s : State) (va : Word) (b : List Byte) : Stored :=
  if isCore s.cur then s.coreStore s.sid va b else s.storeBytes s.sid va b true

/-! ## LD and ST (10: R233) -/

/-- A load has issued; it is performed in a later step (log 16). -/
def State.issueLoad (s : State) (dst : LoadTo) (va : Word) (ps : List Part) : State :=
  (s.touch false ps).updMe (fun t => { t with loads := t.loads ++ [⟨dst, va, ps⟩] })

/-- `LD` of `n` bytes, extended by sign or with zeros. -/
def State.ldOp (s : State) (d : BitVec 5) (va : Word) (n : Nat) (signed : Bool) : Out :=
  if s.strictHeld s.sid va n .load then .next (s.block .fence)
  else match s.lateParts s.sid va n with
    | some ps => done (s.issueLoad (.reg d signed) va ps)
    | none => match s.load va n .ld with
      | .fault c a => .next (s.w0Fault c a akLoad)
      | .bad s => s.ret d 0
      | .ok b s => s.ret d (if signed then wrap64 (sxt (natOfBytes b) (8 * n)) else BitVec.ofNat 64 (natOfBytes b))

def State.stOp (s : State) (d : BitVec 5) (va : Word) (n : Nat) : Out :=
  if s.strictHeld s.sid va n .store then .next (s.block .fence)
  else match s.store va (bytesLE (s.g d).toNat n) with
    | .fault c a => .next (s.w0Fault c a akStore)
    | .bad s => done s
    | .ok s => done s

/-- Bytes of a size code: 1, 1, 2, 2, 4, 4. -/
def ldBytes (sz : BitVec 3) : Nat := 2 ^ (sz.toNat / 2)

def execLd (d a : BitVec 5) (i : BitVec 27) (s : State) : Out := s.ldOp d (s.ea a i) 8 false
def execLdSized (d a : BitVec 5) (sz : BitVec 3) (disp : BitVec 24) (s : State) : Out :=
  s.ldOp d (s.ea a disp) (ldBytes sz) (sz.toNat % 2 == 0)
def execSt (d a : BitVec 5) (i : BitVec 27) (s : State) : Out := s.stOp d (s.ea a i) 8
def execStSized (d a : BitVec 5) (sz : BitVec 3) (disp : BitVec 24) (s : State) : Out := s.stOp d (s.ea a disp) (ldBytes sz)

/-! ## LDV and STV (10: R234) -/

/-- Address of a 128-byte entry. -/
def State.eaV (s : State) (a : BitVec 5) (disp : BitVec 6) : Word := s.g a + imm disp * 128

def execLdv (q : BitVec 3) (a : BitVec 5) (disp : BitVec 6) (s : State) : Out :=
  let va := s.eaV a disp
  if s.me.queueFull q then .next (s.block (.queueFull q.toNat))
  else if s.strictHeld s.sid va 128 .load then .next (s.block .fence)
  else match s.lateParts s.sid va 128 with
    | some ps => done (s.issueLoad (.queue q) va ps)
    | none => match s.loadBytes s.sid va 128 .load .row with
      | .fault c x => .next (s.w0Fault c x akLoad)
      | .bad s => done ((s.queueOrder s.sid q).updCore (fun c => c.push q ⟨0, true, false⟩))
      | .ok b s => done ((s.queueOrder s.sid q).updCore (fun c => c.push q ⟨vOfBytes b, false, false⟩))

def execStv (q : BitVec 3) (a : BitVec 5) (disp : BitVec 6) (s : State) : Out :=
  match s.core.queue q with
  | [] => .next (s.block (.queueEmpty q.toNat))
  | e :: _ =>
    if s.strictHeld s.sid (s.eaV a disp) 128 .store then .next (s.block .fence)
    else match s.storeBytes s.sid (s.eaV a disp) (bytesOfV e.v) false with
      | .fault c x => .next (s.w0Fault c x akStore)
      | .bad s => done (s.popQ s.sid q)
      | .ok s => done (s.popQ s.sid q)

/-! ## Atomics (10: R236-R238) -/

/-- An atomic of a service core: on memory, or on a device word. -/
def State.coreAtomic (s : State) (va : Word) (n op x y : Nat) : Nat × State :=
  let k := coreKey s.sid va
  let ks := (List.range n).map (k + ·)
  let s := s.settleKeys ks
  let old := leOf s.physByte k n
  match atomicOp op (8 * n) old x y with
  | some v => (old, (s.physPut s.sid true (cellsAt k (bytesLE v n))).settleKeys ks)
  | none => (old, s)

/-- The tile's buffered copies of the lines that an atomic reaches go (03: R90). -/
def State.dropSrbParts (s : State) (ps : List Part) : State := (ps.flatMap Part.lines).foldl (fun s l => s.dropSrbLine s.myTile l) s

/-- An atomic of a strand on resolved parts: after its own earlier accesses to the location and, on a STRICT page, after its STRICT stores. -/
def State.strandAtomic (s : State) (ps : List Part) (op x y : Nat) : Nat × State :=
  let ks := keysOf ps
  let s := (s.touch true ps).inOrder s.sid ks
  let s := s.drain s.sid (fun p => p.cells.any (fun c => ks.contains c.1) || (p.ord == .strict && ps.any (·.ord == .strict)))
  let (old, s) := s.atomicAt ks op x y
  (old, s.dropSrbParts ps)

/-- The scope of an order operand that names one. -/
def ordScope (has : Bool) (scope : BitVec 3) : Option Nat := if has then some scope.toNat else none

/-- The result of an access that may acquire at a scope. -/
def State.retAcq (s : State) (acq : Option Nat) (d : BitVec 5) (v : Word) : Out :=
  (match acq with
  | some scope => s.acquire s.sid scope
  | none => s).ret d v

/-- What follows a release at a scope, where the order asks for one. -/
def State.afterRel (s : State) (rel : Option Nat) (k : State → Out) : Out :=
  match rel with
  | some scope => s.releaseThen scope k
  | none => k s

/-- An atomic (10: R237): width 4 or 8 bytes, `ord` bit 1 release and bit 0 acquire, at a scope. -/
def State.atomic (s : State) (d : BitVec 5) (n : Nat) (a b c : BitVec 5) (ord : BitVec 2) (scope : BitVec 3) (disp : BitVec 24) (op : Nat) : Out :=
  let va := s.ea a disp
  let x := (s.g b).toNat % 2 ^ (8 * n)
  let y := (s.g c).toNat % 2 ^ (8 * n)
  let acq := ordScope (ord.getLsbD 0) scope
  let rel := ordScope (ord.getLsbD 1) scope
  if s.spaceFault s.sid va n then .next (s.w0Fault cBounds va akAtomic)
  else if va.toNat % n != 0 then .next (s.trap cAlign va)
  else if isCore s.cur then
    s.afterRel rel (fun s =>
      if s.corePoison va n false then (s.errorResponse s.sid 5 va).retAcq acq d 0
      else
        let (old, s) := s.coreAtomic va n op x y
        s.retAcq acq d (BitVec.ofNat 64 old))
  else match s.resolve s.sid va n .atomic with
    | .fault f x => .next (s.w0Fault f x akAtomic)
    | r =>
      if s.strictHeld s.sid va n .atomic then .next (s.block .fence)
      else (s.spanBreak s.sid).afterRel rel (fun s =>
      match r with
      | .ok ps => match s.partsRefusal false ps with
        | some vk => ((s.errorResponse s.sid vk va).dropSrbParts ps).retAcq acq d 0
        | none =>
          let (old, s) := s.strandAtomic ps op x y
          s.retAcq acq d (BitVec.ofNat 64 old)
      | _ => (s.errorResponse s.sid 0 va).retAcq acq d 0)

def atomW (w : BitVec 1) : Nat := if w == 0 then 4 else 8

def execAadd (d : BitVec 5) (w : BitVec 1) (a b : BitVec 5) (ord : BitVec 2) (scope : BitVec 3) (disp : BitVec 24) (s : State) : Out :=
  s.atomic d (atomW w) a b 0 ord scope disp 0
def execAmin (d : BitVec 5) (w : BitVec 1) (a b : BitVec 5) (ord : BitVec 2) (scope : BitVec 3) (disp : BitVec 24) (s : State) : Out :=
  s.atomic d (atomW w) a b 0 ord scope disp 1
def execAmax (d : BitVec 5) (w : BitVec 1) (a b : BitVec 5) (ord : BitVec 2) (scope : BitVec 3) (disp : BitVec 24) (s : State) : Out :=
  s.atomic d (atomW w) a b 0 ord scope disp 2
def execAminn (d : BitVec 5) (w : BitVec 1) (a b : BitVec 5) (ord : BitVec 2) (scope : BitVec 3) (disp : BitVec 24) (s : State) : Out :=
  s.atomic d (atomW w) a b 0 ord scope disp 3
def execAmaxn (d : BitVec 5) (w : BitVec 1) (a b : BitVec 5) (ord : BitVec 2) (scope : BitVec 3) (disp : BitVec 24) (s : State) : Out :=
  s.atomic d (atomW w) a b 0 ord scope disp 4
def execAand (d : BitVec 5) (w : BitVec 1) (a b : BitVec 5) (ord : BitVec 2) (scope : BitVec 3) (disp : BitVec 24) (s : State) : Out :=
  s.atomic d (atomW w) a b 0 ord scope disp 5
def execAor (d : BitVec 5) (w : BitVec 1) (a b : BitVec 5) (ord : BitVec 2) (scope : BitVec 3) (disp : BitVec 24) (s : State) : Out :=
  s.atomic d (atomW w) a b 0 ord scope disp 6
def execAxor (d : BitVec 5) (w : BitVec 1) (a b : BitVec 5) (ord : BitVec 2) (scope : BitVec 3) (disp : BitVec 24) (s : State) : Out :=
  s.atomic d (atomW w) a b 0 ord scope disp 7
def execAswp (d : BitVec 5) (w : BitVec 1) (a b : BitVec 5) (ord : BitVec 2) (scope : BitVec 3) (disp : BitVec 24) (s : State) : Out :=
  s.atomic d (atomW w) a b 0 ord scope disp 8
def execAcas (d : BitVec 5) (w : BitVec 1) (a b c : BitVec 5) (ord : BitVec 2) (scope : BitVec 3) (disp : BitVec 24) (s : State) : Out :=
  s.atomic d (atomW w) a b c ord scope disp 9
def execAincb (d : BitVec 5) (w : BitVec 1) (a b : BitVec 5) (ord : BitVec 2) (scope : BitVec 3) (disp : BitVec 24) (s : State) : Out :=
  s.atomic d (atomW w) a b 0 ord scope disp 10
def execAfadd (d a b : BitVec 5) (ord : BitVec 2) (scope : BitVec 3) (disp : BitVec 24) (s : State) : Out :=
  s.atomic d 4 a b 0 ord scope disp 11

/-! ## LDACQ and STREL (10: R239) -/

/-- Bytes of their size field: 8, 4, 2, 1. -/
def acqBytes (sz : BitVec 2) : Nat := 8 / 2 ^ sz.toNat

def execLdacq (d a : BitVec 5) (sz : BitVec 2) (scope : BitVec 3) (s : State) : Out :=
  let va := s.g a
  let n := acqBytes sz
  if s.spaceFault s.sid va n then .next (s.w0Fault cBounds va akLoad)
  else if va.toNat % n != 0 then .next (s.trap cAlign va)
  else if s.strictHeld s.sid va n .load then .next (s.block .fence)
  else match s.load va n .acq with
    | .fault c x => .next (s.w0Fault c x akLoad)
    | .bad s => s.retAcq (some scope.toNat) d 0
    | .ok b s => s.retAcq (some scope.toNat) d (BitVec.ofNat 64 (natOfBytes b))

def execStrel (d a : BitVec 5) (sz : BitVec 2) (scope : BitVec 3) (s : State) : Out :=
  let va := s.g a
  let n := acqBytes sz
  let b := bytesLE (s.g d).toNat n
  if s.spaceFault s.sid va n then .next (s.w0Fault cBounds va akStore)
  else if va.toNat % n != 0 then .next (s.trap cAlign va)
  else match (if isCore s.cur then .bad else s.resolve s.sid va n .store) with
    | .fault c x => .next (s.w0Fault c x akStore)
    | _ =>
      if s.strictHeld s.sid va n .store then .next (s.block .fence)
      else (s.spanBreak s.sid).releaseThen scope.toNat (fun s =>
      match s.store va b with
      | .ok s => done s
      | .bad s => done s
      | .fault c x => .next (s.w0Fault c x akStore))

end Sys2Proof.Machine
end

