-- ==== Sys2Proof/Machine/Regs.lean ====
section
/-! DEFINITION. Regs.lean: the g registers that an instruction names (09: R205). -/

namespace Sys2Proof.Machine

/-- The g registers an instruction reads or writes: it waits while the result of one of them is pending (05: R157, 09: R205). -/
def gRegs (i : Instr) : List (BitVec 5) :=
  match i with
  | .br _ => []
  | .brReg a => [a]
  | .brz a _ => [a]
  | .brnz a _ => [a]
  | .brbq _ => []
  | .brbqZ _ => []
  | .call d _ => [d]
  | .callReg d a => [d, a]
  | .ret n => [n]
  | .loopb d _ => [d]
  | .pushbq n => [n]
  | .pushbqNz n => [n]
  | .sleepc n => [n]
  | .sleepcRel n => [n]
  | .traps _ => []
  | .brk _ => []
  | .ill _ => []
  | .add d a b => [d, a, b]
  | .sub d a b => [d, a, b]
  | .mul d a b => [d, a, b]
  | .mulh d a b => [d, a, b]
  | .mulhn d a b => [d, a, b]
  | .div d a b => [d, a, b]
  | .divn d a b => [d, a, b]
  | .rem d a b => [d, a, b]
  | .remn d a b => [d, a, b]
  | .and d a b => [d, a, b]
  | .or d a b => [d, a, b]
  | .xor d a b => [d, a, b]
  | .andn d a b => [d, a, b]
  | .shl d a b => [d, a, b]
  | .shr d a b => [d, a, b]
  | .sar d a b => [d, a, b]
  | .ror d a b => [d, a, b]
  | .min d a b => [d, a, b]
  | .max d a b => [d, a, b]
  | .minn d a b => [d, a, b]
  | .maxn d a b => [d, a, b]
  | .cmp d _ a b => [d, a, b]
  | .sel d a b c => [d, a, b, c]
  | .clz d a => [d, a]
  | .popc d a => [d, a]
  | .bext d a _ _ => [d, a]
  | .bextS d a _ _ => [d, a]
  | .bins d a _ _ => [d, a]
  | .exts d a _ => [d, a]
  | .addi d a _ => [d, a]
  | .andi d a _ => [d, a]
  | .ori d a _ => [d, a]
  | .xori d a _ => [d, a]
  | .shli d a _ => [d, a]
  | .shri d a _ => [d, a]
  | .sari d a _ => [d, a]
  | .cmpi d _ a _ => [d, a]
  | .li d _ => [d]
  | .lil d _ => [d]
  | .mov d a => [d, a]
  | .addsat d a b => [d, a, b]
  | .addsatN d a b => [d, a, b]
  | .madd d a b c => [d, a, b, c]
  | .lea d a _ => [d, a]
  | .leaLabel d _ => [d]
  | .fadd d a b => [d, a, b]
  | .fsub d a b => [d, a, b]
  | .fmul d a b => [d, a, b]
  | .ffma d a b c => [d, a, b, c]
  | .fdiv d a b => [d, a, b]
  | .fsqrt d a => [d, a]
  | .fmin d a b => [d, a, b]
  | .fmax d a b => [d, a, b]
  | .fcmp d _ a b => [d, a, b]
  | .fcvt d a _ _ _ => [d, a]
  | .fclass d a => [d, a]
  | .fsgn d _ a b => [d, a, b]
  | .wcfg d _ a => [d, a]
  | .wgo d _ => [d]
  | .whalt _ => []
  | .wstat d _ _ => [d]
  | .widx d _ _ a => [d, a]
  | .ld d a _ => [d, a]
  | .ldSized d a _ _ => [d, a]
  | .st d a _ => [d, a]
  | .stSized d a _ _ => [d, a]
  | .ldv _ a _ => [a]
  | .stv _ a _ => [a]
  | .febClr a b => [a, b]
  | .febSet a b => [a, b]
  | .waitf a b => [a, b]
  | .aadd d _ a b _ _ _ => [d, a, b]
  | .amin d _ a b _ _ _ => [d, a, b]
  | .amax d _ a b _ _ _ => [d, a, b]
  | .aminn d _ a b _ _ _ => [d, a, b]
  | .amaxn d _ a b _ _ _ => [d, a, b]
  | .aand d _ a b _ _ _ => [d, a, b]
  | .aor d _ a b _ _ _ => [d, a, b]
  | .axor d _ a b _ _ _ => [d, a, b]
  | .aswp d _ a b _ _ _ => [d, a, b]
  | .acas d _ a b c _ _ _ => [d, a, b, c]
  | .aincb d _ a b _ _ _ => [d, a, b]
  | .afadd d a b _ _ _ => [d, a, b]
  | .ldacq d a _ _ => [d, a]
  | .strel d a _ _ => [d, a]
  | .fence _ _ => []
  | .cpy d a _ => [d, a]
  | .cpym d a _ => [d, a]
  | .cpyw n => [n]
  | .cpyq d a _ _ => [d, a]
  | .cpyc d a _ _ => [d, a]
  | .qpush _ a => [a]
  | .qpop d _ => [d]
  | .bqpop n => [n]
  | .sems _ => []
  | .semsRemote _ a => [a]
  | .semw _ => []
  | .barh d a b => [d, a, b]
  | .barw a => [a]
  | .cyc n => [n]
  | .csend _ _ => []
  | .crecv _ _ => []
  | .crecvS _ _ b => [b]
  | .cpeek _ _ b => [b]
  | .cclose _ => []
  | .cstat d _ _ => [d]
  | .cerr d _ => [d]
  | .pld d b a _ _ => [d, b, a]
  | .pst b a c _ _ => [b, a, c]
  | .patom d _ b a c e _ _ _ _ => [d, b, a, c, e]
  | .drain d a => [d, a]
  | .xpost d a _ => [d, a]
  | .xcq d a => [d, a]
  | .xcqW d a => [d, a]
  | .xcong d c a => [d, c, a]
  | .tdec a _ => [a]
  | .tdecSkip a _ => [a]
  | .tinst d a b c => [d, a, b, c]
  | .tbind d a b c => [d, a, b, c]
  | .tseal n => [n]
  | .recput d a b => [d, a, b]
  | .recseal n => [n]
  | .tstat d a _ => [d, a]
  | .tparm d a b => [d, a, b]
  | .tfree n => [n]
  | .vadd _ _ _ _ _ _ => []
  | .vaddS _ _ gb _ _ _ => [gb]
  | .vsub _ _ _ _ _ _ => []
  | .vsubS _ _ gb _ _ _ => [gb]
  | .vmul _ _ _ _ _ => []
  | .vmulS _ _ gb _ _ => [gb]
  | .vfma _ _ _ _ _ _ => []
  | .vfms _ _ _ _ _ _ => []
  | .vmin _ _ _ _ _ => []
  | .vminS _ _ gb _ _ => [gb]
  | .vmax _ _ _ _ _ => []
  | .vmaxS _ _ gb _ _ => [gb]
  | .vabs _ _ _ _ => []
  | .vneg _ _ _ _ => []
  | .vand _ _ _ _ _ => []
  | .vandS _ _ gb _ _ => [gb]
  | .vor _ _ _ _ _ => []
  | .vorS _ _ gb _ _ => [gb]
  | .vxor _ _ _ _ _ => []
  | .vxorS _ _ gb _ _ => [gb]
  | .vshl _ _ _ _ _ => []
  | .vshlS _ _ gb _ _ => [gb]
  | .vshr _ _ _ _ _ => []
  | .vshrS _ _ gb _ _ => [gb]
  | .vsar _ _ _ _ _ => []
  | .vsarS _ _ gb _ _ => [gb]
  | .vcmp _ _ _ _ _ _ => []
  | .vcmpS _ _ _ gb _ _ => [gb]
  | .vsel _ _ _ _ _ => []
  | .vperm _ _ _ _ _ => []
  | .vperm2 _ _ _ _ _ _ => []
  | .vbcast _ ga _ _ => [ga]
  | .vbcastElem _ _ _ _ _ => []
  | .vmov _ _ _ _ => []
  | .vli _ _ => []
  | .vext gd _ _ _ => [gd]
  | .vextReg gd _ gb _ => [gd, gb]
  | .vins _ ga _ _ => [ga]
  | .vinsReg _ ga gb _ => [ga, gb]
  | .vqin _ _ => []
  | .vqout _ _ => []
  | .vcvt _ _ _ _ _ _ _ => []
  | .vred gd _ _ _ _ => [gd]
  | .vscan _ _ _ _ _ => []
  | .vlut _ _ _ _ _ => []
  | .vsf _ _ _ _ => []
  | .vdiv _ _ _ _ _ _ => []
  | .vsqrt _ _ _ _ => []
  | .vchain d _ a _ => [d, a]
  | .vrun _ _ gb _ => [gb]
  | .vrunVec _ _ _ _ => []
  | .vkop _ _ _ _ => []
  | .vkmov d _ op => if 3 ≤ op.toNat then [d] else []
  | .vclip _ _ _ _ _ _ => []
  | .vclipS _ _ gb gc _ _ => [gb, gc]
  | .vscale _ _ _ _ _ => []
  | .vscaleS _ _ gb _ _ => [gb]
  | .vmaxe _ _ _ => []
  | .vmaxeAcc _ _ _ => []
  | .vqnt _ _ _ _ => []
  | .vqntCls _ _ _ _ => []
  | .vdqnt _ _ _ _ _ _ => []
  | .vhash _ _ gb _ _ => [gb]
  | .vsort _ _ _ _ _ => []
  | .vsortD _ _ _ _ _ => []
  | .vcompr _ _ _ _ => []
  | .vexpnd _ _ _ _ => []
  | .mldb d _ a _ _ => [d, a]
  | .mma d _ _ a _ _ _ _ _ => [d, a]
  | .mzero _ a b => [a, b]
  | .mscale _ _ => []
  | .mrd _ _ ga _ _ => [ga]
  | .mwr _ ga _ _ _ => [ga]
  | .macp _ _ a b _ => [a, b]
  | .macpAdd _ _ a b _ => [a, b]
  | .mwaitE n => [n]
  | .mstat d a => [d, a]
  | .msend _ _ _ _ => []
  | .mradd _ ga _ _ _ => [ga]
  | .skinit d a b c _ _ _ => [d, a, b, c]
  | .qsadd d ga _ _ => [d, ga]
  | .qsmrg d a b => [d, a, b]
  | .qsqry d a b => [d, a, b]
  | .qsrank d c a b => [d, c, a, b]
  | .hhadd d ga _ _ _ => [d, ga]
  | .hhmrg d a b => [d, a, b]
  | .hhtop d a b => [d, a, b]
  | .dcadd d ga _ _ _ => [d, ga]
  | .dcmrg d a b => [d, a, b]
  | .dcest d c a => [d, c, a]
  | .skcoin d a _ => [d, a]
  | .skcomp d a _ => [d, a]
  | .trsput d _ a b c => [d, a, b, c]
  | .trsget d _ => [d]
  | .trsgetP d _ => [d]
  | .trsstat d a _ => [d, a]
  | .trsack d a => [d, a]
  | .sysrd d _ => [d]
  | .syswr a _ => [a]
  | .ctxsave d a => [d, a]
  | .ctxload d a b => [d, a, b]
  | .tlbinv d a b => [d, a, b]
  | .nop => []
  | .yield => []
  | .cmark => []
  | .cwaitm => []
  | .tret => []
  | .tretSkip => []
  | .mwait => []
  | .trapret => []
  | .idle => []
  | .blockEntry => []
  | .strandUnblock _ => []
  | .sleepcWake _ => []
  | .cpywWake _ => []
  | .barTimeout _ => []
  | .wireRelease _ _ _ => []
  | .meshColumnArrival _ _ => []
  | .walkerIteration _ _ => []
  | .gatedGroupRelease _ _ => []
  | .scalarReadBufferExpiry _ _ => []
  | .copyRowWrite _ _ => []
  | .copyCompletion _ => []
  | .mldbGranuleRead _ _ => []
  | .mmaRowFire _ _ => []
  | .accumulatorUpdate _ _ => []
  | .chainResult _ _ => []
  | .summaryCompletion _ => []
  | .breakpoint _ _ => []
  | .decrementArrival _ => []
  | .lost _ => []
  | .seal _ => []
  | .dispatchDecision _ => []
  | .starvationReservation _ => []
  | .stagingComplete _ _ => []
  | .writebackDone _ _ => []
  | .taskRetirement _ => []
  | .partialRetirement _ => []
  | .stagingRetry _ _ => []
  | .scresume _ => []
  | .saveForced _ => []
  | .saveDone _ => []
  | .podRequest _ => []
  | .podReply _ _ _ => []
  | .podReplyTimeout _ => []
  | .incarnationAnnouncement _ _ => []
  | .trussPacket _ => []
  | .chunkRedo _ _ => []
  | .uePacket _ _ _ => []
  | .messageCompletion _ _ _ => []
  | .receiveMatchTimeout _ => []
  | .doorbell _ _ => []
  | .headIndexRead _ => []
  | .read _ => []
  | .write _ => []
  | .load _ => []
  | .unload _ => []
  | .launch _ => []
  | .pcreate _ => []
  | .pset _ => []
  | .pend _ => []
  | .gcreate _ => []
  | .gfree _ => []
  | .hset _ => []
  | .pin _ => []
  | .join _ => []
  | .quote _ => []
  | .power _ => []
  | .queueCreate _ => []
  | .queueDestroy _ => []
  | .partialRedispatch _ => []
  | .partialAbandon _ => []
  | .tile _ => []
  | .reservedRequest _ => []
  | .relayedRequest _ _ _ => []
  | .ingressHeader _ _ => []
  | .ingressToken _ _ => []
  | .headerHoldTimeout _ => []
  | .templateAbsent _ => []
  | .ingressTinstTimeout _ => []
  | .moduleReset _ => []
  | .powerCapRaise => []
  | .powerCapLower => []
  | .coldPlateLimit => []
  | .uncorrectableError _ => []
  | .correctedError _ => []
  | .counterWrite _ _ _ => []
  | .pimgkey _ _ => []
  | .ssmemWrite _ _ _ => []
  | .swstart _ _ => []
  | .stop _ => []
  | .resume _ => []
  | .scstep _ _ => []
  | .scdbga _ _ => []
  | .rotate _ => []
  | .retrain _ => []
  | .go _ => []
  | .rtepochWrite _ => []
  | .registerWrite _ _ _ => []
  | .flit _ _ _ => []
  | .flitResend _ _ => []
  | .viaductDown _ => []
  | .replayWindowExceeded _ => []
  | .sampleWindow _ _ _ _ _ => []
  | .wavelengthSwapRequest _ _ _ _ _ => []
  | .quietPoint _ _ => []
  | .lossOfLight _ => []
  | .lightPresent _ => []
  | .linkLocked _ _ _ _ => []
  | .trainingFailed _ => []
  | .drainAck _ => []
  | .tick => []
  | .drainTimeout _ => []
  | .previousKeyExpiry _ => []
  | .enable _ => []
  | .ethernetPortDown _ => []

end Sys2Proof.Machine
end

