-- ==== Sys2Proof/Machine/Sched.lean ====
section
/-! DEFINITION. Sched.lean: block entry and its checks (07: R176-R192; 17: R353), which sequencer issues (02: R54), waits that end,
the cycle (00: R3; 20: R417, R419), and requests of other modules. -/

namespace Sys2Proof.Machine

/-! ## Lines (07: R176-R179) -/

/-- The descriptor of a line and its fields. -/
def lineDesc (b : List Byte) : Nat := leAt b 0 2
def lineKind (b : List Byte) : Nat := lineDesc b / 2 ^ 14
def lineSeq (b : List Byte) : Bool := (lineDesc b).testBit 13
def lineNh (b : List Byte) : Nat := lineDesc b / 2 ^ 8 % 32
def lineLast (b : List Byte) : Bool := (lineDesc b).testBit 7
def lineTlen (b : List Byte) : Nat := lineDesc b / 2 % 64

/-- Head `i` of a line. -/
def lineHead (b : List Byte) (i : Nat) : BitVec 16 := BitVec.ofNat 16 (leAt b (2 + 2 * i) 2)

/-- The heads and tails of a line from head `i` on, the tails before it taking `t` bytes from the line's end (07: R178). -/
def lineRaws (b : List Byte) (i t : Nat) : Nat → List Raw
  | 0 => []
  | n + 1 =>
    let h := lineHead b i
    let l := tailLen (Raw.tl ⟨h, 0⟩)
    ⟨h, BitVec.ofNat 64 (leAt b (64 - t - l) l)⟩ :: lineRaws b (i + 1) (t + l) n

def lineTails (b : List Byte) : Nat := ((List.range (lineNh b)).map (fun i => tailLen (Raw.tl ⟨lineHead b i, 0⟩))).sum

/-- A code line is well formed (07: R177). -/
def lineOk (b : List Byte) : Bool :=
  1 ≤ lineNh b && lineDesc b % 2 == 0 && 2 + 2 * lineNh b + lineTlen b ≤ 64 && lineTlen b == lineTails b &&
    ((b.drop (2 + 2 * lineNh b)).take (62 - 2 * lineNh b - lineTlen b)).all (· == 0)

/-- What fails in a line before its heads, in the order of 07: R191: `first` the block's entry line, `eighth` its eighth. -/
def lineCheck (b : List Byte) (e first eighth : Bool) : Option Cause :=
  if 2 ≤ lineKind b then some 0x06
  else if (lineKind b == 1) != first || !lineOk b || (eighth && !lineLast b) then some 0x01
  else if lineSeq b != e then some 0x04
  else none

/-! ## Heads (07: R189, R191; 17: R353) -/

/-- Opcodes that need what a service core lacks. -/
def opcNoCore (o : BitVec 8) : Bool :=
  let n := o.toNat
  0x50 ≤ n && n ≤ 0x54 || 0x57 ≤ n && n ≤ 0x5A || 0x70 ≤ n && n ≤ 0x77 || n == 0x7A || n == 0x7B || 0x83 ≤ n && n ≤ 0x8E ||
  0x90 ≤ n && n ≤ 0x99

/-- The sequencer column. A service core runs A's opcodes, scalar float and its own. -/
def seqColumn (core e : Bool) (o : BitVec 8) : Bool :=
  if core then !opcEOnly o || 0x40 ≤ o.toNat && o.toNat ≤ 0x4B
  else if e then !opcAOnly o else !opcEOnly o

/-- The chain index that a head of `VLUT`, `VCHAIN` or `VRUN` holds. DESIGN CHOICE (log 71): one whose TL is not its format's has one too, read from
the tail as it stands, so `ILLEGAL_UNIT` may come before `ILLEGAL_FORM`. -/
def rawChain (r : Raw) : Nat :=
  match r.opc.toNat with
  | 0xBC => bitsOf r.vM 2 2
  | 0xC0 => bitsOf r.xTail 5 2
  | 0xC1 => bitsOf r.vM 0 2
  | _ => 0

/-- The tile column. -/
def unitColumn (core : Bool) (tile : Nat) (r : Raw) : Bool :=
  if core then !opcNoCore r.opc
  else if isXTile tile then !(0xD0 ≤ r.opc.toNat && r.opc.toNat ≤ 0xDA)
  else rawChain r == 0

/-- Field values that depend on the sequencer: the direction of a queue (02: R60) and the listed system registers (13: R332, 17: R354). -/
def formHere (core e : Bool) (i : Instr) : Bool :=
  match i with
  | .qpush q _ => (q.toNat < 4) != e
  | .qpop _ q => (q.toNat < 4) == e
  | .sysrd _ r => if core then coreReg r.toNat else tileRegs r.toNat
  | .syswr _ r => if core then coreReg r.toNat else tileWritable r.toNat
  | _ => true

/-- What fails in head `r`, `count` instructions of the block standing before it (07: R191). -/
def headCheck (core e : Bool) (tile count : Nat) (xfer : Bool) (r : Raw) : Option Cause :=
  if !opcAssigned r.opc then some 0x02
  else if opcCore r.opc && !core then some 0x07
  else if !seqColumn core e r.opc then some 0x04
  else if !unitColumn core tile r then some 0x05
  else match decode? r with
    | none => some 0x03
    | some i =>
      if !formHere core e i then some 0x03
      else if 128 ≤ count then some 0x01
      else if xfer && opcTransfer r.opc then some 0x03
      else none

/-- The heads of a line in order: the instructions so far and whether a transfer is among them, or the cause and the head index. -/
def lineIns (core e : Bool) (tile : Nat) (line : Word) (i : Nat) (acc : List Ins) (xfer : Bool) :
    List Raw → Except (Cause × Nat) (List Ins × Bool)
  | [] => .ok (acc, xfer)
  | r :: l =>
    match headCheck core e tile acc.length xfer r with
    | some c => .error (c, i)
    | none => lineIns core e tile line (i + 1) (acc ++ [⟨r, line, i⟩]) (xfer || opcTransfer r.opc) l

/-! ## Block entry (07: R183, R184, R186, R191, R192) -/

inductive Fetch where
  | ok (block : List Ins) (next : Word) (s : State)
  | decode (c : Cause) (arg : Word) (s : State)
  | fault (c : Cause) (addr : Word) (s : State)

/-- One line, read as a fetch by w0 (07: R186): its bytes, zeros after an error response. -/
def State.fetchLine (s : State) (line : Word) : Loaded :=
  if isCore s.cur then s.coreLoad s.sid line 64 .fetch else s.loadBytes s.sid line 64 .fetch .fetch

/-- The lines from `line` on, checked one by one as they arrive. -/
def State.fetchFrom (s : State) (line : Word) (first : Bool) (acc : List Ins) (xfer : Bool) : Nat → Fetch
  | 0 => .decode 0x01 (line + 0x3F) s
  | n + 1 =>
    if spaceOf line != 0 then .fault cBounds line s
    else
      let core := isCore s.cur
      let go (b : List Byte) (s : State) : Fetch :=
        match lineCheck b s.cur.e first (n == 0) with
        | some c => .decode c (line + 0x3F) s
        | none =>
          match lineIns core s.cur.e (sidTile s.sid) line 0 acc xfer (lineRaws b 0 0 (lineNh b)) with
          | .error (c, i) => .decode c (line + BitVec.ofNat 64 i) s
          | .ok (acc, xfer) =>
            if lineLast b then .ok acc (line + 64) s else s.fetchFrom (line + 64) false acc xfer n
      match s.fetchLine line with
      | .fault c a => .fault c a s
      | .bad s => go (List.replicate 64 0) s
      | .ok b s => go b s

/-- A checked block; a resume index at or beyond its end ends it at once (13: R334). -/
def Seq.entered (q : Seq) (block : List Ins) (next : Word) : Seq :=
  if q.idx < block.length then { q with fetched := true, block := block, next := next, back := false } else q.enter (q.pending.getD next)

/-- `BLOCK_ENTRY` of the executing sequencer. A fetch fault at the line that `TRAPRET` returns to is a trap again, which keeps the resume index
(13: R334). -/
def execBlockEntry (s : State) : Out :=
  if s.seq.fetched then .next s
  else match s.fetchFrom s.seq.pc true [] false 8 with
    | .fault c a s => .next (if s.seq.back then s.trap c a else s.w0Fault c a akFetch)
    | .decode c arg s => .next ((s.updSeq (fun q => { q with pending := none, idx := 0, wait := none, woken := false })).takeTrapAt c arg 0)
    | .ok block next s => .next (s.updSeq (fun q => q.entered block next))

/-! ## Waits that end (02: R54) -/

/-- The condition of a wait holds. Where the instruction looks for itself when it issues again, and waits on if it must, the answer
is yes. -/
def State.waitOver (s : State) (a : Agent) (w : Wait) : Bool :=
  let c := (s.strand a.sid).core
  let tile := s.tile (sidTile a.sid)
  match w with
  | .sleep w => w.toNat ≤ s.cycle.toNat
  | .ticket _ w => w.toNat ≤ bitsOf s.cycle 0 56
  | .queueFull q => !(s.strand a.sid).queueFull (BitVec.ofNat 3 q)
  | .queueEmpty q => !(c.q.getD q []).isEmpty
  | .bqFull => (if a.e then c.bqEA else c.bqAE).length < 32
  | .bqEmpty => !(if a.e then c.bqAE else c.bqEA).isEmpty
  | .sem h => c.h.getD h 0 != 0
  | .bar _ => match (c.seq a.e).barSel.bind (s.arrivalOf a.sid) with
    | some x => x.done || x.withdrawn
    | none => true
  | .fullBits lo n => tile.isFull ((List.range n).map (fun i => lo + i))
  | .whalt w => (s.walkerOf a.sid w).st != .running
  | .copySlot => c.cps.any (fun x => x.copy.isNone)
  | .fence => !s.pstPending a.sid
  | .claim => tile.mx.owner.isNone
  | .claiming till => till ≤ s.prog
  | .chain ch => (tile.chainOwner.getD ch none).isNone && (tile.chainQ.getD ch []).head? == some a.sid
  | .summary named => !s.sumClash named
  | .podReply _ => false
  | .recput _ => s.releaseReady a
  | .seal i => !(s.msgs.any (fun m => m.isSeal && trefInst m.tref == i.toNat))
  | .tret 0 => c.w.all (fun w => w.st != .running)
  | .tret _ => tile.mx.ent.toList.all (fun e => e.sid != a.sid || !e.busy)
  | .idle => false
  | _ => true

/-- `STRAND_UNBLOCK`: a blocked strand becomes ready; it resumes at the instruction that blocked. -/
def execStrandUnblock (who : Agent) (s : State) : Out :=
  match s.waitOf who with
  | none => .next s
  | some w => .next (if s.runs who.sid && s.waitOver who w then s.updSeqOf who (fun q => { q with woken := true }) else s)

/-! ## Issue (02: R54) -/

/-- Registers that operations in the summary engine will still write (05: R157). -/
def State.resultsDue (s : State) (sid : Nat) : List (BitVec 5) :=
  ((s.tile (sidTile sid)).sums.filter (fun o => o.sid == sid)).flatMap (fun o => o.regs.map (·.1))

/-- The instruction at the sequencer's index. -/
def Seq.here (q : Seq) : Option Ins := if q.fetched then q.block[q.idx]? else none

/-- The instruction there. -/
def Seq.instr (q : Seq) : Option Instr := q.here.bind (fun i => decode? i.raw)

/-- Its registers are not waiting for a result. -/
def State.sourcesReady (s : State) (a : Agent) : Bool :=
  match ((s.strand a.sid).core.seq a.e).instr with
  | none => true
  | some i => !a.e || (gRegs i).all (fun r => r == 0 || !((s.resultsDue a.sid).contains r))

def isTret (i : Option Instr) : Bool :=
  match i with
  | some .tret => true
  | some .tretSkip => true
  | _ => false

/-- The strand's last `TRET`, in the cycle of a save request: the exit wins (18: R383). -/
def State.lastTret (s : State) (a : Agent) : Bool :=
  let t := s.strand a.sid
  t.scstate == 4 && t.saveReq == some s.cycle && (t.core.seq (!a.e)).exited && isTret (t.core.seq a.e).instr

/-- A sequencer that could issue: the strand runs, and during a single step only the named sequencers do (20: R424). -/
def State.canIssue (s : State) (a : Agent) : Bool :=
  let t := s.strand a.sid
  let q := t.core.seq a.e
  (a.sid < 4096 || (a.sid < 4112 && !a.e)) && (t.scstate == 1 || s.lastTret a) && !q.exited && (q.wait.isNone || q.woken) &&
    (!(t.stepA || t.stepE) || (if a.e then t.stepE else t.stepA)) && s.sourcesReady a

/-- The wait of an instruction inside its channel work: a token or a wave. -/
def chanBusy (w : Option Wait) : Bool :=
  match w with
  | some (.chan _ _ _ _) => true
  | some (.wave _ _) => true
  | some (.waveOut _ _) => true
  | some (.accRow _) => true
  | _ => false

/-- A blocked instruction that holds E: an `MWAIT` or `MRADD` that waits, and an `MSEND` until its last token is accepted (12: R289-R291). -/
def Seq.holds (q : Seq) : Bool :=
  q.wait == some .mwait || (chanBusy q.wait && match q.instr with
    | some (.msend _ _ _ _) => true
    | _ => false)

/-- It has not left its block. -/
def State.keeps (s : State) (a : Agent) : Bool :=
  let t := s.strand a.sid
  let q := t.core.seq a.e
  t.scstate == 1 && !q.exited && q.fetched && (q.wait.isNone || q.holds)

/-- The slot whose turn it is: the current one while it is inside a block, otherwise the next ready one in ascending order. -/
def State.turnOf (s : State) (tile : Nat) (e : Bool) : Option Nat :=
  let t := s.tile tile
  let cur := if e then t.curE else t.curA
  let sl (n : Nat) : Agent := ⟨n * 1024 + tile, e⟩
  if (if e then t.holdE else t.holdA) && s.keeps (sl cur) then (if s.canIssue (sl cur) then some cur else none)
  else ((List.range 4).map (fun i => (cur + 1 + i) % 4)).find? (fun n => s.canIssue (sl n))

/-- Another strand of the tile has issued on the sequencer in this cycle. -/
def State.usedByOther (s : State) (a : Agent) : Bool :=
  let t := s.tile (sidTile a.sid)
  match (if a.e then t.usedE else t.usedA) with
  | some (n, c) => n != sidSlot a.sid && c == s.cycle
  | none => false

/-- The agent may move now; a service core not before the writes that it has made take effect (17: R354). -/
def State.mayIssue (s : State) (a : Agent) : Bool :=
  s.canIssue a && (if isCore a then (s.coreRegs (coreNo a)).regq.isEmpty else (s.turnOf (sidTile a.sid) a.e == some (sidSlot a.sid) && !s.usedByOther a))

/-- The tile's sequencer is with the agent's slot. -/
def State.begin (s : State) (a : Agent) : State :=
  let s : State := { s with cur := a }
  if isCore a then s
  else
    let u : Option (Nat × Word) := some (sidSlot a.sid, s.cycle)
    s.updTile (sidTile a.sid) (fun t =>
      if a.e then { t with curE := sidSlot a.sid, holdE := true, usedE := u } else { t with curA := sidSlot a.sid, holdA := true, usedA := u })

/-- What an agent's turn is. -/
inductive Turn where
  | none
  | run (i : Instr) (s : State)
  | stopWave (s : State)

/-- A source strand told to stop emits its wave after its current instruction: this sequencer stands between instructions, and the other one
is not inside a channel instruction (20: R422). -/
def State.stopDue (s : State) (a : Agent) : Bool :=
  let t := s.strand a.sid
  t.stopFlag && (s.recvEnds a.sid).isEmpty && (t.core.seq a.e).wait.isNone && !chanBusy (t.core.seq (!a.e)).wait

/-- An instruction of A that names a register which a load has yet to write comes after that load. -/
def State.regOrder (s : State) (a : Agent) (i : Instr) : State :=
  if !a.e && (s.strand a.sid).loads.any (fun l => match l.dst with
    | .reg d _ => (gRegs i).contains d
    | .queue _ => false) then s.settleLoads a.sid
  else s

/-- The turn of `a`: the instruction at its index, or the entry to its block. -/
def State.turn (s : State) (a : Agent) : Turn :=
  if !s.mayIssue a then .none
  else
    let s := s.begin a
    if s.stopDue a then .stopWave s
    else match s.seq.instr with
      | some i => .run i (s.regOrder a i)
      | none => .run .blockEntry (s.updSeq (fun q => { q with fetched := false }))

/-- The stop wave of a source strand, which parks directly after it. -/
def State.stopWave (s : State) : Out :=
  let x := (s.waveCut s.sid true none).1
  .next ((x.updMe (fun t => { t with stopFlag := false })).parkBreak s.cur (x.core.spanno.setWidth 64))

/-- A single step ends with its block, or where it blocks: the instruction is tried again when the strand is resumed (20: R424). -/
def State.stepCheck (s : State) (a : Agent) : State :=
  let t := s.strand a.sid
  let q := t.core.seq a.e
  if !(if a.e then t.stepE else t.stepA) then s
  else if t.scstate != 1 then s.updStrand a.sid (fun t => { t with stepA := false, stepE := false })
  else if q.fetched && q.wait.isNone && !q.exited then s
  else (s.updSeqOf a (fun q => { q with woken := q.wait.isSome })).stepEnd a

/-- What follows the issue of an instruction. -/
def State.afterIssue (s : State) (a : Agent) : State := (s.parkOnFault a.sid).stepCheck a

/-! ## A placed instruction (log 18) -/

/-- Where an instruction is placed: service core 0 for its own opcodes, otherwise slot 0 of tile 0, on E where only E may run it. -/
def placeOf (r : Raw) : Agent := if opcCore r.opc then ⟨4096, false⟩ else ⟨0, opcEOnly r.opc⟩

/-- The sequencer of `a` stands before the one instruction of a block that has passed its checks, it is its turn, and the agenda
begins with it. -/
def State.placeIns (s : State) (a : Agent) (r : Raw) : State :=
  let s := s.updSeqOf a (fun q => { q with
    fetched := true, block := [⟨r, q.pc, 0⟩], next := q.pc + 64, idx := 0, pending := none, wait := none, woken := false, exited := false })
  let s := s.updStrand a.sid (fun t => { t with scstate := 1, stopFlag := false, stepA := false, stepE := false })
  let s := if isCore a then s else s.updTile (sidTile a.sid) (fun t => { t with
    curA := if a.e then t.curA else 0, holdA := t.holdA || !a.e, curE := if a.e then 0 else t.curE, holdE := t.holdE || a.e,
    usedA := none, usedE := none,
    sums := t.sums.filter (fun o => o.sid != a.sid) })
  { s with agenda := .issue a false :: s.agenda }

/-! ## The cycle -/

/-- A channel end's counters at the end of a cycle (20: R419). -/
def ChEnd.endCycle (e : ChEnd) (c : Chan) : ChEnd :=
  let send := e.dir == 1
  let full := if send then !c.room 1 else c.slots ≤ c.tokens.length
  let empty := if send then c.tokens.isEmpty else c.view.isEmpty
  let e' :=
    if e.dir == 0 then e
    else if e.moved then { e with cMove := ctrAdd e.cMove 1 }
    else if full then { e with cFull := ctrAdd e.cFull 1 }
    else if empty then { e with cEmpty := ctrAdd e.cEmpty 1 }
    else e
  { e' with moved := false }

def Strand.endCycle (t : Strand) (s : State) : Strand :=
  if t.scstate == 0 then t else { t with core := { t.core with c := t.core.c.map (fun e => e.endCycle (s.chan e.chan)) } }

/-- The end of the cycle: channel counters, the writes of service cores, the wrap notes of counters, what was posted to the outside. -/
def State.endCycle (s : State) : State :=
  let s : State := { s with strands := s.strands.map (fun p => (p.1, p.2.endCycle s)) }
  let s := (List.range 16).foldl State.applyRegs s
  { s with
    tiles := s.tiles.map (fun p => (p.1, { p.2 with setNow := [], newNow := [], cecnt := ctrTick p.2.cecnt }))
    pitches := s.pitches.map (fun p => (p.1, { p.2 with
      pstale := ctrTick p.2.pstale, pexcess := ctrTick p.2.pexcess, ptrdrop := ctrTick p.2.ptrdrop }))
    outbox := [] }

/-- Ports with a header in front, or one behind it. -/
def State.waitingPorts (s : State) : List Nat :=
  (s.ingress.filter (fun p => p.2.st != .idle || p.2.waiting.isSome)).map (·.1)

/-! ### What a rule sets to a cycle (log 1)

Time-outs, wakes and engine steps are events that do nothing before their time. Those that may be due in a cycle are put into its agenda: what
a rule lets happen no later than a cycle happens in it. -/

/-- What ends the wait of a sequencer. -/
def wakesOf (a : Agent) (w : Wait) : Due :=
  match w with
  | .sleep _ => .sleepcWake a
  | .ticket _ _ => .cpywWake a
  | _ => .unblock a

/-- What ends it with nothing to show: a cycle in which the release or the answer still comes is within the limit (10: R251, 13: R321). -/
def timesOut (a : Agent) (w : Wait) : List Due :=
  match w with
  | .bar _ => [.barTimeout a]
  | .drain _ => [.drainTimeout a]
  | _ => []

def State.seqDue (s : State) (a : Agent) : List Due := (s.waitOf a).toList.map (wakesOf a)
def State.seqLate (s : State) (a : Agent) : List Due := (s.waitOf a).toList.flatMap (timesOut a)

/-- A strand: its waits, a save that is to be forced, its gated walkers, which take a bit before the sequencer does (02: R68). DESIGN CHOICE
(log 71): of two walkers of a strand that both have a complete group the lower number is offered first; R68 orders a walker and the sequencer
only. -/
def State.strandDue (s : State) (p : Nat × Strand) : List Due :=
  s.seqDue ⟨p.1, false⟩ ++ s.seqDue ⟨p.1, true⟩ ++ (if p.2.scstate == 4 then [.saveForced p.1] else []) ++
    ((List.range 8).filter (fun w => ((p.2.core.w.toList.getD w .empty).req).isSome)).map (Due.gatedGroup p.1)

/-- The swap at the head of a port's queue whose quiet point is reached (19: R395). -/
def Link.quiet (l : Link) : Option Nat :=
  match l.swaps with
  | x :: _ => if x.acked && x.seqNo ≤ (if x.mine then l.rxNext else l.txNext) then some x.fibre else none
  | [] => none

/-- A link: resends over a viaduct of the free choice, failures, an old key, a quiet point. -/
def State.linkDue (s : State) (p : Nat × Link) : List Due :=
  let up := s.upLinks ((p.1 - 32) / 6)
  p.2.unacked.map (fun f => Due.flitResend p.1 f.seqNo f.back (up.getD ((s.free (2 ^ 74 + p.1 + f.seqNo)).toNat % max 1 up.length) 0)) ++
    (if p.2.unacked.isEmpty then [] else [.viaductDown p.1, .replayWindow p.1]) ++
    (if p.2.prev.isSome then [.previousKey p.1] else []) ++ (if p.2.goBy.isSome then [.portGo p.1] else []) ++
    p.2.quiet.toList.map (Due.quietPoint p.1)

/-- What comes first in a cycle: wires release before the strands that wait for them look. -/
def State.dueFirst (s : State) : List Move :=
  let wires : List Due := s.rows.flatMap (fun p => [.wireRelease (p.1 / 16) (p.1 % 16) false, .meshColumn (p.1 / 16) (p.1 % 16)]) ++
    s.cols.map (fun p => .wireRelease (p.1 / 16) (p.1 % 16) true)
  let pod : List Due := s.podOut.map (fun p => .podReplyTimeout p.1) ++ (List.range s.msgs.length).reverse.map .lost ++
    s.posts.map (fun p => .matchTimeout p.1) ++ s.chunks.map (fun p => .chunkRedo (p.1 / 16384) (p.1 % 1024))
  let disp : List Due := if s.recs.isEmpty then [] else (List.range 4).flatMap (fun d => [.decision d, .starvation d])
  let cap : List Due := if s.cap == 0 then [] else [.capRaise]
  let held : List Due := if s.heldPkts.any s.heldOld then [.heldLate] else []
  (wires ++ s.strands.flatMap s.strandDue ++ pod ++ disp ++ s.links.flatMap s.linkDue ++ held ++ cap).map Move.due

/-- The entries of a matrix engine in issue order. -/
def Matrix.insertEntry (m : Matrix) (i : Nat) : List Nat → List Nat
  | [] => [i]
  | j :: r => if (m.entry i).seqNo < (m.entry j).seqNo then i :: j :: r else j :: m.insertEntry i r
def Matrix.inOrder (m : Matrix) : List Nat := ((List.range 8).filter (fun i => (m.entry i).busy)).foldr m.insertEntry []

/-- The engines of a tile: they act on what the cycle leaves (02: R75, R78; 12: R283). -/
def tileDue (p : Nat × Tile) : List Due :=
  let l := p.2.mx.inOrder
  l.map (Due.accumulator p.1) ++ l.map (Due.mldbGranule p.1) ++ l.map (Due.mmaRow p.1) ++
    ((List.range 4).filter (fun c => (p.2.chainOwner.toList.getD c none).isSome)).map (Due.chainResult p.1)

/-- What comes last in a cycle: the engines, and what did not come in time. -/
def State.dueLast (s : State) : List Move :=
  (s.tiles.flatMap tileDue ++ s.strands.flatMap (fun p => s.seqLate ⟨p.1, false⟩ ++ s.seqLate ⟨p.1, true⟩)).map Move.due

/-- Running strands with a faulted walker park once they are blocked on its target (02: R71). -/
def State.parkFaulted (s : State) : State :=
  ((s.strands.filter (fun p => p.2.scstate == 1 && p.2.core.w.toList.any (fun w => w.st == .faulted))).map (·.1)).foldl State.parkOnFault s

/-- `TICK` (00: R3): CYCLE advances, ports take their turn, a relayed request of an old circuit group ends, and the agenda of the new cycle
stands (log 1). -/
def execTick (s : State) : Out :=
  let s := s.endCycle
  let s := ({ s with cycle := s.cycle + 1 }).clockTick
  let s := s.waitingPorts.foldl State.portCycle s
  let s := ((s.cores.filter (fun c => c.2.relayed.isSome)).map (·.1)).foldl State.checkRelay s
  let s := s.parkFaulted
  .next { s with agenda := s.dueFirst ++ nextMoves s.freeCtr ++ s.dueLast, freeCtr := s.freeCtr + 1 }

/-- It is the event of the opcode table. -/
def runDue (d : Due) (s : State) : Out :=
  match d with
  | .unblock a => execStrandUnblock a s
  | .sleepcWake a => execSleepcWake a s
  | .cpywWake a => execCpywWake a s
  | .barTimeout a => execBarTimeout a s
  | .drainTimeout a => execDrainTimeout a s
  | .saveForced sid => execSaveForced sid s
  | .gatedGroup sid w => execGatedGroupRelease sid w s
  | .wireRelease die wire col => execWireRelease die wire col s
  | .meshColumn die row => execMeshColumnArrival die row s
  | .podReplyTimeout id => execPodReplyTimeout id s
  | .lost m => execLost m s
  | .matchTimeout post => execReceiveMatchTimeout post s
  | .chunkRedo gid c => execChunkRedo gid ⟨c, none⟩ s
  | .decision die => execDispatchDecision die s
  | .starvation die => execStarvationReservation die s
  | .flitResend link n back onto => execFlitResend link ⟨n, back, false, onto⟩ s
  | .viaductDown k => execViaductDown k s
  | .replayWindow k => execReplayWindowExceeded k s
  | .previousKey k => execPreviousKeyExpiry k s
  | .capRaise => execPowerCapRaise s
  | .portGo k => execPortGo k s
  | .quietPoint k f => execQuietPoint k f s
  | .heldLate => .next s.dropHeldLate
  | .accumulator t e => execAccumulatorUpdate t e s
  | .mldbGranule t e => execMldbGranuleRead t e s
  | .mmaRow t e => execMmaRowFire t e s
  | .chainResult t c => execChainResult t c s

/-- A translation structure takes up a leaf (18: R376, R377): never one of a walk that faults. -/
def State.fillTlb (s : State) (die : Nat) (ptag : BitVec 12) (page : Nat) : State :=
  match s.leafNow ptag.toNat (page * 65536) with
  | .error _ => s
  | .ok (e, _, size) =>
    match s.translate die ptag.toNat (page * 65536) ⟨false, false, false⟩ with
    | .error _ => s
    | .ok _ => { s with tlb := ⟨die, ptag, page, size, e⟩ :: s.tlb.filter (fun t => !(t.die == die && t.ptag == ptag && t.page == page)) }

/-- An event is a step without an encoding; a block is entered by the sequencer's own turn. -/
def isEvent (i : Instr) : Bool := (encode i).isNone && i != .blockEntry

/-- A load that issues in this move may be performed later (log 16). -/
def Move.late (m : Move) : Bool :=
  match m with
  | .issue _ b => b
  | .event _ b => b
  | _ => false

/-- The next move leaves the agenda; a new step has new free values (log 2). -/
def State.nextMove (s : State) (m : Move) (l : List Move) : State := { s with agenda := l, freeCtr := s.freeCtr + 1, late := m.late }

/-! ## Requests of other modules (06: R170-R172, R158; 01: R20) -/

def execPodRequest (r : PodReq) (s : State) : Out :=
  match r with
  | .access src srcNo pitch inc kind addr size val cmp aop =>
    .next (s.podServe src srcNo.toNat pitch inc kind.toNat addr (podSize size) val cmp aop.toNat)
  | .decrement tref amt skip ptag =>
    .next { s with msgs := s.msgs ++ [⟨false, tref &&& ~~~0x1F#64, amt, skip, ptag, s.cycle, 1040 + recDie (trefKey tref), recDie (trefKey tref), none⟩] }
  | .truss src gid gen chunk phase ptag pay => .next (s.trussMsg src.toNat gid.toNat gen chunk phase.toNat ptag pay)
  | .forward src target srcNo kind ptag data => .next (s.forwardPkt src target srcNo.toNat kind.toNat ptag data)
  | .group gid tag op gen endp members on => .next (s.groupMsg gid.toNat tag.toNat op.toNat gen endp members on)
  | .answer src core status result => .next (s.answered core.toNat src.toNat status.toNat result)

end Sys2Proof.Machine
end

