-- ==== Sys2Proof/Machine/Dispatch.lean ====
section
/-! DEFINITION. Dispatch.lean: one arm per constructor of Instr, each a direct call of its meaning. -/

namespace Sys2Proof.Machine

def exec (i : Instr) (s : State) : Host.Outcome State Fault Refusal :=
  match i with
  | .br imm => Sys2Proof.Machine.execBr imm s
  | .brReg a => Sys2Proof.Machine.execBrReg a s
  | .brz a imm => Sys2Proof.Machine.execBrz a imm s
  | .brnz a imm => Sys2Proof.Machine.execBrnz a imm s
  | .brbq imm => Sys2Proof.Machine.execBrbq imm s
  | .brbqZ imm => Sys2Proof.Machine.execBrbqZ imm s
  | .call d imm => Sys2Proof.Machine.execCall d imm s
  | .callReg d a => Sys2Proof.Machine.execCallReg d a s
  | .ret n => Sys2Proof.Machine.execRet n s
  | .loopb d imm => Sys2Proof.Machine.execLoopb d imm s
  | .pushbq n => Sys2Proof.Machine.execPushbq n s
  | .pushbqNz n => Sys2Proof.Machine.execPushbqNz n s
  | .sleepc n => Sys2Proof.Machine.execSleepc n s
  | .sleepcRel n => Sys2Proof.Machine.execSleepcRel n s
  | .traps n => Sys2Proof.Machine.execTraps n s
  | .brk n => Sys2Proof.Machine.execBrk n s
  | .ill n => Sys2Proof.Machine.execIll n s
  | .add d a b => Sys2Proof.Machine.execAdd d a b s
  | .sub d a b => Sys2Proof.Machine.execSub d a b s
  | .mul d a b => Sys2Proof.Machine.execMul d a b s
  | .mulh d a b => Sys2Proof.Machine.execMulh d a b s
  | .mulhn d a b => Sys2Proof.Machine.execMulhn d a b s
  | .div d a b => Sys2Proof.Machine.execDiv d a b s
  | .divn d a b => Sys2Proof.Machine.execDivn d a b s
  | .rem d a b => Sys2Proof.Machine.execRem d a b s
  | .remn d a b => Sys2Proof.Machine.execRemn d a b s
  | .and d a b => Sys2Proof.Machine.execAnd d a b s
  | .or d a b => Sys2Proof.Machine.execOr d a b s
  | .xor d a b => Sys2Proof.Machine.execXor d a b s
  | .andn d a b => Sys2Proof.Machine.execAndn d a b s
  | .shl d a b => Sys2Proof.Machine.execShl d a b s
  | .shr d a b => Sys2Proof.Machine.execShr d a b s
  | .sar d a b => Sys2Proof.Machine.execSar d a b s
  | .ror d a b => Sys2Proof.Machine.execRor d a b s
  | .min d a b => Sys2Proof.Machine.execMin d a b s
  | .max d a b => Sys2Proof.Machine.execMax d a b s
  | .minn d a b => Sys2Proof.Machine.execMinn d a b s
  | .maxn d a b => Sys2Proof.Machine.execMaxn d a b s
  | .cmp d cc a b => Sys2Proof.Machine.execCmp d cc a b s
  | .sel d a b c => Sys2Proof.Machine.execSel d a b c s
  | .clz d a => Sys2Proof.Machine.execClz d a s
  | .popc d a => Sys2Proof.Machine.execPopc d a s
  | .bext d a lo len => Sys2Proof.Machine.execBext d a lo len s
  | .bextS d a lo len => Sys2Proof.Machine.execBextS d a lo len s
  | .bins d a lo len => Sys2Proof.Machine.execBins d a lo len s
  | .exts d a n => Sys2Proof.Machine.execExts d a n s
  | .addi d a imm => Sys2Proof.Machine.execAddi d a imm s
  | .andi d a imm => Sys2Proof.Machine.execAndi d a imm s
  | .ori d a imm => Sys2Proof.Machine.execOri d a imm s
  | .xori d a imm => Sys2Proof.Machine.execXori d a imm s
  | .shli d a n => Sys2Proof.Machine.execShli d a n s
  | .shri d a n => Sys2Proof.Machine.execShri d a n s
  | .sari d a n => Sys2Proof.Machine.execSari d a n s
  | .cmpi d cc a imm => Sys2Proof.Machine.execCmpi d cc a imm s
  | .li d imm => Sys2Proof.Machine.execLi d imm s
  | .lil d imm => Sys2Proof.Machine.execLil d imm s
  | .mov d a => Sys2Proof.Machine.execMov d a s
  | .addsat d a b => Sys2Proof.Machine.execAddsat d a b s
  | .addsatN d a b => Sys2Proof.Machine.execAddsatN d a b s
  | .madd d a b c => Sys2Proof.Machine.execMadd d a b c s
  | .lea d a imm => Sys2Proof.Machine.execLea d a imm s
  | .leaLabel d imm => Sys2Proof.Machine.execLeaLabel d imm s
  | .fadd d a b => Sys2Proof.Machine.execFadd d a b s
  | .fsub d a b => Sys2Proof.Machine.execFsub d a b s
  | .fmul d a b => Sys2Proof.Machine.execFmul d a b s
  | .ffma d a b c => Sys2Proof.Machine.execFfma d a b c s
  | .fdiv d a b => Sys2Proof.Machine.execFdiv d a b s
  | .fsqrt d a => Sys2Proof.Machine.execFsqrt d a s
  | .fmin d a b => Sys2Proof.Machine.execFmin d a b s
  | .fmax d a b => Sys2Proof.Machine.execFmax d a b s
  | .fcmp d cc a b => Sys2Proof.Machine.execFcmp d cc a b s
  | .fcvt d a src dst mode => Sys2Proof.Machine.execFcvt d a src dst mode s
  | .fclass d a => Sys2Proof.Machine.execFclass d a s
  | .fsgn d op a b => Sys2Proof.Machine.execFsgn d op a b s
  | .wcfg d w a => Sys2Proof.Machine.execWcfg d w a s
  | .wgo d w => Sys2Proof.Machine.execWgo d w s
  | .whalt w => Sys2Proof.Machine.execWhalt w s
  | .wstat d w selx => Sys2Proof.Machine.execWstat d w selx s
  | .widx d w lvl a => Sys2Proof.Machine.execWidx d w lvl a s
  | .ld d a imm => Sys2Proof.Machine.execLd d a imm s
  | .ldSized d a sz disp => Sys2Proof.Machine.execLdSized d a sz disp s
  | .st d a imm => Sys2Proof.Machine.execSt d a imm s
  | .stSized d a sz disp => Sys2Proof.Machine.execStSized d a sz disp s
  | .ldv q a disp => Sys2Proof.Machine.execLdv q a disp s
  | .stv q a disp => Sys2Proof.Machine.execStv q a disp s
  | .febClr a b => Sys2Proof.Machine.execFebClr a b s
  | .febSet a b => Sys2Proof.Machine.execFebSet a b s
  | .waitf a b => Sys2Proof.Machine.execWaitf a b s
  | .aadd d w a b ord scope disp => Sys2Proof.Machine.execAadd d w a b ord scope disp s
  | .amin d w a b ord scope disp => Sys2Proof.Machine.execAmin d w a b ord scope disp s
  | .amax d w a b ord scope disp => Sys2Proof.Machine.execAmax d w a b ord scope disp s
  | .aminn d w a b ord scope disp => Sys2Proof.Machine.execAminn d w a b ord scope disp s
  | .amaxn d w a b ord scope disp => Sys2Proof.Machine.execAmaxn d w a b ord scope disp s
  | .aand d w a b ord scope disp => Sys2Proof.Machine.execAand d w a b ord scope disp s
  | .aor d w a b ord scope disp => Sys2Proof.Machine.execAor d w a b ord scope disp s
  | .axor d w a b ord scope disp => Sys2Proof.Machine.execAxor d w a b ord scope disp s
  | .aswp d w a b ord scope disp => Sys2Proof.Machine.execAswp d w a b ord scope disp s
  | .acas d w a b c ord scope disp => Sys2Proof.Machine.execAcas d w a b c ord scope disp s
  | .aincb d w a b ord scope disp => Sys2Proof.Machine.execAincb d w a b ord scope disp s
  | .afadd d a b ord scope disp => Sys2Proof.Machine.execAfadd d a b ord scope disp s
  | .ldacq d a sz scope => Sys2Proof.Machine.execLdacq d a sz scope s
  | .strel d a sz scope => Sys2Proof.Machine.execStrel d a sz scope s
  | .fence kind scope => Sys2Proof.Machine.execFence kind scope s
  | .cpy d a disp => Sys2Proof.Machine.execCpy d a disp s
  | .cpym d a disp => Sys2Proof.Machine.execCpym d a disp s
  | .cpyw n => Sys2Proof.Machine.execCpyw n s
  | .cpyq d a disp q => Sys2Proof.Machine.execCpyq d a disp q s
  | .cpyc d a disp h => Sys2Proof.Machine.execCpyc d a disp h s
  | .qpush q a => Sys2Proof.Machine.execQpush q a s
  | .qpop d q => Sys2Proof.Machine.execQpop d q s
  | .bqpop n => Sys2Proof.Machine.execBqpop n s
  | .sems h => Sys2Proof.Machine.execSems h s
  | .semsRemote h a => Sys2Proof.Machine.execSemsRemote h a s
  | .semw h => Sys2Proof.Machine.execSemw h s
  | .barh d a b => Sys2Proof.Machine.execBarh d a b s
  | .barw a => Sys2Proof.Machine.execBarw a s
  | .cyc n => Sys2Proof.Machine.execCyc n s
  | .csend c va => Sys2Proof.Machine.execCsend c va s
  | .crecv vd c => Sys2Proof.Machine.execCrecv vd c s
  | .crecvS vd c b => Sys2Proof.Machine.execCrecvS vd c b s
  | .cpeek vd c b => Sys2Proof.Machine.execCpeek vd c b s
  | .cclose c => Sys2Proof.Machine.execCclose c s
  | .cstat d c selx => Sys2Proof.Machine.execCstat d c selx s
  | .cerr d c => Sys2Proof.Machine.execCerr d c s
  | .pld d b a sz disp => Sys2Proof.Machine.execPld d b a sz disp s
  | .pst b a c sz disp => Sys2Proof.Machine.execPst b a c sz disp s
  | .patom d w b a c e aop ord scope disp => Sys2Proof.Machine.execPatom d w b a c e aop ord scope disp s
  | .drain d a => Sys2Proof.Machine.execDrain d a s
  | .xpost d a disp => Sys2Proof.Machine.execXpost d a disp s
  | .xcq d a => Sys2Proof.Machine.execXcq d a s
  | .xcqW d a => Sys2Proof.Machine.execXcqW d a s
  | .xcong d c a => Sys2Proof.Machine.execXcong d c a s
  | .tdec a amt => Sys2Proof.Machine.execTdec a amt s
  | .tdecSkip a amt => Sys2Proof.Machine.execTdecSkip a amt s
  | .tinst d a b c => Sys2Proof.Machine.execTinst d a b c s
  | .tbind d a b c => Sys2Proof.Machine.execTbind d a b c s
  | .tseal n => Sys2Proof.Machine.execTseal n s
  | .recput d a b => Sys2Proof.Machine.execRecput d a b s
  | .recseal n => Sys2Proof.Machine.execRecseal n s
  | .tstat d a w => Sys2Proof.Machine.execTstat d a w s
  | .tparm d a b => Sys2Proof.Machine.execTparm d a b s
  | .tfree n => Sys2Proof.Machine.execTfree n s
  | .vadd vd va vb ty p sat => Sys2Proof.Machine.execVadd vd va vb ty p sat s
  | .vaddS vd va gb ty p sat => Sys2Proof.Machine.execVaddS vd va gb ty p sat s
  | .vsub vd va vb ty p sat => Sys2Proof.Machine.execVsub vd va vb ty p sat s
  | .vsubS vd va gb ty p sat => Sys2Proof.Machine.execVsubS vd va gb ty p sat s
  | .vmul vd va vb ty p => Sys2Proof.Machine.execVmul vd va vb ty p s
  | .vmulS vd va gb ty p => Sys2Proof.Machine.execVmulS vd va gb ty p s
  | .vfma vd va vb vc ty p => Sys2Proof.Machine.execVfma vd va vb vc ty p s
  | .vfms vd va vb vc ty p => Sys2Proof.Machine.execVfms vd va vb vc ty p s
  | .vmin vd va vb ty p => Sys2Proof.Machine.execVmin vd va vb ty p s
  | .vminS vd va gb ty p => Sys2Proof.Machine.execVminS vd va gb ty p s
  | .vmax vd va vb ty p => Sys2Proof.Machine.execVmax vd va vb ty p s
  | .vmaxS vd va gb ty p => Sys2Proof.Machine.execVmaxS vd va gb ty p s
  | .vabs vd va ty p => Sys2Proof.Machine.execVabs vd va ty p s
  | .vneg vd va ty p => Sys2Proof.Machine.execVneg vd va ty p s
  | .vand vd va vb ty p => Sys2Proof.Machine.execVand vd va vb ty p s
  | .vandS vd va gb ty p => Sys2Proof.Machine.execVandS vd va gb ty p s
  | .vor vd va vb ty p => Sys2Proof.Machine.execVor vd va vb ty p s
  | .vorS vd va gb ty p => Sys2Proof.Machine.execVorS vd va gb ty p s
  | .vxor vd va vb ty p => Sys2Proof.Machine.execVxor vd va vb ty p s
  | .vxorS vd va gb ty p => Sys2Proof.Machine.execVxorS vd va gb ty p s
  | .vshl vd va vb ty p => Sys2Proof.Machine.execVshl vd va vb ty p s
  | .vshlS vd va gb ty p => Sys2Proof.Machine.execVshlS vd va gb ty p s
  | .vshr vd va vb ty p => Sys2Proof.Machine.execVshr vd va vb ty p s
  | .vshrS vd va gb ty p => Sys2Proof.Machine.execVshrS vd va gb ty p s
  | .vsar vd va vb ty p => Sys2Proof.Machine.execVsar vd va vb ty p s
  | .vsarS vd va gb ty p => Sys2Proof.Machine.execVsarS vd va gb ty p s
  | .vcmp kd cc va vb ty p => Sys2Proof.Machine.execVcmp kd cc va vb ty p s
  | .vcmpS kd cc va gb ty p => Sys2Proof.Machine.execVcmpS kd cc va gb ty p s
  | .vsel vd va vb ty p => Sys2Proof.Machine.execVsel vd va vb ty p s
  | .vperm vd va vb ty p => Sys2Proof.Machine.execVperm vd va vb ty p s
  | .vperm2 vd va vb vc ty p => Sys2Proof.Machine.execVperm2 vd va vb vc ty p s
  | .vbcast vd ga ty p => Sys2Proof.Machine.execVbcast vd ga ty p s
  | .vbcastElem vd va i0 ty p => Sys2Proof.Machine.execVbcastElem vd va i0 ty p s
  | .vmov vd va ty p => Sys2Proof.Machine.execVmov vd va ty p s
  | .vli vd imm => Sys2Proof.Machine.execVli vd imm s
  | .vext gd va i0 ty => Sys2Proof.Machine.execVext gd va i0 ty s
  | .vextReg gd va gb ty => Sys2Proof.Machine.execVextReg gd va gb ty s
  | .vins vd ga i0 ty => Sys2Proof.Machine.execVins vd ga i0 ty s
  | .vinsReg vd ga gb ty => Sys2Proof.Machine.execVinsReg vd ga gb ty s
  | .vqin vd q => Sys2Proof.Machine.execVqin vd q s
  | .vqout q va => Sys2Proof.Machine.execVqout q va s
  | .vcvt vd va dst src mode part p => Sys2Proof.Machine.execVcvt vd va dst src mode part p s
  | .vred gd va op ty p => Sys2Proof.Machine.execVred gd va op ty p s
  | .vscan vd va op ty p => Sys2Proof.Machine.execVscan vd va op ty p s
  | .vlut vd va ch slot p => Sys2Proof.Machine.execVlut vd va ch slot p s
  | .vsf vd va fn p => Sys2Proof.Machine.execVsf vd va fn p s
  | .vdiv vd va vb ty p rm => Sys2Proof.Machine.execVdiv vd va vb ty p rm s
  | .vsqrt vd va ty p => Sys2Proof.Machine.execVsqrt vd va ty p s
  | .vchain d ch a o => Sys2Proof.Machine.execVchain d ch a o s
  | .vrun qd qa gb ch => Sys2Proof.Machine.execVrun qd qa gb ch s
  | .vrunVec vd va ch p => Sys2Proof.Machine.execVrunVec vd va ch p s
  | .vkop kd ka kb op => Sys2Proof.Machine.execVkop kd ka kb op s
  | .vkmov d a op => Sys2Proof.Machine.execVkmov d a op s
  | .vclip vd va vb vc ty p => Sys2Proof.Machine.execVclip vd va vb vc ty p s
  | .vclipS vd va gb gc ty p => Sys2Proof.Machine.execVclipS vd va gb gc ty p s
  | .vscale vd va vb ty p => Sys2Proof.Machine.execVscale vd va vb ty p s
  | .vscaleS vd va gb ty p => Sys2Proof.Machine.execVscaleS vd va gb ty p s
  | .vmaxe vd va p => Sys2Proof.Machine.execVmaxe vd va p s
  | .vmaxeAcc vd va p => Sys2Proof.Machine.execVmaxeAcc vd va p s
  | .vqnt vd va vb p => Sys2Proof.Machine.execVqnt vd va vb p s
  | .vqntCls vd va vb p => Sys2Proof.Machine.execVqntCls vd va vb p s
  | .vdqnt vd va vb part ty p => Sys2Proof.Machine.execVdqnt vd va vb part ty p s
  | .vhash vd va gb ty p => Sys2Proof.Machine.execVhash vd va gb ty p s
  | .vsort vd va idx ty p => Sys2Proof.Machine.execVsort vd va idx ty p s
  | .vsortD vd va idx ty p => Sys2Proof.Machine.execVsortD vd va idx ty p s
  | .vcompr vd va ty p => Sys2Proof.Machine.execVcompr vd va ty p s
  | .vexpnd vd va ty p => Sys2Proof.Machine.execVexpnd vd va ty p s
  | .mldb d pb a ty stride => Sys2Proof.Machine.execMldb d pb a ty stride s
  | .mma d ab pb a ty arow n astride kblk => Sys2Proof.Machine.execMma d ab pb a ty arow n astride kblk s
  | .mzero ab a b => Sys2Proof.Machine.execMzero ab a b s
  | .mscale va which => Sys2Proof.Machine.execMscale va which s
  | .mrd vd ab ga q p => Sys2Proof.Machine.execMrd vd ab ga q p s
  | .mwr ab ga q vb p => Sys2Proof.Machine.execMwr ab ga q vb p s
  | .macp src dst a b n => Sys2Proof.Machine.execMacp src dst a b n s
  | .macpAdd src dst a b n => Sys2Proof.Machine.execMacpAdd src dst a b n s
  | .mwaitE n => Sys2Proof.Machine.execMwaitE n s
  | .mstat d a => Sys2Proof.Machine.execMstat d a s
  | .msend c ab first n => Sys2Proof.Machine.execMsend c ab first n s
  | .mradd ab ga q vb p => Sys2Proof.Machine.execMradd ab ga q vb p s
  | .skinit d a b c ty size coin => Sys2Proof.Machine.execSkinit d a b c ty size coin s
  | .qsadd d ga vb p => Sys2Proof.Machine.execQsadd d ga vb p s
  | .qsmrg d a b => Sys2Proof.Machine.execQsmrg d a b s
  | .qsqry d a b => Sys2Proof.Machine.execQsqry d a b s
  | .qsrank d c a b => Sys2Proof.Machine.execQsrank d c a b s
  | .hhadd d ga vb ty p => Sys2Proof.Machine.execHhadd d ga vb ty p s
  | .hhmrg d a b => Sys2Proof.Machine.execHhmrg d a b s
  | .hhtop d a b => Sys2Proof.Machine.execHhtop d a b s
  | .dcadd d ga vb ty p => Sys2Proof.Machine.execDcadd d ga vb ty p s
  | .dcmrg d a b => Sys2Proof.Machine.execDcmrg d a b s
  | .dcest d c a => Sys2Proof.Machine.execDcest d c a s
  | .skcoin d a coin => Sys2Proof.Machine.execSkcoin d a coin s
  | .skcomp d a lvl => Sys2Proof.Machine.execSkcomp d a lvl s
  | .trsput d gid a b c => Sys2Proof.Machine.execTrsput d gid a b c s
  | .trsget d gid => Sys2Proof.Machine.execTrsget d gid s
  | .trsgetP d gid => Sys2Proof.Machine.execTrsgetP d gid s
  | .trsstat d a lvl => Sys2Proof.Machine.execTrsstat d a lvl s
  | .trsack d a => Sys2Proof.Machine.execTrsack d a s
  | .sysrd d reg => Sys2Proof.Machine.execSysrd d reg s
  | .syswr a reg => Sys2Proof.Machine.execSyswr a reg s
  | .ctxsave d a => Sys2Proof.Machine.execCtxsave d a s
  | .ctxload d a b => Sys2Proof.Machine.execCtxload d a b s
  | .tlbinv d a b => Sys2Proof.Machine.execTlbinv d a b s
  | .nop => Sys2Proof.Machine.execNop s
  | .yield => Sys2Proof.Machine.execYield s
  | .cmark => Sys2Proof.Machine.execCmark s
  | .cwaitm => Sys2Proof.Machine.execCwaitm s
  | .tret => Sys2Proof.Machine.execTret s
  | .tretSkip => Sys2Proof.Machine.execTretSkip s
  | .mwait => Sys2Proof.Machine.execMwait s
  | .trapret => Sys2Proof.Machine.execTrapret s
  | .idle => Sys2Proof.Machine.execIdle s
  | .blockEntry => Sys2Proof.Machine.execBlockEntry s
  | .strandUnblock who => Sys2Proof.Machine.execStrandUnblock who s
  | .sleepcWake who => Sys2Proof.Machine.execSleepcWake who s
  | .cpywWake who => Sys2Proof.Machine.execCpywWake who s
  | .barTimeout who => Sys2Proof.Machine.execBarTimeout who s
  | .wireRelease die wire col => Sys2Proof.Machine.execWireRelease die wire col s
  | .meshColumnArrival die row => Sys2Proof.Machine.execMeshColumnArrival die row s
  | .walkerIteration sid w => Sys2Proof.Machine.execWalkerIteration sid w s
  | .gatedGroupRelease sid w => Sys2Proof.Machine.execGatedGroupRelease sid w s
  | .scalarReadBufferExpiry tile line => Sys2Proof.Machine.execScalarReadBufferExpiry tile line s
  | .copyRowWrite c row => Sys2Proof.Machine.execCopyRowWrite c row s
  | .copyCompletion c => Sys2Proof.Machine.execCopyCompletion c s
  | .mldbGranuleRead tile entry => Sys2Proof.Machine.execMldbGranuleRead tile entry s
  | .mmaRowFire tile entry => Sys2Proof.Machine.execMmaRowFire tile entry s
  | .accumulatorUpdate tile entry => Sys2Proof.Machine.execAccumulatorUpdate tile entry s
  | .chainResult tile ch => Sys2Proof.Machine.execChainResult tile ch s
  | .summaryCompletion tile => Sys2Proof.Machine.execSummaryCompletion tile s
  | .breakpoint sid bp => Sys2Proof.Machine.execBreakpoint sid bp s
  | .decrementArrival m => Sys2Proof.Machine.execDecrementArrival m s
  | .lost m => Sys2Proof.Machine.execLost m s
  | .seal m => Sys2Proof.Machine.execSeal m s
  | .dispatchDecision die => Sys2Proof.Machine.execDispatchDecision die s
  | .starvationReservation die => Sys2Proof.Machine.execStarvationReservation die s
  | .stagingComplete rk inv => Sys2Proof.Machine.execStagingComplete rk inv s
  | .writebackDone rk inv => Sys2Proof.Machine.execWritebackDone rk inv s
  | .taskRetirement rk => Sys2Proof.Machine.execTaskRetirement rk s
  | .partialRetirement rk => Sys2Proof.Machine.execPartialRetirement rk s
  | .stagingRetry die tref => Sys2Proof.Machine.execStagingRetry die tref s
  | .scresume sid => Sys2Proof.Machine.execScresume sid s
  | .saveForced sid => Sys2Proof.Machine.execSaveForced sid s
  | .saveDone sid => Sys2Proof.Machine.execSaveDone sid s
  | .podRequest r => Sys2Proof.Machine.execPodRequest r s
  | .podReply id inc ans => Sys2Proof.Machine.execPodReply id inc ans s
  | .podReplyTimeout id => Sys2Proof.Machine.execPodReplyTimeout id s
  | .incarnationAnnouncement pkg inc => Sys2Proof.Machine.execIncarnationAnnouncement pkg inc s
  | .trussPacket n => Sys2Proof.Machine.execTrussPacket n s
  | .chunkRedo gid chunk => Sys2Proof.Machine.execChunkRedo gid chunk s
  | .uePacket post off data => Sys2Proof.Machine.execUePacket post off data s
  | .messageCompletion post status placed => Sys2Proof.Machine.execMessageCompletion post status placed s
  | .receiveMatchTimeout post => Sys2Proof.Machine.execReceiveMatchTimeout post s
  | .doorbell q tail => Sys2Proof.Machine.execDoorbell q tail s
  | .headIndexRead q => Sys2Proof.Machine.execHeadIndexRead q s
  | .read q => Sys2Proof.Machine.execRead q s
  | .write q => Sys2Proof.Machine.execWrite q s
  | .load q => Sys2Proof.Machine.execLoad q s
  | .unload q => Sys2Proof.Machine.execUnload q s
  | .launch q => Sys2Proof.Machine.execLaunch q s
  | .pcreate q => Sys2Proof.Machine.execPcreate q s
  | .pset q => Sys2Proof.Machine.execPset q s
  | .pend q => Sys2Proof.Machine.execPend q s
  | .gcreate q => Sys2Proof.Machine.execGcreate q s
  | .gfree q => Sys2Proof.Machine.execGfree q s
  | .hset q => Sys2Proof.Machine.execHset q s
  | .pin q => Sys2Proof.Machine.execPin q s
  | .join q => Sys2Proof.Machine.execJoin q s
  | .quote q => Sys2Proof.Machine.execQuote q s
  | .power q => Sys2Proof.Machine.execPower q s
  | .queueCreate q => Sys2Proof.Machine.execQueueCreate q s
  | .queueDestroy q => Sys2Proof.Machine.execQueueDestroy q s
  | .partialRedispatch q => Sys2Proof.Machine.execPartialRedispatch q s
  | .partialAbandon q => Sys2Proof.Machine.execPartialAbandon q s
  | .tile q => Sys2Proof.Machine.execTile q s
  | .reservedRequest q => Sys2Proof.Machine.execReservedRequest q s
  | .relayedRequest core src req => Sys2Proof.Machine.execRelayedRequest core src req s
  | .ingressHeader port hdr => Sys2Proof.Machine.execIngressHeader port hdr s
  | .ingressToken port tok => Sys2Proof.Machine.execIngressToken port tok s
  | .headerHoldTimeout port => Sys2Proof.Machine.execHeaderHoldTimeout port s
  | .templateAbsent port => Sys2Proof.Machine.execTemplateAbsent port s
  | .ingressTinstTimeout port => Sys2Proof.Machine.execIngressTinstTimeout port s
  | .moduleReset b => Sys2Proof.Machine.execModuleReset b s
  | .powerCapRaise => Sys2Proof.Machine.execPowerCapRaise s
  | .powerCapLower => Sys2Proof.Machine.execPowerCapLower s
  | .coldPlateLimit => Sys2Proof.Machine.execColdPlateLimit s
  | .uncorrectableError t => Sys2Proof.Machine.execUncorrectableError t s
  | .correctedError tile => Sys2Proof.Machine.execCorrectedError tile s
  | .counterWrite core reg v => Sys2Proof.Machine.execCounterWrite core reg v s
  | .pimgkey core v => Sys2Proof.Machine.execPimgkey core v s
  | .ssmemWrite core which v => Sys2Proof.Machine.execSsmemWrite core which v s
  | .swstart core v => Sys2Proof.Machine.execSwstart core v s
  | .stop core => Sys2Proof.Machine.execStop core s
  | .resume core => Sys2Proof.Machine.execResume core s
  | .scstep sid mask => Sys2Proof.Machine.execScstep sid mask s
  | .scdbga sid v => Sys2Proof.Machine.execScdbga sid v s
  | .rotate core => Sys2Proof.Machine.execRotate core s
  | .retrain core => Sys2Proof.Machine.execRetrain core s
  | .go core => Sys2Proof.Machine.execGo core s
  | .rtepochWrite v => Sys2Proof.Machine.execRtepochWrite v s
  | .registerWrite core reg v => Sys2Proof.Machine.execRegisterWrite core reg v s
  | .flit link seq key => Sys2Proof.Machine.execFlit link seq key s
  | .flitResend link seq => Sys2Proof.Machine.execFlitResend link seq s
  | .viaductDown link => Sys2Proof.Machine.execViaductDown link s
  | .replayWindowExceeded port => Sys2Proof.Machine.execReplayWindowExceeded port s
  | .sampleWindow port fibre wl cerr eye => Sys2Proof.Machine.execSampleWindow port fibre wl cerr eye s
  | .wavelengthSwapRequest port fibre wl seq fromPkg => Sys2Proof.Machine.execWavelengthSwapRequest port fibre wl seq fromPkg s
  | .quietPoint port fibre => Sys2Proof.Machine.execQuietPoint port fibre s
  | .lossOfLight port => Sys2Proof.Machine.execLossOfLight port s
  | .lightPresent port => Sys2Proof.Machine.execLightPresent port s
  | .linkLocked port pkg inc rate => Sys2Proof.Machine.execLinkLocked port pkg inc rate s
  | .trainingFailed port => Sys2Proof.Machine.execTrainingFailed port s
  | .drainAck port => Sys2Proof.Machine.execDrainAck port s
  | .tick => Sys2Proof.Machine.execTick s
  | .drainTimeout who => Sys2Proof.Machine.execDrainTimeout who s
  | .previousKeyExpiry port => Sys2Proof.Machine.execPreviousKeyExpiry port s
  | .enable core => Sys2Proof.Machine.execEnable core s
  | .ethernetPortDown port => Sys2Proof.Machine.execEthernetPortDown port s

end Sys2Proof.Machine
end

