-- ==== Sys2Proof/Machine/Step.lean ====
section
/-! DEFINITION. Step.lean: one step: the next move of the cycle's agenda, or, when it is empty, the next cycle (log 1). -/

namespace Sys2Proof.Machine

/-- What follows an instruction of `a` that has issued. -/
def afterExec (a : Agent) : Host.Outcome State Fault Refusal → Host.Outcome State Fault Refusal
  | .next s => .next (s.afterIssue a)
  | o => o

/-- The turn of sequencer `a`. -/
def issueStep (a : Agent) (s : State) : Host.Outcome State Fault Refusal :=
  match s.turn a with
  | .none => .next s
  | .run i s' => afterExec a (exec i s')
  | .stopWave s' => afterExec a s'.stopWave

/-- One move. -/
def moveStep (m : Move) (s : State) : Host.Outcome State Fault Refusal :=
  match m with
  | .issue a _ => issueStep a s
  | .perform sid k => .next (s.performAt sid k)
  | .load sid k => .next (s.performLoadAt sid k)
  | .settle k => .next (s.settleAt k)
  | .tlbFill die ptag page => .next (s.fillTlb die ptag page)
  | .event i _ => if isEvent i then exec i s else .next s
  | .due d => runDue d s

def step (s : State) : Host.Outcome State Fault Refusal :=
  match s.agenda with
  | [] => exec .tick s
  | m :: l => moveStep m (s.nextMove m l)

/-- `s` with the instruction of a table word placed where the next step takes it up (log 18). -/
def State.withFetchWord (s : State) (nbits w : Nat) : State := s.placeIns (placeOf (rawOfTableWord nbits w)) (rawOfTableWord nbits w)

end Sys2Proof.Machine
end

