-- ==== Sys2Proof/Safety.lean ====
section
/-! DEFINITION. Safety.lean: the terms of the statements: results, frames, what a state must meet. -/

namespace Sys2Proof.Machine

/-! ## Results -/

/-- The executing sequencer wrote `v` to register `d` and stands at its next instruction. -/
def State.result (s : State) (d : BitVec 5) (v : Word) : State := (s.gPut d v).adv

/-- The condition of a code of 09: R215. -/
def CcHolds (cc : Nat) (a b : Word) : Prop :=
  match cc with
  | 0 => a = b
  | 1 => a ≠ b
  | 2 => a.toInt < b.toInt
  | 3 => a.toInt ≤ b.toInt
  | 4 => b.toInt < a.toInt
  | 5 => b.toInt ≤ a.toInt
  | 6 => a.toNat < b.toNat
  | 7 => a.toNat ≤ b.toNat
  | 8 => b.toNat < a.toNat
  | _ => b.toNat ≤ a.toNat

/-! ## Frames -/

/-- Everything outside strand `sid` is as it was, every byte of memory included. -/
def State.SameOutside (s t : State) (sid : Nat) : Prop :=
  { t with strands := s.strands } = s ∧ ∀ k, k ≠ sid → Tbl.find t.strands k = Tbl.find s.strands k

/-- Only the sequencer of `a` differs. -/
def State.OnlySeq (s t : State) (a : Agent) : Prop :=
  s.SameOutside t a.sid ∧
  t.strand a.sid = { s.strand a.sid with core := (s.strand a.sid).core.setSeq a.e ((t.strand a.sid).core.seq a.e) }

/-- The registers of a sequencer that no ordinary instruction writes: the trap registers (13: R333). -/
def Seq.SameTraps (p q : Seq) : Prop :=
  q.trapVec = p.trapVec ∧ q.tcause = p.tcause ∧ q.targ = p.targ ∧ q.trline = p.trline ∧ q.tridx = p.tridx ∧
  q.trpend = p.trpend ∧ q.tscr0 = p.tscr0 ∧ q.tscr1 = p.tscr1

end Sys2Proof.Machine

namespace Sys2Proof

/-- The registers of a scalar instruction whose result is checked (02: R59, 09: R205): the sources, and the destination. -/
def Instr.scalarChecked : Instr → Option (List (BitVec 5) × BitVec 5)
  | .add d a b => some ([a, b], d)
  | .sub d a b => some ([a, b], d)
  | .mul d a b => some ([a, b], d)
  | .mulh d a b => some ([a, b], d)
  | .mulhn d a b => some ([a, b], d)
  | .shl d a b => some ([a, b], d)
  | .shr d a b => some ([a, b], d)
  | .sar d a b => some ([a, b], d)
  | .ror d a b => some ([a, b], d)
  | .mov d a => some ([a], d)
  | .addsat d a b => some ([a, b], d)
  | .addsatN d a b => some ([a, b], d)
  | .madd d a b c => some ([a, b, c], d)
  | .addi d a _ => some ([a], d)
  | .shli d a _ => some ([a], d)
  | .shri d a _ => some ([a], d)
  | .sari d a _ => some ([a], d)
  | .li d _ => some ([], d)
  | .lil d _ => some ([], d)
  | .lea d a _ => some ([a], d)
  | .leaLabel d _ => some ([], d)
  | .loopb d _ => some ([d], d)
  | _ => none

/-- The destination of a scalar instruction whose result is not checked. -/
def Instr.scalarPlain : Instr → Option (BitVec 5)
  | .div d _ _ => some d
  | .divn d _ _ => some d
  | .rem d _ _ => some d
  | .remn d _ _ => some d
  | .and d _ _ => some d
  | .or d _ _ => some d
  | .xor d _ _ => some d
  | .andn d _ _ => some d
  | .min d _ _ => some d
  | .max d _ _ => some d
  | .minn d _ _ => some d
  | .maxn d _ _ => some d
  | .cmp d _ _ _ => some d
  | .sel d _ _ _ => some d
  | .clz d _ => some d
  | .popc d _ => some d
  | .exts d _ _ => some d
  | .andi d _ _ => some d
  | .ori d _ _ => some d
  | .xori d _ _ => some d
  | .cmpi d _ _ _ => some d
  | .bext d _ _ _ => some d
  | .bextS d _ _ _ => some d
  | .bins d _ _ _ => some d
  | .fadd d _ _ => some d
  | .fsub d _ _ => some d
  | .fmul d _ _ => some d
  | .ffma d _ _ _ => some d
  | .fdiv d _ _ => some d
  | .fsqrt d _ => some d
  | .fmin d _ _ => some d
  | .fmax d _ _ => some d
  | .fcmp d _ _ _ => some d
  | .fcvt d _ _ _ _ => some d
  | .fclass d _ => some d
  | .fsgn d _ _ _ => some d
  | .cyc d => some d
  | _ => none

/-- The g registers of its own sequencer that an instruction may write: what its entry (09-13) names as a destination. -/
def Instr.gDests : Instr → List (BitVec 5)
  | .call d _ => [d]
  | .callReg d _ => [d]
  | .loopb d _ => [d]
  | .add d _ _ => [d]
  | .sub d _ _ => [d]
  | .mul d _ _ => [d]
  | .mulh d _ _ => [d]
  | .mulhn d _ _ => [d]
  | .div d _ _ => [d]
  | .divn d _ _ => [d]
  | .rem d _ _ => [d]
  | .remn d _ _ => [d]
  | .and d _ _ => [d]
  | .or d _ _ => [d]
  | .xor d _ _ => [d]
  | .andn d _ _ => [d]
  | .shl d _ _ => [d]
  | .shr d _ _ => [d]
  | .sar d _ _ => [d]
  | .ror d _ _ => [d]
  | .min d _ _ => [d]
  | .max d _ _ => [d]
  | .minn d _ _ => [d]
  | .maxn d _ _ => [d]
  | .cmp d _ _ _ => [d]
  | .sel d _ _ _ => [d]
  | .clz d _ => [d]
  | .popc d _ => [d]
  | .bext d _ _ _ => [d]
  | .bextS d _ _ _ => [d]
  | .bins d _ _ _ => [d]
  | .exts d _ _ => [d]
  | .addi d _ _ => [d]
  | .andi d _ _ => [d]
  | .ori d _ _ => [d]
  | .xori d _ _ => [d]
  | .shli d _ _ => [d]
  | .shri d _ _ => [d]
  | .sari d _ _ => [d]
  | .cmpi d _ _ _ => [d]
  | .li d _ => [d]
  | .lil d _ => [d]
  | .mov d _ => [d]
  | .addsat d _ _ => [d]
  | .addsatN d _ _ => [d]
  | .madd d _ _ _ => [d]
  | .lea d _ _ => [d]
  | .leaLabel d _ => [d]
  | .fadd d _ _ => [d]
  | .fsub d _ _ => [d]
  | .fmul d _ _ => [d]
  | .ffma d _ _ _ => [d]
  | .fdiv d _ _ => [d]
  | .fsqrt d _ => [d]
  | .fmin d _ _ => [d]
  | .fmax d _ _ => [d]
  | .fcmp d _ _ _ => [d]
  | .fcvt d _ _ _ _ => [d]
  | .fclass d _ => [d]
  | .fsgn d _ _ _ => [d]
  | .wcfg d _ _ => [d]
  | .wgo d _ => [d]
  | .wstat d _ _ => [d]
  | .widx d _ _ _ => [d]
  | .ld d _ _ => [d]
  | .ldSized d _ _ _ => [d]
  | .st d _ _ => [d]
  | .stSized d _ _ _ => [d]
  | .aadd d _ _ _ _ _ _ => [d]
  | .amin d _ _ _ _ _ _ => [d]
  | .amax d _ _ _ _ _ _ => [d]
  | .aminn d _ _ _ _ _ _ => [d]
  | .amaxn d _ _ _ _ _ _ => [d]
  | .aand d _ _ _ _ _ _ => [d]
  | .aor d _ _ _ _ _ _ => [d]
  | .axor d _ _ _ _ _ _ => [d]
  | .aswp d _ _ _ _ _ _ => [d]
  | .acas d _ _ _ _ _ _ _ => [d]
  | .aincb d _ _ _ _ _ _ => [d]
  | .afadd d _ _ _ _ _ => [d]
  | .ldacq d _ _ _ => [d]
  | .strel d _ _ _ => [d]
  | .cpy d _ _ => [d]
  | .cpym d _ _ => [d]
  | .cpyq d _ _ _ => [d]
  | .cpyc d _ _ _ => [d]
  | .qpop d _ => [d]
  | .bqpop n => [n]
  | .barh d _ _ => [d]
  | .cyc n => [n]
  | .crecvS _ _ b => [b]
  | .cpeek _ _ b => [b]
  | .cstat d _ _ => [d]
  | .cerr d _ => [d]
  | .pld d _ _ _ _ => [d]
  | .patom d _ _ _ _ _ _ _ _ _ => [d]
  | .drain d _ => [d]
  | .xpost d _ _ => [d]
  | .xcq d _ => [d]
  | .xcqW d _ => [d]
  | .xcong d c _ => [d, c]
  | .tinst d _ _ _ => [d]
  | .tbind d _ _ _ => [d]
  | .tseal n => [n]
  | .recput d _ _ => [d]
  | .recseal n => [n]
  | .tstat d _ _ => [d]
  | .tparm d _ _ => [d]
  | .tfree n => [n]
  | .vext gd _ _ _ => [gd]
  | .vextReg gd _ _ _ => [gd]
  | .vred gd _ _ _ _ => [gd]
  | .vchain d _ _ _ => [d]
  | .mldb d _ _ _ _ => [d]
  | .mma d _ _ _ _ _ _ _ _ => [d]
  | .mstat d _ => [d]
  | .skinit d _ _ _ _ _ _ => [d]
  | .qsadd d _ _ _ => [d]
  | .qsmrg d _ _ => [d]
  | .qsqry d _ _ => [d]
  | .qsrank d c _ _ => [d, c]
  | .hhadd d _ _ _ _ => [d]
  | .hhmrg d _ _ => [d]
  | .hhtop d _ _ => [d]
  | .dcadd d _ _ _ _ => [d]
  | .dcmrg d _ _ => [d]
  | .dcest d c _ => [d, c]
  | .skcoin d _ _ => [d]
  | .skcomp d _ _ => [d]
  | .trsput d _ _ _ _ => [d]
  | .trsget d _ => [d]
  | .trsgetP d _ => [d]
  | .trsstat d _ _ => [d]
  | .trsack d _ => [d]
  | .sysrd d _ => [d]
  | .ctxsave d _ => [d]
  | .ctxload d _ _ => [d]
  | .tlbinv d _ _ => [d]
  | .vkmov d _ op => if 3 ≤ op.toNat then [d] else []
  | _ => []

/-- The vector registers that an instruction may write. -/
def Instr.vDests : Instr → List (BitVec 5)
  | .crecv vd _ => [vd]
  | .crecvS vd _ _ => [vd]
  | .cpeek vd _ _ => [vd]
  | .vadd vd _ _ _ _ _ => [vd]
  | .vaddS vd _ _ _ _ _ => [vd]
  | .vsub vd _ _ _ _ _ => [vd]
  | .vsubS vd _ _ _ _ _ => [vd]
  | .vmul vd _ _ _ _ => [vd]
  | .vmulS vd _ _ _ _ => [vd]
  | .vfma vd _ _ _ _ _ => [vd]
  | .vfms vd _ _ _ _ _ => [vd]
  | .vmin vd _ _ _ _ => [vd]
  | .vminS vd _ _ _ _ => [vd]
  | .vmax vd _ _ _ _ => [vd]
  | .vmaxS vd _ _ _ _ => [vd]
  | .vabs vd _ _ _ => [vd]
  | .vneg vd _ _ _ => [vd]
  | .vand vd _ _ _ _ => [vd]
  | .vandS vd _ _ _ _ => [vd]
  | .vor vd _ _ _ _ => [vd]
  | .vorS vd _ _ _ _ => [vd]
  | .vxor vd _ _ _ _ => [vd]
  | .vxorS vd _ _ _ _ => [vd]
  | .vshl vd _ _ _ _ => [vd]
  | .vshlS vd _ _ _ _ => [vd]
  | .vshr vd _ _ _ _ => [vd]
  | .vshrS vd _ _ _ _ => [vd]
  | .vsar vd _ _ _ _ => [vd]
  | .vsarS vd _ _ _ _ => [vd]
  | .vsel vd _ _ _ _ => [vd]
  | .vperm vd _ _ _ _ => [vd]
  | .vperm2 vd _ _ _ _ _ => [vd]
  | .vbcast vd _ _ _ => [vd]
  | .vbcastElem vd _ _ _ _ => [vd]
  | .vmov vd _ _ _ => [vd]
  | .vli vd _ => [vd]
  | .vins vd _ _ _ => [vd]
  | .vinsReg vd _ _ _ => [vd]
  | .vqin vd _ => [vd]
  | .vcvt vd _ _ _ _ _ _ => [vd]
  | .vscan vd _ _ _ _ => [vd]
  | .vlut vd _ _ _ _ => [vd]
  | .vsf vd _ _ _ => [vd]
  | .vdiv vd _ _ _ _ _ => [vd]
  | .vsqrt vd _ _ _ => [vd]
  | .vrunVec vd _ _ _ => [vd]
  | .vclip vd _ _ _ _ _ => [vd]
  | .vclipS vd _ _ _ _ _ => [vd]
  | .vscale vd _ _ _ _ => [vd]
  | .vscaleS vd _ _ _ _ => [vd]
  | .vmaxe vd _ _ => [vd]
  | .vmaxeAcc vd _ _ => [vd]
  | .vqnt vd _ _ _ => [vd]
  | .vqntCls vd _ _ _ => [vd]
  | .vdqnt vd _ _ _ _ _ => [vd]
  | .vhash vd _ _ _ _ => [vd]
  | .vsort vd _ _ _ _ => [vd]
  | .vsortD vd _ _ _ _ => [vd]
  | .vcompr vd _ _ _ => [vd]
  | .vexpnd vd _ _ _ => [vd]
  | .mrd vd _ _ _ _ => [vd]
  | .vkmov d _ op => if op = 2 then [d] else []
  | _ => []

/-- The predicate registers that an instruction may write. -/
def Instr.kDests : Instr → List (BitVec 3)
  | .vcmp kd _ _ _ _ _ => [kd]
  | .vcmpS kd _ _ _ _ _ => [kd]
  | .vkop kd _ _ _ => [kd]
  | .vkmov d _ op => if op.toNat ≤ 1 then [d.setWidth 3] else []
  | _ => []

/-- The queues, semaphores and walkers of its strand that an instruction may change. -/
def Instr.queues : Instr → List (BitVec 3)
  | .ldv q _ _ => [q]
  | .stv q _ _ => [q]
  | .qpush q _ => [q]
  | .qpop _ q => [q]
  | .vqin _ q => [q]
  | .vqout q _ => [q]
  | .vrun qd qa _ _ => [qd, qa]
  | .tret => [0, 1, 2, 3, 4, 5, 6, 7]
  | .tretSkip => [0, 1, 2, 3, 4, 5, 6, 7]
  | _ => []
def Instr.sem : Instr → Option (BitVec 4)
  | .sems h => some h
  | .semsRemote h _ => some h
  | .semw h => some h
  | _ => none
def Instr.walkers : Instr → List (BitVec 3)
  | .wcfg _ w _ => [w]
  | .wgo _ w => [w]
  | .whalt w => [w]
  | .widx _ w _ _ => [w]
  | _ => []

/-- The instructions that store, or that reach memory of a range and so may fill a line anew (18: R375); the ends of a strand with them. -/
def Instr.reachesMem : Instr → Bool
  | .ld _ _ _ => true
  | .ldSized _ _ _ _ => true
  | .st _ _ _ => true
  | .stSized _ _ _ _ => true
  | .stv _ _ _ => true
  | .ldv _ _ _ => true
  | .aadd _ _ _ _ _ _ _ => true
  | .amin _ _ _ _ _ _ _ => true
  | .amax _ _ _ _ _ _ _ => true
  | .aminn _ _ _ _ _ _ _ => true
  | .amaxn _ _ _ _ _ _ _ => true
  | .aand _ _ _ _ _ _ _ => true
  | .aor _ _ _ _ _ _ _ => true
  | .axor _ _ _ _ _ _ _ => true
  | .aswp _ _ _ _ _ _ _ => true
  | .acas _ _ _ _ _ _ _ _ => true
  | .aincb _ _ _ _ _ _ _ => true
  | .afadd _ _ _ _ _ _ => true
  | .ldacq _ _ _ _ => true
  | .strel _ _ _ _ => true
  | .cpy _ _ _ => true
  | .cpym _ _ _ => true
  | .cpyq _ _ _ _ => true
  | .cpyc _ _ _ _ => true
  | .pld _ _ _ _ _ => true
  | .pst _ _ _ _ _ => true
  | .patom _ _ _ _ _ _ _ _ _ _ => true
  | .tinst _ _ _ _ => true
  | .tbind _ _ _ _ => true
  | .recput _ _ _ => true
  | .recseal _ => true
  | .xpost _ _ _ => true
  | .xcq _ _ => true
  | .xcqW _ _ => true
  | .vchain _ _ _ _ => true
  | .qsadd _ _ _ _ => true
  | .qsmrg _ _ _ => true
  | .qsqry _ _ _ => true
  | .qsrank _ _ _ _ => true
  | .hhadd _ _ _ _ _ => true
  | .hhmrg _ _ _ => true
  | .hhtop _ _ _ => true
  | .dcadd _ _ _ _ _ => true
  | .dcmrg _ _ _ => true
  | .dcest _ _ _ => true
  | .skinit _ _ _ _ _ _ _ => true
  | .skcoin _ _ _ => true
  | .skcomp _ _ _ => true
  | .tret => true
  | .tretSkip => true
  | _ => false

end Sys2Proof

namespace Sys2Proof.Machine

/-- Source bits that `FCVT` reads of a type (09: R223). -/
def fcvtWidth (t : Nat) : Nat := if t = 8 then 6 else if t = 9 then 8 else if t = 10 ∨ t = 11 then 16 else if t = 6 ∨ t = 7 then 64 else 32

end Sys2Proof.Machine

namespace Sys2Proof.Machine

/-! ## Accesses -/

/-- Only bytes of scratchpad, SRAM or a resolved range of `n` bytes at key `k` that no translation gave: one part, no key slot. -/
def State.LocalAt (s : State) (va : Word) (n : Nat) (nd : Need) (k : Nat) : Prop :=
  isCore s.cur = false ∧ s.resolve s.sid va n nd = .ok [⟨k, n, .release, none⟩]

/-- The lines of a store that were written under another key slot (18: R375). -/
def State.Refills (s : State) (ps : List Part) (a : Nat) : Prop :=
  ∃ p ∈ ps, ∃ k, p.slot = some k ∧ a / 128 ∈ p.lines ∧
    (s.foreign (a / 128) k = true ∨ ∃ p' ∈ ps, ∃ k', p'.slot = some k' ∧ k' ≠ k ∧ a / 128 ∈ p'.lines)

/-- Every byte but those at keys `k` to `k + n - 1` is as it was. -/
def State.BytesOutside (s t : State) (k n : Nat) : Prop := ∀ a, (a < k ∨ k + n ≤ a) → t.byte a = s.byte a

/-- Nothing of the executing strand is outstanding that a release waits for: on E no summary operation (05: R156), and no PST that is not
acknowledged (03: R100, R103). -/
def State.Clear (s : State) : Prop := (s.cur.e = true → s.sumsOf s.sid = []) ∧ s.pstPending s.sid = false

/-- Keys of the scratchpad of the strand's own tile. -/
def State.OwnTile (s : State) (k : Nat) : Prop := scratchKey (sidTile s.sid) 0 ≤ k ∧ k < scratchKey (sidTile s.sid + 1) 0

/-- A strand that holds nothing back: no pending store, no span store buffer. -/
def Strand.Plain (t : Strand) : Prop := t.pend = [] ∧ t.buffer = false

/-- Every load that the strand has issued is performed (log 16). -/
def Strand.Settled (t : Strand) : Prop := t.loads = [] ∧ ∀ x ∈ t.core.w.toList, x.rd = []

/-- An atomic of `n` bytes in the global part `p` completes: its register gets the old value, which is that of the strand's own newest store
there or memory's, the location `new`; no other byte changes but those of the strand's own stores; the tile keeps no copy of the line (03: R90), and
no span that the strand has open can be undone (20: R410). -/
def AtomicGlobal (s : State) (i : Instr) (d : BitVec 5) (p : Part) (new : Nat → Nat) : Prop :=
  ∃ t, exec i s = .next t ∧
    let old : Nat := natOfBytes ((keysOf [p]).map (fun a => (pendByte a s.me.pend).getD (s.byte a)))
    t.g d = (if d = 0 then 0 else BitVec.ofNat 64 old) ∧ t.rd p.key p.len = new old ∧
    (∀ a, (a < p.key ∨ p.key + p.len ≤ a) → (∀ q ∈ s.me.pend, ∀ c ∈ q.cells, c.1 ≠ a) → t.byte a = s.byte a) ∧
    (∀ e ∈ (t.tile (sidTile s.sid)).srb, e.line ∉ p.lines) ∧ (s.me.buffer = true → s.core.spanno ∈ t.me.spanBad) ∧
    t.seq.idx = s.seq.adv.idx ∧ t.seq.pc = s.seq.adv.pc ∧ ∀ r, r ≠ d → t.g r = s.g r

/-- An atomic of `n` bytes at local key `k` completes: its register gets the old value, the location `new`, nothing else changes in
memory, and the sequencer stands at its next instruction. -/
def AtomicDone (s : State) (i : Instr) (d : BitVec 5) (n k : Nat) (new : Nat → Nat) : Prop :=
  ∃ t, exec i s = .next t ∧ t.g d = (if d = 0 then 0 else BitVec.ofNat 64 (s.rd k n)) ∧ t.rd k n = new (s.rd k n) ∧
    s.BytesOutside t k n ∧ t.seq.idx = s.seq.adv.idx ∧ t.seq.pc = s.seq.adv.pc ∧ ∀ r, r ≠ d → t.g r = s.g r

end Sys2Proof.Machine

namespace Sys2Proof.Machine

/-! ## Copies -/

/-- A copy-issuing instruction at `s`, whose earlier stores are performed in `r`, takes a free slot under a generation that is not 0, starts
the copy of rows `l` with its completion action, and writes the ticket. -/
def CopyStarted (s r : State) (i : Instr) (d : BitVec 5) (l : List CpRow) (q h : Option Nat) : Prop :=
  ∃ (t : State) (slot id : Nat) (gen : BitVec 4) (prom : BitVec 56) (c : Copy), exec i s = .next t ∧ slot ∈ r.core.freeSlots ∧ gen ≠ 0 ∧
    t.g d = (if d = 0 then 0 else ticketOf slot gen prom) ∧ t.core.cps.getD slot .empty = ⟨gen, prom, some id⟩ ∧
    Tbl.find t.copies id = some c ∧ c.rows = l ∧ c.owner = .strand s.sid slot q h (ticketOf slot gen prom) ∧ t.mem = r.mem

end Sys2Proof.Machine

namespace Sys2Proof.Machine

/-! ## Vectors -/

/-- Element `j` of a v register under a type code. -/
def State.el (s : State) (r : BitVec 5) (ty : BitVec 4) (j : Nat) : Nat := elem (s.v r) (tyWidth ty.toNat) j

/-- The instruction writes `f j` to each element of `vd` that predicate `p` selects, leaves the others, and changes nothing else. -/
def VecResult (s : State) (i : Instr) (vd : BitVec 5) (ty : BitVec 4) (p : BitVec 3) (f : Nat → Nat) : Prop :=
  ∃ x : VWord, exec i s = .next (s.vPut vd x).adv ∧ ∀ j, j < tyCount ty.toNat →
    elem x (tyWidth ty.toNat) j = if (s.k p).getLsbD j then f j % 2 ^ tyWidth ty.toNat else s.el vd ty j

end Sys2Proof.Machine

namespace Sys2Proof.Machine

/-! ## Summaries -/

/-- A summary instruction issues on an engine with nothing outstanding: its operation, which will write `w` (a key and bytes) and the results
`regs`, is the engine's only one, and nothing else changes but the sequencer's advance (05: R156, R157). -/
def SumIssued (s : State) (i : Instr) (w : Option (Nat × List Byte)) (regs : List (BitVec 5 × Word)) : Prop :=
  ∃ (t : State) (o : SumOp), exec i s = .next t ∧ (t.tile (sidTile s.sid)).sums = [o] ∧ o.sid = s.sid ∧ o.regs = regs ∧
    o.cells = (match w with
      | some (k, b) => cellsAt k b
      | none => []) ∧ { t with tiles := s.tiles } = s.adv

/-- Sum over the levels of a sketch of the values at it, each at the weight of its level (05: R138, R141). -/
def levelWeight (l : Nat) : List (List Nat) → Nat
  | [] => 0
  | x :: r => x.length * 2 ^ l + levelWeight (l + 1) r

end Sys2Proof.Machine
end

