-- ==== Sys2Proof/Certificates/Slice0/Obligations.lean ====
section
/-! DEFINITION. Obligations.lean: the statements for the provers. -/

open Sys2Proof Sys2Proof.Machine

/-! ## Scalar integer (09: R205, R214-R220; 04: R113, R114) -/

/-- 09: R214, R216: the register forms that wrap, on operands whose residues agree (02: R59).
04: R114: quotients and remainders in all four cases; none traps. -/
def Obligations.IntegerArithmetic : Prop := (∀ (s : State) (d a b c : BitVec 5),
  s.seq.resOk a → s.seq.resOk b → s.seq.resOk c →
  exec (.add d a b) s = .next (s.result d (BitVec.ofNat 64 ((s.g a).toNat + (s.g b).toNat))) ∧
  exec (.sub d a b) s = .next (s.result d (BitVec.ofInt 64 ((s.g a).toInt - (s.g b).toInt))) ∧
  exec (.mul d a b) s = .next (s.result d (BitVec.ofNat 64 ((s.g a).toNat * (s.g b).toNat))) ∧
  exec (.mulh d a b) s = .next (s.result d (((s.g a).signExtend 128 * (s.g b).signExtend 128).extractLsb' 64 64)) ∧
  exec (.mulhn d a b) s = .next (s.result d (((s.g a).setWidth 128 * (s.g b).setWidth 128).extractLsb' 64 64)) ∧
  exec (.madd d a b c) s = .next (s.result d (BitVec.ofNat 64 ((s.g a).toNat * (s.g b).toNat + (s.g c).toNat))) ∧
  exec (.mov d a) s = .next (s.result d (s.g a)) ∧
  (∃ v : Word, exec (.addsat d a b) s = .next (s.result d v) ∧
    v.toInt = max (-(2 ^ 63)) (min (2 ^ 63 - 1) ((s.g a).toInt + (s.g b).toInt))) ∧
  ∃ v : Word, exec (.addsatN d a b) s = .next (s.result d v) ∧
    v.toNat = min (2 ^ 64 - 1) ((s.g a).toNat + (s.g b).toNat)) ∧
  (∀ (s : State) (d a b : BitVec 5),
  exec (.div d a b) s = .next (s.result d (if s.g b = 0 then BitVec.allOnes 64 else (s.g a).sdiv (s.g b))) ∧
  exec (.rem d a b) s = .next (s.result d (if s.g b = 0 then s.g a else (s.g a).srem (s.g b))) ∧
  exec (.divn d a b) s = .next (s.result d (if s.g b = 0 then BitVec.allOnes 64 else s.g a / s.g b)) ∧
  exec (.remn d a b) s = .next (s.result d (if s.g b = 0 then s.g a else s.g a % s.g b)))

/-- 09: R214, R216, R219: logic, bit counts and bit fields.
09: R214, R217; 04: R113: shifts by a count modulo 64, and immediate shifts.
09: R217, R220: immediates and addresses.
09: R214-R216, R218: minima, maxima, compares and the select. -/
def Obligations.IntegerBits : Prop := (∀ (s : State) (d a b : BitVec 5),
  exec (.and d a b) s = .next (s.result d (s.g a &&& s.g b)) ∧
  exec (.or d a b) s = .next (s.result d (s.g a ||| s.g b)) ∧
  exec (.xor d a b) s = .next (s.result d (s.g a ^^^ s.g b)) ∧
  exec (.andn d a b) s = .next (s.result d (s.g a &&& ~~~(s.g b))) ∧
  (∃ v : Word, exec (.clz d a) s = .next (s.result d v) ∧ v.toNat ≤ 64 ∧
    (∀ i, i < v.toNat → (s.g a).getLsbD (63 - i) = false) ∧ (v.toNat < 64 → (s.g a).getLsbD (63 - v.toNat) = true)) ∧
  (∃ v : Word, exec (.popc d a) s = .next (s.result d v) ∧
    v.toNat = ((List.range 64).filter (fun i => (s.g a).getLsbD i)).length) ∧
  (∀ n : BitVec 6, exec (.exts d a n) s = .next (s.result d (((s.g a).setWidth (n.toNat + 1)).signExtend 64))) ∧
  ∀ (lo : BitVec 6) (len : BitVec 7), 1 ≤ len.toNat → lo.toNat + len.toNat ≤ 64 →
    exec (.bext d a lo len) s = .next (s.result d ((s.g a >>> lo.toNat).setWidth len.toNat |>.setWidth 64)) ∧
    exec (.bextS d a lo len) s = .next (s.result d ((s.g a >>> lo.toNat).setWidth len.toNat |>.signExtend 64)) ∧
    ∃ v : Word, exec (.bins d a lo len) s = .next (s.result d v) ∧ ∀ i, i < 64 →
      v.getLsbD i = if lo.toNat ≤ i ∧ i < lo.toNat + len.toNat then (s.g a).getLsbD (i - lo.toNat) else (s.g d).getLsbD i) ∧
  (∀ (s : State) (d a b : BitVec 5) (n : BitVec 6), s.seq.resOk a → s.seq.resOk b →
  exec (.shl d a b) s = .next (s.result d (s.g a <<< ((s.g b).toNat % 64))) ∧
  exec (.shr d a b) s = .next (s.result d (s.g a >>> ((s.g b).toNat % 64))) ∧
  exec (.sar d a b) s = .next (s.result d ((s.g a).sshiftRight ((s.g b).toNat % 64))) ∧
  (∃ v : Word, exec (.ror d a b) s = .next (s.result d v) ∧
    ∀ i, i < 64 → v.getLsbD i = (s.g a).getLsbD ((i + (s.g b).toNat) % 64)) ∧
  exec (.shli d a n) s = .next (s.result d (s.g a <<< n.toNat)) ∧
  exec (.shri d a n) s = .next (s.result d (s.g a >>> n.toNat)) ∧
  exec (.sari d a n) s = .next (s.result d ((s.g a).sshiftRight n.toNat))) ∧
  (∀ (s : State) (d a : BitVec 5) (i : BitVec 27) (x : Word),
  exec (.andi d a i) s = .next (s.result d (s.g a &&& i.signExtend 64)) ∧
  exec (.ori d a i) s = .next (s.result d (s.g a ||| i.signExtend 64)) ∧
  exec (.xori d a i) s = .next (s.result d (s.g a ^^^ i.signExtend 64)) ∧
  exec (.li d i) s = .next (s.result d (i.signExtend 64)) ∧
  exec (.lil d x) s = .next (s.result d x) ∧
  exec (.leaLabel d i) s = .next (s.result d (s.seq.pc + i.signExtend 64 * 64)) ∧
  (s.seq.resOk a →
    exec (.addi d a i) s = .next (s.result d (s.g a + i.signExtend 64)) ∧
    exec (.lea d a i) s = .next (s.result d (s.g a + i.signExtend 64)))) ∧
  (∀ (s : State) (d a b c : BitVec 5),
  exec (.min d a b) s = .next (s.result d (if (s.g a).toInt ≤ (s.g b).toInt then s.g a else s.g b)) ∧
  exec (.max d a b) s = .next (s.result d (if (s.g a).toInt < (s.g b).toInt then s.g b else s.g a)) ∧
  exec (.minn d a b) s = .next (s.result d (if (s.g a).toNat ≤ (s.g b).toNat then s.g a else s.g b)) ∧
  exec (.maxn d a b) s = .next (s.result d (if (s.g a).toNat < (s.g b).toNat then s.g b else s.g a)) ∧
  exec (.sel d a b c) s = .next (s.result d (if s.g c = 0 then s.g b else s.g a)) ∧
  (∀ cc : BitVec 6, cc.toNat ≤ 9 → ∃ v : Word, exec (.cmp d cc a b) s = .next (s.result d v) ∧
    (CcHolds cc.toNat (s.g a) (s.g b) → v = 1) ∧ (¬CcHolds cc.toNat (s.g a) (s.g b) → v = 0)) ∧
  ∀ (cc : BitVec 4) (i : BitVec 23), cc.toNat ≤ 9 → ∃ v : Word, exec (.cmpi d cc a i) s = .next (s.result d v) ∧
    (CcHolds cc.toNat (s.g a) (i.signExtend 64) → v = 1) ∧ (¬CcHolds cc.toNat (s.g a) (i.signExtend 64) → v = 0))

/-- 02: R59, 09: R205: when a source's residue bits do not agree with its value, a checked instruction takes the error and its
destination is unwritten: nothing of its own result is in the next state. -/
def Obligations.ResidueMismatch : Prop := ∀ (i : Instr) (s : State) (srcs : List (BitVec 5)) (d : BitVec 5),
  i.scalarChecked = some (srcs, d) → (srcs.all s.seq.resOk) = false → exec i s = .next (s.strandError s.sid cResidue)

/-! ## Scalar float (09: R221-R225) -/

/-- 09: R221: an f32 result is written to bits [31:0], and bits [63:32] as zero; the operands are bits [31:0]. The bits of the
results are those of `Numbers.lean`.
09: R222-R225: compares, conversions, classes and signs: a compare writes 1 or 0, orders values as numbers with sign and magnitude, and is
false of a NaN but for `ne` and `un`; a class
is exactly one of ten bits; a sign operation keeps bits [30:0]. -/
def Obligations.FloatArithmetic : Prop := (∀ (s : State) (d a b c : BitVec 5),
  let x : Nat := (s.g a).toNat % 2 ^ 32
  let y : Nat := (s.g b).toNat % 2 ^ 32
  let z : Nat := (s.g c).toNat % 2 ^ 32
  exec (.fadd d a b) s = .next (s.result d (BitVec.ofNat 64 (fmtF32.add x y % 2 ^ 32))) ∧
  exec (.fsub d a b) s = .next (s.result d (BitVec.ofNat 64 (fmtF32.sub x y % 2 ^ 32))) ∧
  exec (.fmul d a b) s = .next (s.result d (BitVec.ofNat 64 (fmtF32.mul x y % 2 ^ 32))) ∧
  exec (.ffma d a b c) s = .next (s.result d (BitVec.ofNat 64 (fmtF32.fma false x y z % 2 ^ 32))) ∧
  exec (.fdiv d a b) s = .next (s.result d (BitVec.ofNat 64 (fmtF32.div x y % 2 ^ 32))) ∧
  exec (.fsqrt d a) s = .next (s.result d (BitVec.ofNat 64 (fmtF32.sqrt x % 2 ^ 32))) ∧
  exec (.fmin d a b) s = .next (s.result d (BitVec.ofNat 64 (fmtF32.min x y % 2 ^ 32))) ∧
  exec (.fmax d a b) s = .next (s.result d (BitVec.ofNat 64 (fmtF32.max x y % 2 ^ 32)))) ∧
  (∀ (s : State) (d a b : BitVec 5),
  let x : Nat := (s.g a).toNat % 2 ^ 32
  let y : Nat := (s.g b).toNat % 2 ^ 32
  let key (n : Nat) : Int := if n < 2 ^ 31 then n else 2 ^ 31 - n
  (∀ cc : BitVec 6, cc.toNat ≤ 6 → ∃ v : Word, exec (.fcmp d cc a b) s = .next (s.result d v) ∧ (v = 0 ∨ v = 1) ∧
    ((fmtF32.isNaN x ∨ fmtF32.isNaN y) → (v = 1 ↔ cc.toNat = 1 ∨ cc.toNat = 6)) ∧
    (fmtF32.isNaN x = false → fmtF32.isNaN y = false → (v = 1 ↔ if cc = 0 then key x = key y else if cc = 1 then key x ≠ key y
      else if cc = 2 then key x < key y else if cc = 3 then key x ≤ key y else if cc = 4 then key y < key x
      else if cc = 5 then key y ≤ key x else False))) ∧
  (∀ cc : BitVec 6, let w := packR 0x48#8 0#1 d cc b a
    (cc.toNat ≤ 6 → decode w = .ok (.fcmp d cc a b)) ∧ (6 < cc.toNat → ∀ tile n x, headCheck false true tile n x w = some 0x03)) ∧
  (∀ (src : BitVec 5) (dst : BitVec 4) (m : BitVec 2), (Instr.fcvt d a src dst m).wf →
    let r : Nat := convert src.toNat dst.toNat m.toNat ((s.g a).toNat % 2 ^ fcvtWidth src.toNat)
    exec (.fcvt d a src dst m) s = .next (s.result d (if dst = 4 then (BitVec.ofNat 32 r).signExtend 64 else BitVec.ofNat 64 r))) ∧
  decode (packR 0x4A#8 0#1 d 0#6 0#5 a) = .ok (.fclass d a) ∧
  (∃ n, n < 10 ∧ exec (.fclass d a) s = .next (s.result d (BitVec.ofNat 64 (2 ^ n))) ∧
    (n = 0 ↔ x = 0xFF800000) ∧ (n = 1 ↔ 0x80800000 ≤ x ∧ x < 0xFF800000) ∧ (n = 2 ↔ 0x80000000 < x ∧ x < 0x80800000) ∧
    (n = 3 ↔ x = 0x80000000) ∧ (n = 4 ↔ x = 0) ∧ (n = 5 ↔ 0 < x ∧ x < 0x00800000) ∧ (n = 6 ↔ 0x00800000 ≤ x ∧ x < 0x7F800000) ∧
    (n = 7 ↔ x = 0x7F800000) ∧ (n = 8 ↔ 0x7F800000 < x % 2 ^ 31 ∧ x.testBit 22 = false) ∧
    (n = 9 ↔ 0x7F800000 < x % 2 ^ 31 ∧ x.testBit 22 = true)) ∧
  (∀ op : BitVec 6, let w := packR 0x4B#8 0#1 d op b a
    (op.toNat ≤ 2 → decode w = .ok (.fsgn d op a b)) ∧ (2 < op.toNat → ∀ tile n x, headCheck false true tile n x w = some 0x03)) ∧
  ∀ op : BitVec 6, op.toNat ≤ 2 → ∃ v : Word, exec (.fsgn d op a b) s = .next (s.result d v) ∧
    v.toNat % 2 ^ 31 = x % 2 ^ 31 ∧ v.toNat / 2 ^ 32 = 0 ∧
    (v.getLsbD 31 = if op = 0 then (s.g b).getLsbD 31 else if op = 1 then !(s.g b).getLsbD 31
      else ((s.g a).getLsbD 31 != (s.g b).getLsbD 31)))

/-- 04: R115: a finite value that f32, f16 or bf16 can hold is rounded to itself, in every rounding mode; a zero takes the sign that the
operation gives it, and so its own where that is the sign. -/
def Obligations.RoundExact : Prop := ∀ (f : Fmt) (mode : Mode) (z : Bool) (x : Nat), f ∈ [fmtF32, fmtF16, fmtBf16] →
  x < 2 ^ (1 + f.eb + f.mb) → mode ≤ 3 → f.isNaN x = false → f.isInf x = false →
  (f.isZero x = false → f.round mode z (f.val x) = x) ∧
  (f.isZero x = true → f.round mode (f.sign x) (f.val x) = x ∧ f.round mode z (f.val x) = (if z then 2 ^ (f.eb + f.mb) else 0))

/-- What a scalar instruction leaves unchanged: everything but its sequencer, and there every register but its destination.
02: R57, 09: R205: g0 reads 0 and a write to it is discarded; any other register reads what was last written to it, and the
write leaves the other registers as they were. -/
def Obligations.ScalarFrame : Prop := (∀ (i : Instr) (s t : State) (d r : BitVec 5) (srcs : List (BitVec 5)),
  (i.scalarPlain = some d ∨ (i.scalarChecked = some (srcs, d) ∧ srcs.all s.seq.resOk)) → exec i s = .next t →
  s.OnlySeq t s.cur ∧ s.seq.SameTraps t.seq ∧ (r ≠ d → t.g r = s.g r) ∧ ∀ a, t.byte a = s.byte a) ∧
  (∀ (s : State) (d r : BitVec 5) (v : Word),
  s.g 0 = 0 ∧ (s.gPut 0 v).g r = s.g r ∧ (s.result d v).g r = (if r = d ∧ d ≠ 0 then v else s.g r) ∧
  ((s.result d v).seq.resOk d = true ∨ d = 0))

/-- 02: R57, R60, R63; 09-13: what an instruction that a tile's running strand executes leaves unchanged, whatever it does: every g register of
its sequencer but the destinations its entry names, all of the other sequencer's, every v and k register but its destinations, every queue,
semaphore and walker that it does not name, and the other sequencer's trap registers. The opcode is none of a service core (07: R191). No source
fails its residue check. A register, queue or walker that an earlier load has yet to write (log 16) is the load's. A `TRET` that ends the strand
leaves no strand. -/
def Obligations.RegisterFrame : Prop := ∀ (i : Instr) (x : Raw) (s t : State), s.cur.sid < 4096 → s.me.scstate = 1 →
  encode i = some x → opcCore x.opc = false → (∀ r, s.seq.resOk r = true) → exec i s = .next t →
  ((i = .tret ∨ i = .tretSkip) → (t.strand s.sid).scstate ≠ 0) →
  let p := s.core
  let c := (t.strand s.sid).core
  let e := s.cur.e
  let due (d : LoadTo) : Prop := ∃ l ∈ s.me.loads, l.dst = d
  (∀ r, r ∉ i.gDests → (e = true ∨ ∀ b, ¬due (.reg r b)) → (c.seq e).gGet r = s.g r) ∧
  (∀ r, (e = false ∨ ∀ b, ¬due (.reg r b)) → (c.seq (!e)).gGet r = (p.seq (!e)).gGet r) ∧
  (∀ r, r ∉ i.vDests → c.v.get r.toFin = p.v.get r.toFin) ∧ (∀ r, r ∉ i.kDests → c.k.get r.toFin = p.k.get r.toFin) ∧
  (∀ q, q ∉ i.queues → ¬due (.queue q) → c.queue q = p.queue q) ∧ (∀ h, i.sem ≠ some h → c.h.get h.toFin = p.h.get h.toFin) ∧
  (∀ w, w ∉ i.walkers → (p.walker w.toNat).rd = [] → c.walker w.toNat = p.walker w.toNat) ∧ (p.seq (!e)).SameTraps (c.seq (!e))

/-- 09-13: what the instructions that store nothing and reach no memory of a range leave of memory: all of it, in a strand with no store
pending, whose pitch keeps no log and which the instruction does not park (a park posts an event, 17: R355); no strand holds back stores of a span, which a marker wave would
perform (20: R409). The opcode is none of a service core (07: R191). -/
def Obligations.MemoryFrame : Prop := ∀ (i : Instr) (x : Raw) (s t : State), s.cur.sid < 4096 → encode i = some x → opcCore x.opc = false →
  i.reachesMem = false →
  (∀ r, s.seq.resOk r = true) → s.me.Plain → s.me.scstate = 1 → (s.pitch s.me.ptag.toNat).pviol = 0 → (s.pitch s.me.ptag.toNat).pevlog = 0 →
  (∀ k, ∀ p ∈ (s.strand k).pend, p.held = false) → exec i s = .next t → (t.strand s.sid).scstate = 1 → t.mem = s.mem

/-! ## Control transfers and blocks (09: R207-R210; 07: R183-R185) -/

/-- 09: R207: each transfer sets `Pending`, or not; `CALL` reads its target before it writes the return line.
09: R207; 07: R185: at the end of a block the next is `Pending` if that is set, and `NextLine` otherwise, with bits [5:0] cleared and
nothing pending; before it, the index advances by one. -/
def Obligations.Transfers : Prop := (∀ (s : State) (d a : BitVec 5) (i : BitVec 27),
  let target : Word := s.seq.pc + i.signExtend 64 * 64
  exec (.br i) s = .next (s.setPending target).adv ∧
  exec (.brReg a) s = .next (s.setPending (s.g a)).adv ∧
  exec (.ret a) s = .next (s.setPending (s.g a)).adv ∧
  exec (.brz a i) s = .next (if s.g a = 0 then s.setPending target else s).adv ∧
  exec (.brnz a i) s = .next (if s.g a = 0 then s else s.setPending target).adv ∧
  exec (.call d i) s = .next ((s.gPut d s.seq.next).setPending target).adv ∧
  exec (.callReg d a) s = .next ((s.gPut d s.seq.next).setPending (s.g a)).adv ∧
  (s.seq.resOk d → exec (.loopb d i) s = .next
    (if s.g d = 1 then s.gPut d (s.g d - 1) else (s.gPut d (s.g d - 1)).setPending target).adv)) ∧
  (∀ (s : State),
  (s.seq.idx + 1 < s.seq.block.length → s.adv.seq.idx = s.seq.idx + 1 ∧ s.adv.seq.pc = s.seq.pc ∧ s.adv.seq.fetched = s.seq.fetched ∧
    s.adv.seq.pending = s.seq.pending ∧ s.adv.seq.wait = none) ∧
  (s.seq.block.length ≤ s.seq.idx + 1 → s.adv.seq.idx = 0 ∧ s.adv.seq.pending = none ∧ s.adv.seq.fetched = false ∧ s.adv.seq.wait = none ∧
    s.adv.seq.pc = (s.seq.pending.getD s.seq.next &&& ~~~0x3F#64)) ∧
  (∀ t, (s.setPending t).seq.pending = some (t &&& ~~~0x3F#64)) ∧ (∀ r, s.adv.g r = s.g r))

/-- 09: R208, R211; 02: R61; 10: R253: branch-outcome queues in push order, their waits (on an empty queue, and on a gated walker that asked first, or that may still ask in the same cycle, 02: R68), NOP, YIELD, SLEEPC, and IDLE of a service core, which
sleeps, and goes on when it is woken (13: R335).
09: R211: a sleeping strand goes on past its SLEEPC once CYCLE has reached the wake cycle, and not before.
10: R245, 02: R60: scalar entries of a queue: a push puts the register in bytes 0 to 7 with zeros above, after the entries of the strand's
loads to it; a pop takes the oldest; a full queue blocks the push, an empty one the pop. A queue is full with eight entries, those of pending
loads counted (log 16), and while a walker's row is entering it (02: R66).
10: R246, 02: R57: semaphores count to 65535 and stay there; a signal releases, a wait that ends takes one and acquires; a remote signal
to a slot with no strand of the pitch is dropped; while a PST is not acknowledged a signal waits (03: R103). -/
def Obligations.QueuesAndSleep : Prop := (∀ (s : State) (n : BitVec 5) (i : BitVec 27),
  (s.bqOut.length < 32 →
    exec (.pushbq n) s = .next (s.setBqOut (s.bqOut ++ [(s.g n).getLsbD 0])).adv ∧
    exec (.pushbqNz n) s = .next (s.setBqOut (s.bqOut ++ [s.g n != 0])).adv) ∧
  (32 ≤ s.bqOut.length → exec (.pushbq n) s = .next (s.block .bqFull) ∧ exec (.pushbqNz n) s = .next (s.block .bqFull)) ∧
  (s.bqIn ≠ [] → s.walkerFirst = true ∨ s.walkerMayAsk = true → exec (.bqpop n) s = .next (s.block .bqEmpty) ∧ exec (.brbq i) s = .next (s.block .bqEmpty) ∧
    exec (.brbqZ i) s = .next (s.block .bqEmpty)) ∧
  (∀ b r, s.bqIn = b :: r →
    s.walkerFirst = false → s.walkerMayAsk = false → exec (.bqpop n) s = .next ((s.setBqIn r).result n (if b then 1 else 0)) ∧
    exec (.brbq i) s = .next (if b then (s.setBqIn r).setPending ((s.setBqIn r).seq.rel i) else s.setBqIn r).adv ∧
    exec (.brbqZ i) s = .next (if b then s.setBqIn r else (s.setBqIn r).setPending ((s.setBqIn r).seq.rel i)).adv) ∧
  (s.bqIn = [] → exec (.bqpop n) s = .next (s.block .bqEmpty) ∧ exec (.brbq i) s = .next (s.block .bqEmpty) ∧
    exec (.brbqZ i) s = .next (s.block .bqEmpty)) ∧
  exec .nop s = .next s.adv ∧
  (∃ t, exec .yield s = .next t ∧ t.seq = s.seq.adv ∧ (s.cur.sid < 4096 →
    (if s.cur.e then (t.tile (sidTile s.cur.sid)).holdE else (t.tile (sidTile s.cur.sid)).holdA) = false)) ∧
  (s.seq.wait = none →
    ((s.g n).toNat ≤ s.cycle.toNat → exec (.sleepc n) s = .next s.adv) ∧
    (s.cycle.toNat < (s.g n).toNat → exec (.sleepc n) s = .next (s.block (.sleep (s.g n)))) ∧
    ((s.cycle + s.g n).toNat ≤ s.cycle.toNat → exec (.sleepcRel n) s = .next s.adv) ∧
    (s.cycle.toNat < (s.cycle + s.g n).toNat → exec (.sleepcRel n) s = .next (s.block (.sleep (s.cycle + s.g n))))) ∧
  (s.seq.wait = some .idle → exec .idle s = .next s.adv) ∧ (s.seq.wait ≠ some .idle → exec .idle s = .next (s.block .idle))) ∧
  (∀ (s : State) (a : Agent) (w : Word),
  ((s.strand a.sid).core.seq a.e).wait = some (.sleep w) → (s.strand a.sid).scstate = 1 →
  (w.toNat ≤ s.cycle.toNat → exec (.sleepcWake a) s = .next (s.updSeqOf a Seq.adv) ∧
    exec (.strandUnblock a) s = .next (s.updSeqOf a (fun q => { q with woken := true }))) ∧
  (s.cycle.toNat < w.toNat → exec (.sleepcWake a) s = .next s ∧ exec (.strandUnblock a) s = .next s)) ∧
  (∀ (s : State) (d a : BitVec 5) (q : BitVec 3),
  (s.me.queueFull q = false →
    exec (.qpush q a) s = .next ((s.queueOrder s.sid q).updCore (fun c => c.push q ⟨(s.g a).setWidth 1024, false, false⟩)).adv) ∧
  (s.me.queueFull q = true → exec (.qpush q a) s = .next (s.block (.queueFull q.toNat))) ∧
  (s.me.queueFull q = true ↔ 8 ≤ (s.core.queue q).length + (s.me.loads.filter (fun l => l.dst == .queue q)).length ∨
    s.core.rowUnder 0 q.toNat = true) ∧
  ((∀ l ∈ s.me.loads, l.dst ≠ .queue q) → s.queueOrder s.sid q = s) ∧
  (s.core.queue q = [] → exec (.qpop d q) s = .next (s.block (.queueEmpty q.toNat))) ∧
  ∀ e r, s.core.queue q = e :: r → ∃ t : State, exec (.qpop d q) s = .next (t.result d (e.v.setWidth 64)) ∧ t.core.queue q = r ∧
    t.core.etc = (if e.err then satInc32 s.core.etc else s.core.etc) ∧ t.mem = s.mem) ∧
  (∀ (s : State) (h : BitVec 4) (a : BitVec 5), s.me.buffer = false →
  (s.cur.e = false → s.pstPending s.sid = true →
    exec (.sems h) s = .next (s.block .fence) ∧ exec (.semsRemote h a) s = .next (s.block .fence)) ∧
  let n := s.core.h.get h.toFin
  let dst := bitsOf (s.g a) 0 12
  let up (x : BitVec 16) : BitVec 16 := if x.toNat = 65535 then x else x + 1
  (s.Clear → ∃ t, exec (.sems h) s = .next t ∧ t.core.h.get h.toFin = up n ∧ ∀ k, k ≠ h → t.core.h.get k.toFin = s.core.h.get k.toFin) ∧
  (s.Clear → bitsOf (s.g a) 12 52 = 0 → dst ≠ s.sid → (s.strand dst).signalled = true → (s.strand dst).ptag = s.me.ptag →
    ∃ t, exec (.semsRemote h a) s = .next t ∧ (t.strand dst).core.h.get h.toFin = up ((s.strand dst).core.h.get h.toFin)) ∧
  (s.Clear → (bitsOf (s.g a) 12 52 ≠ 0 ∨ (s.strand dst).signalled = false) →
    ∃ t, exec (.semsRemote h a) s = .next t ∧ ∀ k, k ≠ s.sid → t.strand k = s.strand k) ∧
  (n = 0 → exec (.semw h) s = .next (s.block (.sem h.toNat))) ∧
  (n ≠ 0 → ∃ t, exec (.semw h) s = .next t ∧ t.core.h.get h.toFin = n - 1 ∧ t.mem = s.mem))

/-! ## Traps (09: R212, R213; 13: R334; 07: R192) -/

/-- 13: R334: with a vector and outside a handler, a trap records its cause, argument, resume line, index and `Pending`, and enters the
block at `TRAPVEC`; TRAPS and BRK resume after themselves, ILL at itself (09: R212).
13: R334: in a handler, or without a vector, the trap parks the strand; no trap register changes, and the sequencer keeps where it
resumes (log 19).
09: R212: a BRK that the pitch routes to the service core parks the strand after the BRK.
13: R334: outside a handler TRAPRET has no effect; in one it clears the handler bit and enters the block at `TRLINE`, to issue from
`TRIDX` with the `Pending` of `TRPEND`. -/
def Obligations.TrapsTaken : Prop := (∀ (s : State) (n : BitVec 6),
  s.me.saveReq = none → s.seq.tcause.getLsbD 8 = false → s.seq.trapVec ≠ 0 →
  let taken (t : State) (cause arg : Word) (resume : Nat) : Prop :=
    t.seq.tcause = cause + 0x100 ∧ t.seq.targ = arg ∧ t.seq.trline = s.seq.pc ∧ t.seq.tridx = BitVec.ofNat 64 resume ∧
    t.seq.trpend = (match s.seq.pending with | none => 0 | some x => x ||| 1) ∧
    t.seq.pc = (s.seq.trapVec &&& ~~~0x3F#64) ∧ t.seq.fetched = false ∧ t.seq.pending = none ∧
    t.seq.g = s.seq.g ∧ s.OnlySeq t s.cur
  (∃ t, exec (.traps n) s = .next t ∧ taken t 0x30 (n.setWidth 64) (s.seq.idx + 1)) ∧
  ((isCore s.cur || !(s.pitch s.me.ptag.toNat).pctl.getLsbD 11) →
    ∃ t, exec (.brk n) s = .next t ∧ taken t 0x31 (n.setWidth 64) (s.seq.idx + 1)) ∧
  ∀ x, s.seq.block[s.seq.idx]? = some x →
    ∃ t, exec (.ill n) s = .next t ∧ taken t 0x02 (x.line + BitVec.ofNat 64 x.head) s.seq.idx) ∧
  (∀ (s : State) (n : BitVec 6),
  s.me.saveReq = none → s.cur.sid < 4096 → (s.seq.tcause.getLsbD 8 = true ∨ s.seq.trapVec = 0) →
  ∃ t, exec (.traps n) s = .next t ∧ t.me.scstate = 2 ∧ t.seq.tcause = s.seq.tcause ∧ t.seq.targ = s.seq.targ ∧
    t.seq.trline = s.seq.trline ∧ t.seq.tridx = s.seq.tridx ∧ t.seq.trpend = s.seq.trpend ∧ t.seq.pc = s.seq.pc ∧
    t.seq.idx = s.seq.idx + 1 ∧ t.seq.g = s.seq.g) ∧
  (∀ (s : State) (n : BitVec 6), s.cur.sid < 4096 →
  (s.pitch s.me.ptag.toNat).pctl.getLsbD 11 = true →
  ∃ t, exec (.brk n) s = .next t ∧ t.me.scstate = 2 ∧ t.me.park = .brk ∧ t.seq = s.seq.adv) ∧
  (∀ (s : State),
  (s.seq.tcause.getLsbD 8 = false → exec .trapret s = .next s.adv) ∧
  (s.seq.tcause.getLsbD 8 = true → ∃ t, exec .trapret s = .next t ∧ t.seq.tcause = (s.seq.tcause &&& ~~~0x100#64) ∧
    t.seq.pc = (s.seq.trline &&& ~~~0x3F#64) ∧ t.seq.idx = s.seq.tridx.toNat % 256 ∧ t.seq.fetched = false ∧
    t.seq.pending = (if s.seq.trpend.getLsbD 0 then some (s.seq.trpend &&& ~~~0x3F#64) else none) ∧ t.seq.g = s.seq.g ∧
    s.OnlySeq t s.cur))

/-- A trap and its return: a trap of an instruction that counts as not executed, and TRAPRET in a handler that has changed no trap
register, bring the sequencer back before that instruction, with the `Pending` it had. -/
def Obligations.TrapRoundTrip : Prop := ∀ (s t u : State) (c : Cause) (arg : Word),
  s.me.saveReq = none → s.seq.tcause.getLsbD 8 = false → s.seq.trapVec ≠ 0 → (s.seq.pc &&& 0x3F#64) = 0 → s.seq.idx < 128 →
  (∀ x, s.seq.pending = some x → (x &&& 0x3F#64) = 0) → t = s.trap c arg → exec .trapret t = .next u →
  u.seq.pc = s.seq.pc ∧ u.seq.idx = s.seq.idx ∧ u.seq.pending = s.seq.pending ∧ u.seq.g = s.seq.g ∧ u.seq.tcause.getLsbD 8 = false

/-! ## Accesses (10: R226, R233-R239; 03: R84-R87, R91-R100) -/

/-- Memory by itself: what is written is read back, every other byte keeps its value, and the one form of memory is kept.
What bytes written at a key do to memory: they stand there, but for the read-only bits of a route entry (00: R9, 19: R396), and every
other byte is as it was.
Equal memories are equal data: two memories in the one form that read alike everywhere are one list. -/
def Obligations.MemoryLaws : Prop := (∀ (m : Memory) (a b : Nat) (x : Byte), Memory.wf m = true →
  Memory.wf (Memory.put m a x) = true ∧ Memory.get (Memory.put m a x) b = (if b = a then x else Memory.get m b) ∧
  ∀ (k n : Nat), Memory.wf (Memory.clear m k n) = true ∧
    Memory.get (Memory.clear m k n) b = (if k ≤ b ∧ b < k + n then 0 else Memory.get m b)) ∧
  (∀ (s : State) (k : Nat) (b : List Byte),
  (∀ i, i < b.length → (s.wrBytes k b).byte (k + i) = roByte (k + i) (b.getD i 0)) ∧ s.BytesOutside (s.wrBytes k b) k b.length ∧
  (∀ a x, (a < routeBase ∨ routeBase + 4096 ≤ a) → roByte a x = x) ∧
  (∀ v n, v < 256 ^ n → (k + n ≤ routeBase ∨ routeBase + 4096 ≤ k) → (s.wr k n v).rd k n = v) ∧
  (∀ j (w : BitVec 32), j < 1024 → (s.wr (routeBase + 4 * j) 4 w.toNat).rd (routeBase + 4 * j) 4 =
    (w &&& 0x803FFFFF#32).toNat) ∧
  (Memory.wf s.mem = true → Memory.wf (s.wrBytes k b).mem = true)) ∧
  (∀ (m n : Memory), Memory.wf m = true → Memory.wf n = true →
  (∀ a, Memory.get m a = Memory.get n a) → m = n)

/-- 10: R233, R234: `LD` and `LDV` complete with what the load gives: the bytes little-endian, extended by sign or with zeros; an error
response delivers zeros, to `LDV` an error-marked entry (03: R86); a fault parks the strand, nothing else written (18: R379). `LDV` into a full
queue blocks, and a load of a STRICT page behind a PST that is not acknowledged (03: R95). A load that the agenda performs later (03: R96; log 16) is
done, and keeps its place among the strand's loads; its value is that of the step that performs it. The load is that of a strand, or, of a
service core, of the bytes at the physical address or in its SRAM (17: R353).
What a load of a strand reads: a local or camp range is read as it stands, the strand's own pending stores first (03: R99), or with older
bytes that a write on its way has replaced and nothing orders before the load (03: R101, log 16); no load changes a byte of memory
but those that the strand's own pending stores hold, which a load of a STRICT page performs first (03: R95). -/
def Obligations.Loads : Prop := (∀ (s t : State) (d a : BitVec 5) (i : BitVec 27) (sz : BitVec 3) (disp : BitVec 24) (q : BitVec 3)
    (m : BitVec 6) (b : List Byte) (c : Cause) (x : Word) (ps : List Part),
  let va := s.g a + i.signExtend 64
  let vs := s.g a + disp.signExtend 64
  let vq := s.g a + m.signExtend 64 * 128
  let n : Nat := 2 ^ (sz.toNat / 2)
  (s.strictHeld s.sid va 8 .load = true → exec (.ld d a i) s = .next (s.block .fence)) ∧
  (s.strictHeld s.sid vs n .load = true → exec (.ldSized d a sz disp) s = .next (s.block .fence)) ∧
  (s.strictHeld s.sid va 8 .load = false → s.lateParts s.sid va 8 = none →
    (s.load va 8 .ld = .ok b t → exec (.ld d a i) s = .next (t.result d (BitVec.ofNat 64 (natOfBytes b)))) ∧
    (s.load va 8 .ld = .bad t → exec (.ld d a i) s = .next (t.result d 0)) ∧
    (s.load va 8 .ld = .fault c x → exec (.ld d a i) s = .next (s.w0Fault c x akLoad))) ∧
  (s.strictHeld s.sid vs n .load = false → s.lateParts s.sid vs n = none →
    (s.load vs n .ld = .ok b t → exec (.ldSized d a sz disp) s = .next (t.result d
      (if sz.toNat % 2 = 0 then BitVec.ofInt 64 (sxt (natOfBytes b) (8 * n)) else BitVec.ofNat 64 (natOfBytes b)))) ∧
    (s.load vs n .ld = .bad t → exec (.ldSized d a sz disp) s = .next (t.result d 0)) ∧
    (s.load vs n .ld = .fault c x → exec (.ldSized d a sz disp) s = .next (s.w0Fault c x akLoad))) ∧
  (s.me.queueFull q = true → exec (.ldv q a m) s = .next (s.block (.queueFull q.toNat))) ∧
  (s.me.queueFull q = false → s.strictHeld s.sid vq 128 .load = true → exec (.ldv q a m) s = .next (s.block .fence)) ∧
  (s.me.queueFull q = false → s.strictHeld s.sid vq 128 .load = false → s.lateParts s.sid vq 128 = none →
    (s.loadBytes s.sid vq 128 .load .row = .ok b t →
      exec (.ldv q a m) s = .next ((t.queueOrder s.sid q).updCore (fun c => c.push q ⟨vOfBytes b, false, false⟩)).adv) ∧
    (s.loadBytes s.sid vq 128 .load .row = .bad t →
      exec (.ldv q a m) s = .next ((t.queueOrder s.sid q).updCore (fun c => c.push q ⟨0, true, false⟩)).adv) ∧
    (s.loadBytes s.sid vq 128 .load .row = .fault c x → exec (.ldv q a m) s = .next (s.w0Fault c x akLoad))) ∧
  (let later (i : Instr) (dst : LoadTo) (va : Word) : Prop := ∃ t : State, exec i s = .next t.adv ∧ t.mem = s.mem ∧ t.core = s.core ∧
      t.me.loads = s.me.loads ++ [⟨dst, va, ps⟩]
   (s.strictHeld s.sid va 8 .load = false → s.lateParts s.sid va 8 = some ps → later (.ld d a i) (.reg d false) va) ∧
   (s.strictHeld s.sid vs n .load = false → s.lateParts s.sid vs n = some ps →
     later (.ldSized d a sz disp) (.reg d (sz.toNat % 2 == 0)) vs) ∧
   (s.me.queueFull q = false → s.strictHeld s.sid vq 128 .load = false → s.lateParts s.sid vq 128 = some ps →
     later (.ldv q a m) (.queue q) vq)) ∧
  (s.late = false → ∀ va n, s.lateParts s.sid va n = none) ∧
  (∀ sid va dst r, (s.strand sid).loads = ⟨dst, va, ps⟩ :: r → s.olds = [] → (∀ p ∈ ps, p.slot = none) →
    let u := s.performLoadAt sid 0
    let b := (keysOf ps).map (fun a => (pendByte a (s.strand sid).pend).getD (s.byte a))
    (u.strand sid).loads = r ∧ u.mem = s.mem ∧
    (∀ d sg, dst = .reg d sg → (u.strand sid).core.a.gGet d = (if d = 0 then 0
      else if sg then BitVec.ofInt 64 (sxt (natOfBytes b) (8 * b.length)) else BitVec.ofNat 64 (natOfBytes b))) ∧
    ∀ q, dst = .queue q → (u.strand sid).core.queue q = (s.strand sid).core.queue q ++ [⟨vOfBytes b, false, false⟩]) ∧
  (∀ va n k, isCore s.cur = false → s.load va n k = s.loadBytes s.sid va n .load k) ∧
  (∀ va n k, isCore s.cur = true → s.spaceFault s.sid va n = false → s.corePoison va n false = false → s.olds = [] →
    s.load va n k = .ok ((List.range n).map (fun j => s.physByte (coreKey s.sid va + j))) s) ∧
  ∀ k, isDevice k = false → s.physByte k = s.byte k) ∧
  (∀ (s t : State) (va : Word) (n : Nat) (k : LKind) (b : List Byte) (ps : List Part),
  s.cur.sid < 4096 → s.resolve s.sid va n .load = .ok ps → s.loadBytes s.sid va n .load k = .ok b t →
  ((∀ p ∈ ps, p.slot = none) → s.olds = [] → s.me.loadsOf (keysOf ps) = false →
    t = s ∧ b = (keysOf ps).map (fun a => (pendByte a s.me.pend).getD (s.byte a))) ∧
  ((∀ p ∈ ps, p.slot = none) → t.mem = s.mem ∧ ∀ (i a : Nat), (keysOf ps)[i]? = some a → ∃ x : Byte, b[i]? = some x ∧
    (pendByte a s.me.pend = some x ∨ pendByte a s.me.pend = none ∧ (x = s.byte a ∨ ∃ o ∈ s.olds, (a, x) ∈ o.cells))) ∧
  ∀ a, (∀ p ∈ s.me.pend, ∀ c ∈ p.cells, c.1 ≠ a) → t.byte a = s.byte a)

/-- 10: R233, R234: `ST` and `STV` complete with what the store gives; after an error response nothing is written and the instruction is
done (03: R86); a fault parks the strand. `STV` from an empty queue blocks. The store is that of a strand, or, of a service core, of the bytes at
the physical address or in its SRAM, at once (17: R353). A store to a STRICT page waits for the strand's PSTs (03: R95).
Where a store goes: to the strand's own tile, where memory has it at once, byte by byte and nowhere else (log 9); to another tile of its camp and to global
memory it pends, memory as it was but for lines written anew under another key slot, and the strand's own loads see it (03: R95-R99), the read-only bits of a route
entry as zeros (00: R9). -/
def Obligations.Stores : Prop := (∀ (s t : State) (d a : BitVec 5) (i : BitVec 27) (sz : BitVec 3) (disp : BitVec 24) (q : BitVec 3)
    (m : BitVec 6) (e : QEntry) (r : List QEntry) (c : Cause) (x : Word),
  let va := s.g a + i.signExtend 64
  let vs := s.g a + disp.signExtend 64
  let vq := s.g a + m.signExtend 64 * 128
  let n : Nat := 2 ^ (sz.toNat / 2)
  (s.strictHeld s.sid va 8 .store = true → exec (.st d a i) s = .next (s.block .fence)) ∧
  (s.strictHeld s.sid vs n .store = true → exec (.stSized d a sz disp) s = .next (s.block .fence)) ∧
  (s.strictHeld s.sid va 8 .store = false →
    (s.store va (bytesLE (s.g d).toNat 8) = .ok t → exec (.st d a i) s = .next t.adv) ∧
    (s.store va (bytesLE (s.g d).toNat 8) = .bad t → exec (.st d a i) s = .next t.adv ∧ ∃ vk, t = s.errorResponse s.sid vk va) ∧
    (s.store va (bytesLE (s.g d).toNat 8) = .fault c x → exec (.st d a i) s = .next (s.w0Fault c x akStore))) ∧
  (s.strictHeld s.sid vs n .store = false →
    (s.store vs (bytesLE (s.g d).toNat n) = .ok t → exec (.stSized d a sz disp) s = .next t.adv) ∧
    (s.store vs (bytesLE (s.g d).toNat n) = .bad t → exec (.stSized d a sz disp) s = .next t.adv ∧ ∃ vk, t = s.errorResponse s.sid vk vs) ∧
    (s.store vs (bytesLE (s.g d).toNat n) = .fault c x → exec (.stSized d a sz disp) s = .next (s.w0Fault c x akStore))) ∧
  (s.core.queue q = [] → exec (.stv q a m) s = .next (s.block (.queueEmpty q.toNat))) ∧
  (s.core.queue q = e :: r → s.strictHeld s.sid vq 128 .store = true → exec (.stv q a m) s = .next (s.block .fence)) ∧
  (s.core.queue q = e :: r → s.strictHeld s.sid vq 128 .store = false →
    (s.storeBytes s.sid vq (bytesOfV e.v) false = .ok t → exec (.stv q a m) s = .next (t.popQ s.sid q).adv) ∧
    (s.storeBytes s.sid vq (bytesOfV e.v) false = .bad t →
      exec (.stv q a m) s = .next (t.popQ s.sid q).adv ∧ ∃ vk, t = s.errorResponse s.sid vk vq) ∧
    (s.storeBytes s.sid vq (bytesOfV e.v) false = .fault c x → exec (.stv q a m) s = .next (s.w0Fault c x akStore))) ∧
  (s.pstPending s.sid = false → ∀ va n nd, s.strictHeld s.sid va n nd = false) ∧
  (∀ va b, isCore s.cur = false → s.store va b = s.storeBytes s.sid va b true) ∧
  (∀ va b, isCore s.cur = true → s.spaceFault s.sid va b.length = false → s.corePoison va b.length true = false →
    s.store va b = .ok (s.physPut s.sid (va.toNat % b.length == 0) (cellsAt (coreKey s.sid va) b))) ∧
  ∀ sid k b w, (∀ j, j < b.length → isDevice (k + j) = false ∧ ¬(rtepochAddr ≤ k + j ∧ k + j < rtepochAddr + 4)) →
    (s.physPut sid w (cellsAt k b)).mem = (s.wrBytes k b).mem) ∧
  (∀ (s t : State) (va : Word) (b : List Byte) (ps : List Part) (w : Bool),
  s.cur.sid < 4096 → s.me.buffer = false → s.resolve s.sid va b.length .store = .ok ps → s.storeBytes s.sid va b w = .ok t →
  (∀ k, ps = [⟨k, b.length, .release, none⟩] → s.OwnTile k → s.me.loadsOf (keysOf ps) = false →
    t.mem = (s.wrBytes k b).mem ∧ { t with mem := s.mem, olds := s.olds } = s) ∧
  ((∀ p ∈ ps, p.slot = none → ¬s.OwnTile p.key) → (∀ a, ¬s.Refills ps a → t.byte a = s.byte a) ∧
    ∃ new, t.me.pend = s.me.pend ++ new ∧ new.flatMap (·.cells) = ((keysOf ps).zip b).map (fun c => (c.1, roByte c.1 c.2)) ∧ ∀ p ∈ new, p.held = false))

/-- 03: R95-R97: a pending store is performed, byte for byte, only when no earlier one of its strand holds a byte of it, a STRICT one only
after the earlier STRICT ones, and a held one not at all; otherwise nothing happens.
03: R100, R102: a release performs every pending STRICT and RELEASE store of the strand that is not held; what is left was pending
before it, held or LOOSE; held ones stay; no byte of memory changes but those that the strand's stores hold. -/
def Obligations.PendingStores : Prop := (∀ (s : State) (sid k : Nat) (p : PStore), (s.strand sid).pend[k]? = some p →
  ((p.held = true ∨ ∃ j q, j < k ∧ (s.strand sid).pend[j]? = some q ∧
      ((∃ x ∈ q.cells, ∃ y ∈ p.cells, x.1 = y.1) ∨ (q.ord = .strict ∧ p.ord = .strict))) → s.performAt sid k = s) ∧
  (mayPerform (s.strand sid).pend k = true →
    ((s.performAt sid k).strand sid).pend = (s.strand sid).pend.eraseIdx k ∧
    (s.performAt sid k).mem = (s.putCells p.cells).mem ∧
    ∀ j, j ≠ sid → (s.performAt sid k).strand j = s.strand j)) ∧
  (∀ (s : State) (sid scope : Nat),
  let l := ((s.release sid scope).strand sid).pend
  (∀ p ∈ l, p.held = true ∨ p.ord = .loose) ∧ List.Sublist l (s.strand sid).pend ∧ (∀ p ∈ (s.strand sid).pend, p.held = true → p ∈ l) ∧
  (∀ a, (∀ p ∈ (s.strand sid).pend, ∀ c ∈ p.cells, c.1 ≠ a) → (s.release sid scope).byte a = s.byte a) ∧
  ∀ j, j ≠ sid → (s.release sid scope).strand j = s.strand j)

/-- 10: R237: each atomic on a local or camp location: the register gets the old value with zeros above, the location the new one; a failed
`ACAS` writes nothing.
10: R236-R238, 03: R90, R99, 20: R410: each atomic on a global location, of a strand with whatever stores and spans it has: the register
gets the value that the strand's own stores leave there, the location the new one, whatever the order bits; the tile's copy of the line goes, and
no open span can be undone any more. A refused one, on a poisoned line, writes nothing there, gives zero, and lets that copy go as well. -/
def Obligations.Atomics : Prop := (∀ (s : State) (d a b c : BitVec 5) (w : BitVec 1) (ord : BitVec 2) (sc : BitVec 3) (disp : BitVec 24) (k : Nat),
  let n : Nat := if w = 0 then 4 else 8
  let va : Word := s.g a + disp.signExtend 64
  let x : Nat := (s.g b).toNat % 2 ^ (8 * n)
  let y : Nat := (s.g c).toNat % 2 ^ (8 * n)
  let lt (p q : Nat) : Prop := (BitVec.ofNat (8 * n) p).toInt < (BitVec.ofNat (8 * n) q).toInt
  s.me.Plain → s.me.Settled → s.Clear → s.LocalAt va n .atomic k → s.spaceFault s.sid va n = false → va.toNat % n = 0 →
  AtomicDone s (.aadd d w a b ord sc disp) d n k (fun o => (o + x) % 2 ^ (8 * n)) ∧
  AtomicDone s (.amin d w a b ord sc disp) d n k (fun o => open Classical in if lt x o then x else o) ∧
  AtomicDone s (.amax d w a b ord sc disp) d n k (fun o => open Classical in if lt o x then x else o) ∧
  AtomicDone s (.aminn d w a b ord sc disp) d n k (fun o => min o x) ∧
  AtomicDone s (.amaxn d w a b ord sc disp) d n k (fun o => max o x) ∧
  AtomicDone s (.aand d w a b ord sc disp) d n k (fun o => o &&& x) ∧
  AtomicDone s (.aor d w a b ord sc disp) d n k (fun o => o ||| x) ∧
  AtomicDone s (.axor d w a b ord sc disp) d n k (fun o => o ^^^ x) ∧
  AtomicDone s (.aswp d w a b ord sc disp) d n k (fun _ => x) ∧
  AtomicDone s (.acas d w a b c ord sc disp) d n k (fun o => if o = y then x else o) ∧
  AtomicDone s (.aincb d w a b ord sc disp) d n k (fun o => if x ≤ o then 0 else o + 1) ∧
  (w = 0 → AtomicDone s (.afadd d a b ord sc disp) d 4 k (fun o => fmtF32.add o x % 2 ^ 32))) ∧
  (∀ (s : State) (d a b c : BitVec 5) (w : BitVec 1) (ord : BitVec 2) (sc : BitVec 3) (disp : BitVec 24)
    (p : Part) (ks : BitVec 12),
  let n : Nat := if w = 0 then 4 else 8
  let va : Word := s.g a + disp.signExtend 64
  let x : Nat := (s.g b).toNat % 2 ^ (8 * n)
  let y : Nat := (s.g c).toNat % 2 ^ (8 * n)
  let lt (p q : Nat) : Prop := (BitVec.ofNat (8 * n) p).toInt < (BitVec.ofNat (8 * n) q).toInt
  s.cur.sid < 4096 → (s.me.buffer = true ∨ ∀ q ∈ s.me.pend, q.held = false) → s.me.Settled → s.Clear →
  s.resolve s.sid va n .atomic = .ok [p] → p.slot = some ks → p.len = n → (∀ l ∈ p.lines, s.foreign l ks = false) →
  (p.key + n ≤ routeBase ∨ routeBase + 4096 ≤ p.key) → s.spaceFault s.sid va n = false → va.toNat % n = 0 →
  (s.partsRefusal false [p] = none →
    AtomicGlobal s (.aadd d w a b ord sc disp) d p (fun o => (o + x) % 2 ^ (8 * n)) ∧
    AtomicGlobal s (.amin d w a b ord sc disp) d p (fun o => open Classical in if lt x o then x else o) ∧
    AtomicGlobal s (.amax d w a b ord sc disp) d p (fun o => open Classical in if lt o x then x else o) ∧
    AtomicGlobal s (.aminn d w a b ord sc disp) d p (fun o => min o x) ∧
    AtomicGlobal s (.amaxn d w a b ord sc disp) d p (fun o => max o x) ∧
    AtomicGlobal s (.aand d w a b ord sc disp) d p (fun o => o &&& x) ∧
    AtomicGlobal s (.aor d w a b ord sc disp) d p (fun o => o ||| x) ∧
    AtomicGlobal s (.axor d w a b ord sc disp) d p (fun o => o ^^^ x) ∧
    AtomicGlobal s (.aswp d w a b ord sc disp) d p (fun _ => x) ∧
    AtomicGlobal s (.acas d w a b c ord sc disp) d p (fun o => if o = y then x else o) ∧
    AtomicGlobal s (.aincb d w a b ord sc disp) d p (fun o => if x ≤ o then 0 else o + 1) ∧
    (w = 0 → AtomicGlobal s (.afadd d a b ord sc disp) d p (fun o => fmtF32.add o x % 2 ^ 32))) ∧
  (s.me.pend = [] → (s.pitch s.me.ptag.toNat).pviol = 0 → s.partsRefusal false [p] ≠ none →
    ∃ t, exec (.aadd d w a b ord sc disp) s = .next t ∧ t.g d = 0 ∧ t.core.etc = satInc32 s.core.etc ∧ t.mem = s.mem ∧
      ∀ e ∈ (t.tile (sidTile s.sid)).srb, e.line ∉ p.lines))

/-- 10: R239: `LDACQ` and `STREL` at an aligned address: the load's value with zeros above, after which no line of the tile's scalar read
buffer is left (03: R100); the strand's earlier STRICT and RELEASE stores, then the store, here to its own allocation or wherever the
store goes; at POD an unacknowledged PST holds the release back (03: R103). With writes on their way to the bytes the value is one that `LoadReads`
allows.
03: R90: a line of the scalar read buffer leaves 4,096 cycles after its fill, and no other; 09: R253: CYC reads CYCLE.
10: R240, 03: R102; 13: R321; 19: R398: a fence performs what its kind orders; at POD one that releases waits for the strand's pod stores, then
takes a held error as a trap or is done; a drain does as that fence first, is refused with its status (1 for a mask or a right that is wanting, 2
for a port that is not ACTIVE), or puts the named ports into DRAINING and waits; an acknowledged port is DRAINED, and
with all acknowledged the status is 0; a port that does not answer in time gives status 3. -/
def Obligations.AcquireRelease : Prop := (∀ (s : State) (d a : BitVec 5) (sz : BitVec 2) (sc : BitVec 3) (k : Nat),
  let n : Nat := 8 / 2 ^ sz.toNat
  s.cur.sid < 4096 → s.spaceFault s.sid (s.g a) n = false → (s.g a).toNat % n = 0 →
  (s.me.Plain → s.olds = [] → s.LocalAt (s.g a) n .load k → ∃ t, exec (.ldacq d a sz sc) s = .next t ∧
    t.g d = (if d = 0 then 0 else BitVec.ofNat 64 (s.rd k n)) ∧ t.mem = s.mem ∧ (t.tile (sidTile s.sid)).srb = []) ∧
  (s.me.Plain → s.me.Settled → s.Clear → s.LocalAt (s.g a) n .store k → s.OwnTile k →
    ∃ t, exec (.strel d a sz sc) s = .next t ∧ t.mem = (s.wr k n (s.g d).toNat).mem ∧ t.seq = s.seq.adv) ∧
  (s.me.buffer = false → s.Clear → (∀ c x, s.resolve s.sid (s.g a) n .store ≠ .fault c x) →
    ∀ t, (s.release s.sid sc.toNat).storeBytes s.sid (s.g a) (bytesLE (s.g d).toNat n) true = .ok t → exec (.strel d a sz sc) s = .next t.adv) ∧
  (s.me.buffer = false → s.cur.e = false → s.pstPending s.sid = true → sc = 5 → (∀ c x, s.resolve s.sid (s.g a) n .store ≠ .fault c x) →
    exec (.strel d a sz sc) s = .next (s.block .fence))) ∧
  (∀ (s : State) (tile line : Nat) (d : BitVec 5),
  (∃ t, exec (.scalarReadBufferExpiry tile line) s = .next t ∧
    (∀ l, l ∈ (t.tile tile).srb ↔ l ∈ (s.tile tile).srb ∧ (l.line = line → s.cycle.toNat < l.fill.toNat + 4096)) ∧ t.mem = s.mem) ∧
  exec (.cyc d) s = .next (s.result d s.cycle)) ∧
  (∀ (s : State) (d a : BitVec 5) (k : BitVec 2) (sc : BitVec 3) (who : Agent) (port : Nat) (dl : Word),
  (k = 0 → exec (.fence k sc) s = .next (s.acquire s.sid sc.toNat).adv) ∧
  (k ≠ 0 → sc ≠ 5 → ∃ t, exec (.fence k sc) s = .next t.adv ∧ t = s.fenceDrain k.toNat sc.toNat ∧
    ∀ p ∈ (t.strand s.sid).pend, p.held = true ∨ p.ord = .loose) ∧
  (k ≠ 0 → s.me.Settled → s.pstPending s.sid = true → ∃ t : State, exec (.fence k 5) s = .next (t.block .fence) ∧ t.seq = s.seq) ∧
  (k ≠ 0 → s.pstPending s.sid = false → s.core.held = none → ∃ t, exec (.fence k 5) s = .next t.adv ∧ t = s.fenceDrain k.toNat 5 ∧
    ∀ p ∈ (t.strand s.sid).pend, p.held = true ∨ p.ord = .loose) ∧
  (∀ c x, s.pstPending s.sid = false → s.core.held = some (c, x) →
    (k ≠ 0 → ∃ t : State, exec (.fence k 5) s = .next (t.trap c x) ∧ (c = cPeerReset → t.core.heldRst = none) ∧
      (c = cPeerUnreachable → t.core.heldUnr = none)) ∧
    (s.seq.wait = none → ∃ t : State, exec (.drain d a) s = .next (t.trap c x) ∧ t.links = s.links)) ∧
  (∀ x, s.core.heldRst = some x → s.core.held = some (cPeerReset, x)) ∧
  (∀ x, s.core.heldRst = none → s.core.heldUnr = some x → s.core.held = some (cPeerUnreachable, x)) ∧
  (s.seq.wait = some (.drain dl) →
    (s.drainLeft (s.g a).toNat = [] → exec (.drain d a) s = .next (s.result d 0)) ∧
    (s.drainLeft (s.g a).toNat ≠ [] → exec (.drain d a) s = .next (s.block (.drain dl)))) ∧
  (s.seq.wait = none → s.me.Plain → s.pstPending s.sid = false → s.core.held = none →
    ((bitsOf (s.g a) 0 12 = 0 ∨ bitsOf (s.g a) 12 52 ≠ 0 ∨ (s.pitch s.me.ptag.toNat).pctl.getLsbD 10 = false) →
      ∃ t : State, exec (.drain d a) s = .next (t.result d 1) ∧ t.mem = s.mem ∧ t.links = s.links) ∧
    (bitsOf (s.g a) 0 12 ≠ 0 → bitsOf (s.g a) 12 52 = 0 → (s.pitch s.me.ptag.toNat).pctl.getLsbD 10 = true →
      (∃ p ∈ maskPorts (s.g a).toNat, (s.link p).st ≠ 1) →
      ∃ t : State, exec (.drain d a) s = .next (t.result d 2) ∧ t.mem = s.mem ∧ t.links = s.links) ∧
    (bitsOf (s.g a) 0 12 ≠ 0 → bitsOf (s.g a) 12 52 = 0 → (s.pitch s.me.ptag.toNat).pctl.getLsbD 10 = true →
      (∀ p ∈ maskPorts (s.g a).toNat, (s.link p).st = 1) →
      ∃ t : State, exec (.drain d a) s = .next t ∧ t.seq.wait = some (.drain (s.cycle + 0x100000)) ∧
        (∀ p ∈ maskPorts (s.g a).toNat, (t.link p).st = 2) ∧ t.mem = s.mem)) ∧
  (isPort port = true → (s.link port).st = 2 →
    ∃ t, exec (.drainAck port) s = .next t ∧ (t.link port).st = 3 ∧ (t.link port).drained = true ∧ ∀ k, k ≠ port → t.link k = s.link k) ∧
  (∀ d' m, s.waitOf who = some (.drain dl) → ((s.strand who.sid).core.seq who.e).drainOps = some (d', m) → s.runs who.sid = true →
    dl.toNat ≤ s.cycle.toNat → s.drainLeft m.toNat ≠ [] →
    exec (.drainTimeout who) s = .next (s.updSeqOf who (fun q => (q.gPut d'
      (BitVec.ofNat 64 (3 + ((s.drainLeft m.toNat).map (fun p => 2 ^ (12 + p))).sum))).adv))))

/-- 10: R226, R237, R239; 03: R87, R92: an address of no space, or a misaligned one, performs nothing: the first parks the strand with a
fault record, the second takes ALIGN at `TRAPVEC`, with the address as its argument.
03: R84, R86: a local access outside the strand's allocation takes no trap: `ETC` grows by one, saturating, a load delivers zero, and
nothing is written (the pitch keeps no violation log here). -/
def Obligations.BoundsAndAlign : Prop := (∀ (s : State) (d a b : BitVec 5) (w : BitVec 1) (ord : BitVec 2) (sc : BitVec 3) (disp : BitVec 24)
    (i : BitVec 27) (sz : BitVec 2),
  s.cur.sid < 4096 → s.me.saveReq = none →
  (spaceOf (s.g a + i.signExtend 64) ∉ [0, 0xFD, 0xFE] →
    exec (.ld d a i) s = .next (s.w0Fault cBounds (s.g a + i.signExtend 64) akLoad) ∧
    exec (.st d a i) s = .next (s.w0Fault cBounds (s.g a + i.signExtend 64) akStore)) ∧
  (spaceOf (s.g a + disp.signExtend 64) ∉ [0, 0xFD, 0xFE] →
    exec (.aadd d w a b ord sc disp) s = .next (s.w0Fault cBounds (s.g a + disp.signExtend 64) akAtomic)) ∧
  (spaceOf (s.g a) = 0xFE → (s.g a).toNat % (8 / 2 ^ sz.toNat) ≠ 0 →
    exec (.ldacq d a sz sc) s = .next (s.trap cAlign (s.g a)) ∧ exec (.strel d a sz sc) s = .next (s.trap cAlign (s.g a))) ∧
  (∀ c x ak, (s.w0Fault c x ak).me.scstate = 2 ∧ (s.w0Fault c x ak).me.pendCause = c ∧ (s.w0Fault c x ak).me.pendArg = x ∧
    (s.w0Fault c x ak).seq = s.seq)) ∧
  (∀ (s : State) (d a : BitVec 5) (i : BitVec 27),
  s.cur.sid < 4096 → spaceOf (s.g a + i.signExtend 64) = 0xFE → s.me.localOk (offOf (s.g a + i.signExtend 64)) 8 = false →
  (s.pitch s.me.ptag.toNat).pviol = 0 →
  (∃ t, exec (.ld d a i) s = .next t ∧ (∀ r, t.g r = if r = d then 0 else s.g r) ∧ t.core.etc = satInc32 s.core.etc ∧ t.mem = s.mem) ∧
  ∃ t, exec (.st d a i) s = .next t ∧ t.core.etc = satInc32 s.core.etc ∧ t.seq = s.seq.adv ∧ t.mem = s.mem)

/-! ## Walkers (10: R227-R232; 02: R63-R70) -/

/-- 10: R228-R232: the walker instructions: what each writes and the state the walker goes to.
10: R235, 02: R72: the full bits of a local range: cleared (but for those set in the same cycle), set, and waited for. -/
def Obligations.WalkerControl : Prop := (∀ (s : State) (d a : BitVec 5) (w : BitVec 3) (lvl sel : BitVec 5) (k : Nat),
  let x := s.core.walker w.toNat
  let b : BitVec 512 := BitVec.ofNat 512 (s.rd k 64)
  let put (y : Walker) : State := s.updWalker s.sid w.toNat (fun _ => y)
  ((x.st = .running ∨ x.st = .faulted) → exec (.wcfg d w a) s = .next (s.result d 4)) ∧
  (x.st ≠ .running → x.st ≠ .faulted → (s.g a).toNat % 64 = 0 → s.localRange s.sid (s.g a) 64 = some k →
    ((wdesc b).status s.me s.myTile = 0 →
      exec (.wcfg d w a) s = .next ((put { Walker.empty with desc := b, st := .configured }).result d 0)) ∧
    ((wdesc b).status s.me s.myTile ≠ 0 →
      exec (.wcfg d w a) s = .next ((put { x with st := .idle }).result d (BitVec.ofNat 64 ((wdesc b).status s.me s.myTile))))) ∧
  ((x.st = .configured ∨ x.st = .done) →
    exec (.wgo d w) s = .next ((put { Walker.empty with desc := x.desc, st := .running }).result d 0)) ∧
  (let rq := if (groupRows x.gate).isSome ∧ x.go = 0 then some s.cycle else none
   x.st = .halted → exec (.wgo d w) s = .next ((put { x with st := .running, stop := false, req := rq }).result d 0)) ∧
  ((x.st = .idle ∨ x.st = .running ∨ x.st = .faulted) → exec (.wgo d w) s = .next (s.result d 4)) ∧
  (x.st ≠ .running → exec (.whalt w) s = .next s.adv) ∧
  (x.st = .running → x.mid = false → x.go = 0 → exec (.whalt w) s = .next (put { x with st := .halted, stop := false }).adv) ∧
  (x.st = .running → (x.mid = true ∨ x.go ≠ 0) → exec (.whalt w) s = .next ((put { x with stop := true }).block (.whalt w.toNat))) ∧
  exec (.wstat d 0 sel) s = .next (s.result d 0) ∧
  (w ≠ 0 → exec (.wstat d w sel) s = .next (s.result d (BitVec.ofNat 64 (x.word sel.toNat)))) ∧
  (x.st = .halted → lvl.toNat < (wdesc x.desc).levels → (s.g a).toNat < (wdesc x.desc).count.getD lvl.toNat 0 →
    (s.g a).toNat < 2 ^ 32 →
    ∃ t : State, exec (.widx d w lvl a) s = .next (t.result d 0) ∧ t = put { x with
      st := .halted, fin := false, cnt := x.cnt.setIfInBounds lvl.toNat ((s.g a).setWidth 32), gate := dropOpenGroup x.gate })) ∧
  (∀ (s : State) (a b : BitVec 5) (gs : List Nat), s.febRange a b = some gs → gs ≠ [] →
  s.me.buffer = false → s.me.Settled → s.Clear →
  (∃ t, exec (.febClr a b) s = .next t ∧
    ∀ g, g ∈ (t.tile s.myTile).full ↔ g ∈ (s.tile s.myTile).full ∧ (g ∉ gs ∨ g ∈ (s.tile s.myTile).setNow)) ∧
  (∃ t, exec (.febSet a b) s = .next t ∧ ∀ g, g ∈ (t.tile s.myTile).full ↔ g ∈ (s.tile s.myTile).full ∨ g ∈ gs) ∧
  ((∀ g ∈ gs, g ∈ (s.tile s.myTile).full) → exec (.waitf a b) s = .next (s.acquire s.sid 1).adv) ∧
  ((∃ g ∈ gs, g ∉ (s.tile s.myTile).full) → exec (.waitf a b) s = .next (s.block (.fullBits (gs.headD 0) gs.length))))

/-- 02: R65, R66: a running affine walker from local memory to a queue with room moves one row of at most 128 bytes: the queue gets an
entry with the row's bytes and zeros above, the counters step, and after the last row the walker is DONE (02: R70). No load of the strand is under
way to the queue, nor another walker's row. A row that the agenda reads later (log 16) is read, and enters its queue, in a later iteration.
03: R96, R99 (log 16): a load row that the agenda reads later has issued: its walker stands in the row, and queue and memory are as they were;
the next iteration reads it and puts its entry into the queue.
02: R66, R65: a running affine walker from a queue to the strand's allocation stores one row of at most 128 bytes there and nowhere
else.
02: R68: the bit that decides a complete group leaves the branch-outcome queue from E: 0 discards the group's rows and writes nothing,
1 writes them;
with no complete group, or no bit, or while BRBQ on A asked for it first, nothing happens. -/
def Obligations.WalkerLoadRow : Prop := (∀ (s t : State) (sid w : Nat) (b : List Byte) (p : Part),
  let x := s.walkerOf sid w
  let d := wdesc x.desc
  let q : BitVec 3 := BitVec.ofNat 3 d.num
  let n := stepCounters d.count d.levels x.cnt 0 4
  x.st = .running → x.mid = false → x.fin = false → x.stop = false → x.gate = [] → w ≠ 0 → (s.strand sid).scstate = 1 →
  (s.strand sid).saveReq = none → d.store = false → d.index = false → d.kind = 0 → d.feclr = false → d.entries = 1 →
  ((s.strand sid).core.queue q).length < 8 → (s.strand sid).core.rowUnder 0 d.num = false → (s.strand sid).loads = [] → s.late = false →
  s.resolve sid (x.rowAddr d 0) d.rowlen .load = .ok [p] → p.slot = none →
  s.loadBytes sid (x.rowAddr d 0) d.rowlen .load .row = .ok b t →
  ∃ u, exec (.walkerIteration sid w) s = .next u ∧
    (u.strand sid).core.queue q = (s.strand sid).core.queue q ++ [⟨vOfBytes (b.take 128), false, false⟩] ∧
    (u.walkerOf sid w).cnt = n.1 ∧ (u.walkerOf sid w).st = (if n.2 then .done else .running) ∧ u.mem = s.mem) ∧
  (∀ (s : State) (sid w : Nat) (ps : List Part),
  let x := s.walkerOf sid w
  let d := wdesc x.desc
  let q : BitVec 3 := BitVec.ofNat 3 d.num
  x.st = .running → x.fin = false → w ≠ 0 → (s.strand sid).scstate = 1 → (s.strand sid).saveReq = none → d.store = false →
  (x.mid = false → x.stop = false → d.index = false → d.feclr = false → s.lateParts sid (x.rowAddr d 0) d.rowlen = some ps →
    s.strictHeld sid (x.rowAddr d 0) d.rowlen .load = false →
    ∃ u, exec (.walkerIteration sid w) s = .next u ∧ (u.walkerOf sid w).mid = true ∧ (u.walkerOf sid w).rd = ps ∧
      (u.strand sid).core.queue q = (s.strand sid).core.queue q ∧ u.mem = s.mem) ∧
  (x.mid = true → x.rd = ps → ps ≠ [] → w < 8 → d.kind = 0 → d.feclr = false → (keysOf ps).length = d.rowlen → d.entries = 1 →
    ((s.strand sid).core.queue q).length < 8 → (s.strand sid).core.rowUnder 0 d.num = false → (s.strand sid).loads = [] → s.olds = [] →
    (∀ p ∈ ps, p.slot = none) →
    ∃ u, exec (.walkerIteration sid w) s = .next u ∧ u.mem = s.mem ∧ (u.strand sid).core.queue q = (s.strand sid).core.queue q ++
      [⟨vOfBytes ((keysOf ps).map (fun a => (pendByte a (s.strand sid).pend).getD (s.byte a))), false, false⟩])) ∧
  (∀ (s : State) (sid w : Nat) (e : QEntry) (r : List QEntry),
  let x := s.walkerOf sid w
  let d := wdesc x.desc
  let q : BitVec 3 := BitVec.ofNat 3 d.num
  let va := x.rowAddr d 0
  x.st = .running → x.mid = false → x.fin = false → x.stop = false → x.buf = [] → w ≠ 0 → (s.strand sid).scstate = 1 →
  (s.strand sid).saveReq = none → d.store = true → d.index = false → d.gated = false → d.kind = 0 → d.feclr = false → d.entries = 1 →
  sid < 4096 → spaceOf va = 0xFE → (s.strand sid).localOk (offOf va) d.rowlen = true → (s.strand sid).buffer = false →
  (s.strand sid).base + (s.strand sid).size ≤ 0x400000 → (s.strand sid).loads = [] → (s.strand sid).core.queue q = e :: r →
  ∃ u, exec (.walkerIteration sid w) s = .next u ∧ (u.strand sid).core.queue q = r ∧
    u.mem = (s.wrBytes (scratchKey (sidTile sid) (offOf va)) ((bytesOfV e.v).take d.rowlen)).mem) ∧
  (∀ (s : State) (sid w n : Nat) (r : List Bool),
  let x := s.walkerOf sid w
  x.st = .running → (s.strand sid).scstate = 1 → x.go = 0 →
  (groupRows x.gate = none ∨ (s.strand sid).core.bqEA = [] → exec (.gatedGroupRelease sid w) s = .next s) ∧
  (groupRows x.gate = some n → (s.strand sid).core.bqEA = false :: r →
    s.brbqFirst sid x = false →
    ∃ u, exec (.gatedGroupRelease sid w) s = .next u ∧ (u.walkerOf sid w).gate = x.gate.drop n ∧ (u.strand sid).core.bqEA = r ∧
      u.mem = s.mem) ∧
  (groupRows x.gate = some n → (s.strand sid).core.bqEA = [] ∨ s.brbqFirst sid x = true → exec (.gatedGroupRelease sid w) s = .next s) ∧
  (∀ va v c g, sid < 4096 → x.gate = ⟨va, v, true, c⟩ :: g → (s.strand sid).core.bqEA = true :: r → s.brbqFirst sid x = false → spaceOf va = 0xFE →
    (s.strand sid).localOk (offOf va) (wdesc x.desc).rowlen = true → (s.strand sid).buffer = false → (wdesc x.desc).feclr = false →
    (s.strand sid).base + (s.strand sid).size ≤ 0x400000 →
    ∃ u, exec (.gatedGroupRelease sid w) s = .next u ∧ (u.walkerOf sid w).gate = g ∧ (u.strand sid).core.bqEA = r ∧
      u.mem = (s.wrBytes (scratchKey (sidTile sid) (offOf va)) ((bytesOfV v).take (wdesc x.desc).rowlen)).mem))

/-! ## Full bits, queues, semaphores (10: R235, R245, R246; 02: R60, R72) -/

/-! ## Barriers (10: R247-R252) -/

/-- 10: R248: an arrival is refused with its status and nothing recorded, or recorded after a release with status 0 and the wire's sense
in bit 8.
10: R251: a wait with no arrival recorded, or with one released, is done, the latter with an acquire; any other blocks, for at most
`BARTIMEO` cycles; after them BAR_TIMEOUT is taken and the arrival stays recorded.
10: R249, 17: R373: six edges of the arithmetic clock after its last arrival a complete row or column wire releases: its sense inverts, its phase closes, and each arrival
of a participant counts as released; before, nothing happens. -/
def Obligations.BarrierArrival : Prop := (∀ (s : State) (d a b : BitVec 5), s.me.buffer = false → s.Clear →
  (s.barhStatus (s.g a) (s.g b) ≠ 0 →
    exec (.barh d a b) s = .next (s.result d (BitVec.ofNat 64 (s.barhStatus (s.g a) (s.g b))))) ∧
  (s.barhStatus (s.g a) (s.g b) = 0 →
    exec (.barh d a b) s = .next (((s.release s.sid (selScope (s.g a))).barhRecord (s.g a) (s.g b)).result d
      (if s.barSense (s.g a) then 256 else 0))) ∧
  (bitsOf (s.g a) 40 24 ≠ 0 → s.barhStatus (s.g a) (s.g b) = 4) ∧
  (bitsOf (s.g a) 40 24 = 0 → selKind (s.g a) = 0 → selBar (s.g a) = 0 → s.g b = 0 → selY (s.g a) = 0 →
    (selX (s.g a)).testBit (tileX s.myTile) = true → (s.row (s.myTile / 256 * 16 + tileY s.myTile)).opened = false →
    (s.row (s.myTile / 256 * 16 + tileY s.myTile)).arrived = [] → s.barhStatus (s.g a) (s.g b) = 0)) ∧
  (∀ (s : State) (a : BitVec 5) (x : Arrival) (who : Agent) (dl sel : Word),
  (s.arrivalOf s.sid (s.g a) = none → exec (.barw a) s = .next s.adv) ∧
  (s.arrivalOf s.sid (s.g a) = some x → x.withdrawn = false → x.done = true →
    exec (.barw a) s = .next ((s.dropArrival x).acquire s.sid (selScope (s.g a))).adv) ∧
  (s.arrivalOf s.sid (s.g a) = some x → x.withdrawn = false → x.done = false → s.seq.wait = none →
    exec (.barw a) s = .next (s.block (.bar (if (s.pitch s.me.ptag.toNat).pbarto = 0 ∨ 2 ^ 64 ≤ s.cycle.toNat + (s.pitch s.me.ptag.toNat).pbarto.toNat then none
      else some (s.cycle + (s.pitch s.me.ptag.toNat).pbarto))))) ∧
  (s.waitOf who = some (.bar (some dl)) → ((s.strand who.sid).core.seq who.e).barSel = some sel →
    s.arrivalOf who.sid sel = some x → x.done = false → s.runs who.sid = true →
    (dl.toNat ≤ s.cycle.toNat →
      exec (.barTimeout who) s = .next ({ s with cur := who }.trap cBarTimeout (s.barArg x sel)) ∧
      (State.trap { s with cur := who } cBarTimeout (s.barArg x sel)).arrivals = s.arrivals) ∧
    (s.cycle.toNat < dl.toNat → exec (.barTimeout who) s = .next s))) ∧
  (∀ (s : State) (die wire : Nat) (col : Bool),
  let k := die * 16 + wire
  let w := if col then s.col k else s.row k
  let released (a : Arrival) : Prop := a.bkind = w.kind ∧ a.wire = k ∧ ∃ p ∈ w.arrived, p.2 = a.sid
  ((w.complete col = false ∨ s.prog < w.last + 4 * 6) → exec (.wireRelease die wire col) s = .next s) ∧
  (w.complete col = true → w.last + 4 * 6 ≤ s.prog → w.kind ≠ 2 →
    ∃ t, exec (.wireRelease die wire col) s = .next t ∧
      (let w' := if col then t.col k else t.row k
       w'.sense = !w.sense ∧ w'.opened = false ∧ w'.arrived = []) ∧
      (∀ a ∈ t.arrivals, released a → a.done = true) ∧ t.arrivals.length = s.arrivals.length) ∧
  (w.complete col = true → w.last + 4 * 6 ≤ s.prog → w.kind = 2 → col = false →
    ∃ t, exec (.wireRelease die wire col) s = .next t ∧ (t.row k).sense = !w.sense ∧ (t.row k).toCol = w.toCol ++ w.arrived ∧
      t.arrivals = s.arrivals) ∧
  ((s.row k).toCol ≠ [] → (s.row k).last + 4 * 8 ≤ s.prog →
    ∃ t, exec (.meshColumnArrival die wire) s = .next t ∧ (t.row k).toCol = [] ∧
      ∀ p ∈ (s.row k).toCol, ((wire, p.2) ∈ (t.col (die * 16 + p.1)).arrived)))

/-! ## Copies (10: R241-R244; 03: R104-R106) -/

/-- 10: R242, R243: each copy-issuing instruction performs the strand's earlier accesses, and with a good descriptor and a free slot takes the
slot, starts the copy of its rows and writes its ticket; with none free it blocks.
10: R244: CPYW: at once for a zero generation or a completed copy, the latter with an acquire; else it waits for the later of the two
promises, and then is done or takes PROMISE_MISS with a new promise.
03: R104: one row between local ranges: the destination gets the bytes of the source, in the row's order, the row is done, and no other
byte changes; a row that is done is not written again.
10: R243: a copy completes when all its rows are written: its slot is free, and its ticket is pushed or its semaphore signalled; while a
row is not written, or its ticket has no room, nothing happens. -/
def Obligations.CopyIssue : Prop := (∀ (s : State) (d a : BitVec 5) (disp : BitVec 32) (q : BitVec 3) (h : BitVec 4) (k : Nat) (l : List CpRow),
  let r := ((s.spanBreak s.sid).settleLoads s.sid).drain s.sid allKinds
  let va := r.g a + disp.signExtend 64
  r.localRange s.sid va 32 = some k → va.toNat % 32 = 0 → (cpDesc (r.rdBytes k 32)).ok = true →
  r.planCopy s.sid (cpDesc (r.rdBytes k 32)) = .rows l →
  (r.core.freeSlots = [] → exec (.cpy d a disp) s = .next (r.block .copySlot)) ∧
  (r.core.freeSlots ≠ [] → CopyStarted s r (.cpy d a disp) d l none none ∧ CopyStarted s r (.cpym d a disp) d l none none ∧
    CopyStarted s r (.cpyq d a disp q) d l (some q.toNat) none ∧ CopyStarted s r (.cpyc d a disp h) d l none (some h.toNat))) ∧
  (∀ (s : State) (n : BitVec 5) (who : Agent) (t w : Word), s.seq.wait = none →
  let tk := s.g n
  let p := max (bitsOf tk 0 56) (s.core.cps.getD (bitsOf tk 60 4) .empty).prom.toNat
  (bitsOf tk 56 4 = 0 → exec (.cpyw n) s = .next s.adv) ∧
  (bitsOf tk 56 4 ≠ 0 → s.core.ticketLive tk = false → exec (.cpyw n) s = .next (s.acquire s.sid 1).adv) ∧
  (bitsOf tk 56 4 ≠ 0 → s.core.ticketLive tk = true →
    (bitsOf s.cycle 0 56 < p → exec (.cpyw n) s = .next (s.block (.ticket tk (BitVec.ofNat 64 p)))) ∧
    (p ≤ bitsOf s.cycle 0 56 → ∃ est u, exec (.cpyw n) s = .next (State.trap u cPromiseMiss (setBits tk 0 56 est)) ∧
      u.mem = s.mem ∧ u.seq = s.seq)) ∧
  (s.waitOf who = some (.ticket t w) → s.runs who.sid = true →
    (bitsOf s.cycle 0 56 < w.toNat → exec (.cpywWake who) s = .next s) ∧
    (w.toNat ≤ bitsOf s.cycle 0 56 → (s.strand who.sid).core.ticketLive t = false →
      exec (.cpywWake who) s = .next (State.adv (State.acquire { s with cur := who } who.sid 1))))) ∧
  (∀ (s : State) (c j : Nat) (x : Copy) (r : CpRow),
  Tbl.find s.copies c = some x → x.rows[j]? = some r →
  (r.done = true → exec (.copyRowWrite c j) s = .next s) ∧
  (r.done = false → x.leader = none → x.merge = none → s.olds = [] →
    s.merged c = [(c, x)] → x.fem = false → r.src ≠ [] →
    (∀ p ∈ r.src, p.slot = none) → (∀ p ∈ r.dst, p.slot = none) →
    ∃ t, exec (.copyRowWrite c j) s = .next t ∧ t.mem = (s.putCells ((keysOf r.dst).zip ((keysOf r.src).map s.byte))).mem ∧
      ∃ y, Tbl.find t.copies c = some y ∧ y.rows = x.rows.set j { r with done := true })) ∧
  (∀ (s : State) (c sid slot : Nat) (x : Copy) (tk : Word) (q : Option Nat) (h : Option Nat),
  Tbl.find s.copies c = some x → x.owner = .strand sid slot q h tk →
  ((∃ r ∈ x.rows, r.done = false) → exec (.copyCompletion c) s = .next s) ∧
  (∀ n, q = some n → (s.strand sid).queueFull (BitVec.ofNat 3 n) = true → exec (.copyCompletion c) s = .next s) ∧
  ((∀ r ∈ x.rows, r.done = true) → slot < 16 → (∀ n, q = some n → n < 8) →
    (∀ n, q = some n → (s.strand sid).queueFull (BitVec.ofNat 3 n) = false ∧ ∀ l ∈ (s.strand sid).loads, l.dst ≠ .queue (BitVec.ofNat 3 n)) →
    ∃ t, exec (.copyCompletion c) s = .next t ∧ Tbl.find t.copies c = none ∧ ((t.strand sid).core.cps.getD slot .empty).copy = none ∧
      t.mem = s.mem ∧
      (∀ n, q = some n → (t.strand sid).core.queue (BitVec.ofNat 3 n) =
        (s.strand sid).core.queue (BitVec.ofNat 3 n) ++ [⟨tk.setWidth 1024, false, true⟩]) ∧
      ∀ n, h = some n → n < 16 → (t.strand sid).core.h.getD n 0 = satInc16 ((s.strand sid).core.h.getD n 0)))

/-! ## Channels (13: R308-R318) -/

/-- 13: R310, R308: a send on an open send end with room appends one data token, with the error bit when `ETC` is not zero, and counts it; with
no room, or while a walker's row is entering the end (02: R66), it blocks; on a zero-slot channel the token is offered, and accepted when the receiver has taken it (13: R308); on an end that is not an open send end it takes CHAN_ERROR with the reason of R309. -/
def Obligations.ChannelSend : Prop := ∀ (s : State) (c : BitVec 3) (va : BitVec 5), s.seq.wait = none →
  let e := s.endOf s.sid c.toNat
  let ch := s.chan e.chan
  let err (n : Nat) : Prop := exec (.csend c va) s = .next
    ((s.updEnd s.sid c.toNat (fun e => { e with reason := BitVec.ofNat 8 n })).trap cChanError (BitVec.ofNat 64 (c.toNat + n * 256)))
  let row := s.core.rowUnder 1 c.toNat
  (e.dir = 0 → err 1) ∧ (e.dir = 2 → err 2) ∧ (e.dir = 1 → e.closed = true → err 3) ∧
  (e.dir = 1 → e.closed = false → row = true → exec (.csend c va) s = .next (s.block (.chan c.toNat 0 none none))) ∧
  (e.dir = 1 → e.closed = false → row = false → ch.slots ≠ 0 → ch.room 1 = false → ch.gone = true → err 6) ∧
  (e.dir = 1 → e.closed = false → ch.slots ≠ 0 → ch.room 1 = false → ch.gone = false →
    exec (.csend c va) s = .next (s.block (.chan c.toNat 0 none none))) ∧
  (e.dir = 1 → e.closed = false → row = false → ch.slots ≠ 0 → ch.room 1 = true → s.periodEnd s.sid = none →
    ∃ t, exec (.csend c va) s = .next t ∧ (t.chan e.chan).tokens = ch.tokens ++ [.data (s.v va) (s.core.etc != 0)] ∧
      (t.endOf s.sid c.toNat).total.toNat = min (2 ^ 32 - 1) (e.total.toNat + 1) ∧ t.mem = s.mem ∧ t.seq.g = s.seq.g ∧
      ∀ k, k ≠ e.chan → t.chan k = s.chan k) ∧
  (e.dir = 1 → e.closed = false → row = false → ch.slots = 0 → ch.gone = false →
    exec (.csend c va) s = .next ((s.chanPut e.chan (.data (s.v va) (s.core.etc != 0))).block (.chan c.toNat 0 (some ch.put) none))) ∧
  (∀ o (u : State), u = s.updSeq (fun q => { q with wait := some (.chan c.toNat 0 (some o) none) }) → e.dir = 1 → e.closed = false →
    ch.slots = 0 → s.periodEnd s.sid = none →
    (o < ch.took → ∃ t, exec (.csend c va) u = .next t ∧ (t.endOf s.sid c.toNat).total.toNat = min (2 ^ 32 - 1) (e.total.toNat + 1) ∧
      t.chan e.chan = ch ∧ t.mem = s.mem) ∧
    (ch.took ≤ o → ch.gone = false → exec (.csend c va) u = .next (u.block (.chan c.toNat 0 (some o) none))))

/-- 13: R311, R312: a receive takes the data token at the head of a receive end; an empty channel blocks it; at an end token CRECV takes
CHAN_ERROR and CRECV.S reports 3, nothing taken; a peek takes nothing.
13: R313-R318: a close appends the end token and closes the end; a marker wave of a source appends a marker to every open send end and a
wave that CWAITM passes takes the markers of every receive end, each advancing `SPANNO` by one, unless a walker's row is entering a send end
(02: R66); CSTAT and CERR read, CERR clears. -/
def Obligations.ChannelReceive : Prop := (∀ (s : State) (vd b : BitVec 5) (c : BitVec 3) (v : VWord) (x : Bool) (r : List Token),
  s.seq.wait = none → s.me.buffer = false → (s.endOf s.sid c.toNat).dir = 2 →
  let k := (s.endOf s.sid c.toNat).chan
  let toks := (s.chan k).view
  let taken (t : State) : Prop := (t.chan k).view = r ∧ t.v vd = v ∧ t.mem = s.mem ∧
    t.core.etc = (if x then satInc32 s.core.etc else s.core.etc) ∧ ∀ q, q ≠ vd → t.v q = s.v q
  ((s.chan k).due = [] → toks = .data v x :: r → s.bpHit s.sid c.toNat = none →
    (∃ t, exec (.crecv vd c) s = .next t ∧ taken t ∧ t.seq.g = s.seq.g) ∧
    ∃ t, exec (.crecvS vd c b) s = .next t ∧ taken t ∧ t.g b = 0) ∧
  (toks = [] → (s.chan k).gone = false →
    exec (.crecv vd c) s = .next (s.block (.chan c.toNat 0 none none)) ∧
    exec (.crecvS vd c b) s = .next (s.block (.chan c.toNat 0 none none))) ∧
  (toks = .fin :: r →
    exec (.crecv vd c) s = .next ((s.updEnd s.sid c.toNat (fun e => { e with reason := 4 })).trap cChanError
      (BitVec.ofNat 64 (c.toNat + 4 * 256))) ∧
    ∃ t : State, exec (.crecvS vd c b) s = .next (t.result b 3) ∧ t.seq = s.seq ∧ t.mem = s.mem ∧ (t.chan k).view = toks) ∧
  (toks = .data v x :: r → exec (.cpeek vd c b) s = .next ((s.vPut vd v).result b 0)) ∧
  (toks = [] → exec (.cpeek vd c b) s = .next (s.result b 1)) ∧
  (∀ p, toks = .marker p :: r → exec (.cpeek vd c b) s = .next (s.result b 2)) ∧
  (toks = .fin :: r → exec (.cpeek vd c b) s = .next (s.result b 3))) ∧
  (∀ (s : State) (c : BitVec 3) (d : BitVec 5) (sel : BitVec 6), s.seq.wait = none → s.me.buffer = false →
  let e := s.endOf s.sid c.toNat
  (e.dir = 1 → e.closed = false → (s.chan e.chan).slots ≠ 0 → (s.chan e.chan).room 1 = true → s.core.rowUnder 1 c.toNat = false →
    ∃ t, exec (.cclose c) s = .next t ∧ (t.chan e.chan).tokens = (s.chan e.chan).tokens ++ [.fin] ∧
      (t.endOf s.sid c.toNat).closed = true ∧ t.mem = s.mem) ∧
  (s.recvEnds s.sid = [] → (∀ i ∈ s.openEnds s.sid, (s.chanOf s.sid i).gone = false ∧ s.core.rowUnder 1 i = false) →
    ∃ t, exec .cmark s = .next t ∧ t.core.spanno = s.core.spanno + 1 ∧ t.me.scstate = s.me.scstate) ∧
  (s.recvEnds s.sid = [] → exec .cwaitm s = .next s.adv) ∧
  (s.recvEnds s.sid ≠ [] → (∀ i ∈ s.recvEnds s.sid, (s.chanOf s.sid i).view.head? = some (.marker false)) →
    (∀ i ∈ s.openEnds s.sid, (s.chanOf s.sid i).gone = false ∧ s.core.rowUnder 1 i = false) → (∀ i, (s.endOf s.sid i).ratio = 0) →
    ∃ t, exec .cwaitm s = .next t ∧ t.core.spanno = s.core.spanno + 1 ∧ t.me.scstate = s.me.scstate) ∧
  (s.recvEnds s.sid ≠ [] → ∃ t : State, exec .cmark s = .next (t.trap cChanError (5 * 256)) ∧ t.seq = s.seq) ∧
  exec (.cstat d c sel) s = .next (s.result d (BitVec.ofNat 64 (s.cstat s.sid c.toNat sel.toNat))) ∧
  (e.dir ≠ 0 → exec (.cerr d c) s = .next ((s.updEnd s.sid c.toNat (fun e => { e with errs := 0, reason := 0 })).result d
    (BitVec.ofNat 64 (e.errs.toNat + e.reason.toNat * 2 ^ 32)))))

/-! ## The pod (06: R170-R172; 13: R319-R321; 10: R240) -/

/-- 13: R320, 06: R170: accesses to the module itself: the value, the store and the atomic at the translated place, for a strand with nothing
outstanding; one to a STRICT page waits for the strand's PSTs (03: R95). -/
def Obligations.PodLocal : Prop := ∀ (s : State) (d a b c e : BitVec 5) (w : BitVec 1) (sz ord : BitVec 2) (aop : BitVec 4) (sc : BitVec 3)
    (disp : BitVec 24) (ps : List Part),
  let addr := s.g a + disp.signExtend 64
  let pkg := s.g b
  let n : Nat := 8 / 2 ^ sz.toNat
  let m : Nat := if w = 0 then 4 else 8
  s.me.Plain → s.me.Settled → s.cur.sid < 4096 → s.seq.wait = none → spaceOf addr = 0 → pkg = s.pkg.setWidth 64 →
  (addr.toNat % n = 0 → s.podTarget (sidDie s.sid) s.me.ptag.toNat 1 addr n = .ok ps → s.pstPending s.sid = true → ps.any isStrictPart = true →
    exec (.pst b a c sz disp) s = .next (s.block .fence)) ∧
  (addr.toNat % n = 0 → s.podTarget (sidDie s.sid) s.me.ptag.toNat 0 addr n = .ok ps → s.pstPending s.sid = false → s.olds = [] →
    ∃ t, exec (.pld d b a sz disp) s = .next t ∧ t.g d = (if d = 0 then 0 else BitVec.ofNat 64 (s.valOf (keysOf ps))) ∧ t.mem = s.mem) ∧
  (addr.toNat % n = 0 → s.podTarget (sidDie s.sid) s.me.ptag.toNat 1 addr n = .ok ps → s.pstPending s.sid = false →
    ∃ t, exec (.pst b a c sz disp) s = .next t ∧
      t.mem = ((s.touch true ps).putCells ((keysOf ps).zip (bytesLE ((s.g c).toNat % 2 ^ (8 * n)) n))).mem ∧ t.seq = s.seq.adv) ∧
  (s.Clear → addr.toNat % m = 0 → s.podTarget (sidDie s.sid) s.me.ptag.toNat 2 addr m = .ok ps →
    let r := (s.touch true ps).atomicAt (keysOf ps) aop.toNat ((s.g c).toNat % 2 ^ (8 * m)) ((s.g e).toNat % 2 ^ (8 * m))
    ∃ t, exec (.patom d w b a c e aop ord sc disp) s = .next t ∧ t.g d = (if d = 0 then 0 else BitVec.ofNat 64 r.1) ∧ t.mem = r.2.mem)

/-- 06: R170, R172; 13: R319: accesses to another module: a load and an atomic wait for their reply; a store does not; to an unreachable package
the load and the atomic take PEER_UNREACHABLE and the store's error is held; an address of another space is BOUNDS, a misaligned one ALIGN.
06: R171, R172: what ends an access: a reply with the recorded incarnation gives a waiting load or atomic its value and is dropped with any
other; no reply for 2^20 cycles, or a new incarnation of the peer, ends it with PEER_UNREACHABLE or PEER_RESET: a trap of the one that waits, a
held error of a PST.
06: R170-R172, 01: R20: what a request of another module does here: nothing under another incarnation of this module; without a join it is
refused, with nothing read or written; with one it loads, stores or updates the location at the translated place and answers through the port that the route
table names; a packet for another package goes on by the same table, or is answered as unreachable (19: R396); a decrement joins the
messages. -/
def Obligations.PodRemote : Prop := (∀ (s : State) (d a b c e : BitVec 5) (w : BitVec 1) (sz ord : BitVec 2) (aop : BitVec 4) (sc : BitVec 3)
    (disp : BitVec 24) (port : Nat),
  let addr := s.g a + disp.signExtend 64
  let n : Nat := 8 / 2 ^ sz.toNat
  let pkg := (s.g b).toNat
  s.me.Plain → s.seq.wait = none →
  (spaceOf addr ≠ 0 → exec (.pld d b a sz disp) s = .next (s.w0Fault cBounds addr akLoad)) ∧
  (spaceOf addr = 0 → pkg < 1024 → addr.toNat % n ≠ 0 → exec (.pld d b a sz disp) s = .next (s.trap cAlign addr)) ∧
  (s.Clear → spaceOf addr = 0 → pkg < 1024 → addr.toNat % (if w = 0 then 4 else 8) = 0 → pkg ≠ s.pkg.toNat →
    (s.portFor s.myTile pkg = none →
      ∃ t : State, exec (.patom d w b a c e aop ord sc disp) s = .next (t.trap cPeerUnreachable addr) ∧ t.mem = s.mem) ∧
    (s.portFor s.myTile pkg = some port →
      ∃ t id x, exec (.patom d w b a c e aop ord sc disp) s = .next t ∧ t.seq.wait = some (.podReply id) ∧ Tbl.find t.podOut id = some x ∧
        x.kind = 2 ∧ x.addr = addr ∧ x.pkg.toNat = pkg ∧ x.d = d ∧ x.val = s.g c ∧ x.cmp = s.g e ∧ x.aop = aop ∧
        x.acq = (if ord.getLsbD 0 then some sc.toNat else none) ∧ t.mem = s.mem)) ∧
  (spaceOf addr = 0 → pkg < 1024 → addr.toNat % n = 0 → pkg ≠ s.pkg.toNat →
    (s.portFor s.myTile pkg = none →
      (∃ t : State, exec (.pld d b a sz disp) s = .next (t.trap cPeerUnreachable addr) ∧ t.me = s.me ∧ t.mem = s.mem) ∧
      ∃ t : State, exec (.pst b a c sz disp) s = .next (t.holdPst s.sid false addr).adv ∧ t.me = s.me ∧ t.mem = s.mem) ∧
    (s.portFor s.myTile pkg = some port →
      (∃ t id x, exec (.pld d b a sz disp) s = .next t ∧ t.seq.wait = some (.podReply id) ∧ Tbl.find t.podOut id = some x ∧
        x.kind = 0 ∧ x.addr = addr ∧ x.pkg.toNat = pkg ∧ x.d = d ∧ t.mem = s.mem) ∧
      ∃ t id x, exec (.pst b a c sz disp) s = .next t ∧ Tbl.find t.podOut id = some x ∧ x.kind = 1 ∧ x.addr = addr ∧ x.val = s.g c ∧
        t.seq = s.seq.adv ∧ t.mem = s.mem))) ∧
  (∀ (s : State) (id sid : Nat) (a : PodAcc) (inc : BitVec 8) (v : Word) (pkg : BitVec 10),
  Tbl.find s.podOut id = some a → a.dead = false → (s.portFor a.src a.pkg.toNat).any (s.portCut (a.src / 256)) = false →
  (inc ≠ Tbl.get s.peers a.pkg.toNat 0 → exec (.podReply id inc (.value v)) s = .next s) ∧
  (inc = Tbl.get s.peers a.pkg.toNat 0 → a.port = none → a.ended = 0 → a.kind ≠ 1 → s.strandAt a.rk a.inv a.ctile = some sid →
    s.waitOf ⟨sid, false⟩ = some (.podReply id) →
    ∃ t, exec (.podReply id inc (.value v)) s = .next t ∧
      ((t.strand sid).core.seq false) = (((s.strand sid).core.seq false).gPut a.d (BitVec.ofNat 64 (v.toNat % 2 ^ (8 * a.n)))).adv ∧
      Tbl.find t.podOut id = none ∧ t.mem = s.mem) ∧
  (s.cycle.toNat < a.since.toNat + 2 ^ 20 → exec (.podReplyTimeout id) s = .next s) ∧
  (a.since.toNat + 2 ^ 20 ≤ s.cycle.toNat → a.ended = 0 → a.kind ≠ 1 → s.strandAt a.rk a.inv a.ctile = some sid →
    s.waitOf ⟨sid, false⟩ = some (.podReply id) →
    exec (.podReplyTimeout id) s =
      .next { (State.trap { s.dropPod id with cur := ⟨sid, false⟩ } cPeerUnreachable a.addr) with cur := s.cur }) ∧
  (Tbl.get s.peers pkg.toNat 0 = inc → exec (.incarnationAnnouncement pkg inc) s = .next s) ∧
  (Tbl.get s.peers pkg.toNat 0 ≠ inc → (∀ p ∈ s.podOut, p.2.pkg ≠ pkg) →
    exec (.incarnationAnnouncement pkg inc) s = .next { s with peers := Tbl.put s.peers pkg.toNat inc }) ∧
  (let u : State := { s with peers := Tbl.put s.peers a.pkg.toNat inc }
   Tbl.get s.peers a.pkg.toNat 0 ≠ inc → s.podOut.filter (fun p => p.2.pkg == a.pkg && p.2.ended == 0) = [(id, a)] →
    s.strandAt a.rk a.inv a.ctile = some sid →
    (a.kind ≠ 1 → s.waitOf ⟨sid, false⟩ = some (.podReply id) → exec (.incarnationAnnouncement a.pkg inc) s =
      .next { (State.trap { u.dropPod id with cur := ⟨sid, false⟩ } cPeerReset a.addr) with cur := s.cur }) ∧
    (a.kind = 1 → exec (.incarnationAnnouncement a.pkg inc) s = .next ((u.dropPod id).holdPst sid true a.addr) ∧
      (((u.dropPod id).holdPst sid true a.addr).strand sid).core.heldRst = (s.strand sid).core.heldRst.or (some a.addr)))) ∧
  (∀ (s : State) (src target : BitVec 10) (no : BitVec 11) (pitch : BitVec 12) (inc : BitVec 8)
    (addr x y tref : Word) (sz : BitVec 2) (op : BitVec 4) (j : Join) (ps : List Part) (amt : Nat) (skip : Bool) (p : BitVec 12) (w : List Word),
  let n : Nat := 8 / 2 ^ sz.toNat
  let req (k : BitVec 2) : Instr := .podRequest (.access src no pitch inc k addr sz x y op)
  let found := s.joins.find? (fun j => j.pkg == src && j.pitch == pitch)
  (∀ k, inc ≠ s.incarnation → exec (req k) s = .next s) ∧
  (∀ k, inc = s.incarnation → found = none → exec (req k) s = .next (s.reply src no.toNat pitch 1 0)) ∧
  (inc = s.incarnation → found = some j → s.pstate j.ptag.toNat = 1 →
    (s.podTarget 0 j.ptag.toNat 2 addr n = .ok ps →
      let r := (s.touch true ps).atomicAt (keysOf ps) op.toNat (x.toNat % 2 ^ (8 * n)) (y.toNat % 2 ^ (8 * n))
      exec (req 2) s = .next (r.2.reply src no.toNat j.ptag 0 r.1)) ∧
    (s.podTarget 0 j.ptag.toNat 0 addr n = .ok ps → s.olds = [] →
      exec (req 0) s = .next ((s.touch false ps).reply src no.toNat j.ptag 0 (s.valOf (keysOf ps)))) ∧
    (s.podTarget 0 j.ptag.toNat 1 addr n = .ok ps →
      ∃ t, exec (req 1) s = .next t ∧
        t.mem = ((s.touch true ps).putCells ((keysOf ps).zip (bytesLE (x.toNat % 2 ^ (8 * n)) n))).mem)) ∧
  (∀ k v q, s.portFor no.toNat src.toNat = some q → s.portOpen q = true → (∀ h ∈ s.heldPkts, h.port ≠ q) →
    s.reply src no.toNat pitch k v =
      s.sendPort q ⟨3, src.toNat, pitch, [BitVec.ofNat 64 k, BitVec.ofNat 64 v, s.incarnation.setWidth 64]⟩) ∧
  (∀ k q, s.portFor no.toNat target.toNat = some q → s.portOpen q = true → (∀ h ∈ s.heldPkts, h.port ≠ q) →
    exec (.podRequest (.forward src target no k pitch w)) s = .next (s.sendPort q ⟨k.toNat, target.toNat, pitch, w⟩)) ∧
  (∀ k, s.portFor no.toNat target.toNat = none →
    exec (.podRequest (.forward src target no k pitch w)) s = .next (s.reply src no.toNat pitch 2 0)) ∧
  (∃ t, exec (.podRequest (.decrement tref amt skip p)) s = .next t ∧
    t.msgs = s.msgs ++ [⟨false, tref &&& ~~~0x1F#64, amt, skip, p, s.cycle, 1040 + bitsOf tref 52 2, bitsOf tref 52 2, none⟩] ∧ t.mem = s.mem))

/-! ## Tasks (01: R13-R38; 13: R325-R331) -/

/-- 13: R327, 01: R20: a decrement performs the strand's stores and posts one message with the tref, its amount and its kind, which a flit
carries when it is for another die (19: R390), under the source number of its tile (19: R396); while a PST is not acknowledged it waits
(03: R103; that the release at POD waits so is log 25).
01: R20, R32, R35: what a message does at its dispatcher: one decrement in a cycle; a record of another instance, or a FREE one, only counts
it as stale; a record in BUILDING gets `COUNT` less the amount, `LIVE` when it is no skip, and the excess counted; a message older than 2^20
cycles is not delivered and is lost; a seal marks the entry sealed, and its records leave BUILDING. That a message with no way left is lost only
at that age is the model's reading (DEDUCED, log 57). -/
def Obligations.DecrementPosted : Prop := (∀ (s : State) (a : BitVec 5) (amt : BitVec 6), s.me.buffer = false →
  ∀ skip, let i : Instr := if skip then .tdecSkip a amt else .tdec a amt
  (s.Clear → s.me.Settled → ∃ t via, exec i s = .next t ∧
    t.msgs = s.msgs ++ [⟨false, s.g a &&& ~~~0x1F#64, amt.toNat + 1, skip, s.me.ptag, s.cycle, s.myTile, sidDie s.sid, via⟩] ∧
    (bitsOf (s.g a) 52 2 = sidDie s.sid → via = none) ∧
    (t.strand s.sid).pend = (s.me.pend).filter (·.held) ∧ t.seq = s.seq.adv) ∧
  (s.cur.e = false → s.pstPending s.sid = true → exec i s = .next (s.block .fence))) ∧
  (∀ (s : State) (m : Nat) (x : DMsg) (k : Nat) (e : InstEntry), s.msgs[m]? = some x →
  let rk := trefKey x.tref
  let r := s.recOf rk
  let late : Prop := x.sent.toNat + 2 ^ 20 ≤ s.cycle.toNat
  let busy : Prop := (s.dispOf (bitsOf x.tref 52 2)).decAt = some s.cycle
  (x.isSeal = false → x.via = none → ¬late → trefPkg x.tref = s.pkg.toNat →
    (busy → exec (.decrementArrival m) s = .next s) ∧
    (¬busy → (r.st = .free ∨ r.inst.toNat ≠ trefInst x.tref) →
      ∃ t, exec (.decrementArrival m) s = .next t ∧ t.recs = s.recs ∧ t.msgs = s.msgs.eraseIdx m ∧
        (t.pitch x.ptag.toNat).pstale = ctrAdd (s.pitch x.ptag.toNat).pstale 1) ∧
    (¬busy → r.st = .building → r.inst.toNat = trefInst x.tref →
      s.pstate r.ptag.toNat = 1 → (r.ptag = x.ptag ∨ x.ptag = 0) →
      ∃ t, exec (.decrementArrival m) s = .next t ∧
        t.recOf rk = { r with count := BitVec.ofInt 32 (max (r.count.toInt - x.amt) (-16777216)), live := r.live || !x.skip } ∧
        (t.pitch r.ptag.toNat).pexcess = ctrAdd (s.pitch r.ptag.toNat).pexcess (max 0 (x.amt - max 0 r.count.toInt)).toNat ∧
        t.mem = s.mem)) ∧
  (x.isSeal = false → ¬late → exec (.lost m) s = .next s) ∧
  (x.isSeal = false → late → exec (.decrementArrival m) s = .next s ∧
    ∃ t, exec (.lost m) s = .next t ∧ t.msgs = s.msgs.eraseIdx m ∧ t.recs = s.recs) ∧
  (x.isSeal = true → x.via = none → s.instOn (bitsOf x.tref 52 2) (trefInst x.tref) = some (k, e) →
    (∀ j ∈ e.recs, recDie j = bitsOf x.tref 52 2 → (s.recOf j).st = .building → 0 < (s.recOf j).count.toInt) →
    ∃ t, exec (.seal m) s = .next t ∧ Tbl.find t.insts k = some { e with isSealed := true } ∧ t.msgs = s.msgs.eraseIdx m ∧
      ∀ j ∈ e.recs, recDie j = bitsOf x.tref 52 2 → (s.recOf j).st = .building → (t.recOf j).st = .waiting))

/-- 13: R328-R331; 01: R15-R17, R38: the task instructions on a tref that names a record: TSTAT reads a word of it, TPARM writes PARAMS before
it runs, TBIND a slot of an unsealed instance, RECSEAL closes a record list, TFREE frees an instance that may be; a bad tref gives its
code; TSEAL seals each die and waits. -/
def Obligations.TaskInstructions : Prop := ∀ (s : State) (d a b c : BitVec 5) (w : BitVec 6) (rk code : Nat) (e : InstEntry) (ps : List Part),
  s.me.Plain → s.cur.sid < 4096 →
  let r := s.recOf rk
  (s.trefRec (s.g a) = .error code → exec (.tstat d a w) s = .next (s.result d 0) ∧
    exec (.tparm d a b) s = .next (s.result d (BitVec.ofNat 64 code)) ∧
    exec (.tbind d a b c) s = .next (s.result d (BitVec.ofNat 64 code)) ∧
    exec (.recseal a) s = .next (s.result a (BitVec.ofNat 64 code)) ∧
    exec (.tfree a) s = .next (s.result a (BitVec.ofNat 64 code))) ∧
  (s.trefRec (s.g a) = .ok rk →
    exec (.tstat d a w) s = .next (s.result d (BitVec.ofNat 64 (r.word w.toNat))) ∧
    ((r.st = .building ∨ r.st = .waiting) →
      exec (.tparm d a b) s = .next ((s.updRec rk (fun r => { r with params := s.g b })).result d 0)) ∧
    (r.st ≠ .building → r.st ≠ .waiting → exec (.tparm d a b) s = .next (s.result d 8)) ∧
    (s.instHome r.inst.toNat = some e → s.isSealed r.inst.toNat = false →
      (s.g b).toNat < ((Tbl.find s.templates e.tid.toNat).map Template.nslots).getD 0 → spaceOf (e.slots + 8 * s.g b) = 0 →
      s.globalParts (sidDie s.sid) e.ptag.toNat .store (e.slots + 8 * s.g b).toNat 8 2 = .ok ps → s.partsRefusal true ps = none →
      ∃ t, exec (.tbind d a b c) s = .next t ∧ t.g d = 0 ∧
        t.mem = ((s.touch true ps).putCells ((keysOf ps).zip (bytesLE (s.g c).toNat 8))).mem) ∧
    (r.kind = 2 → r.listSealed = false → r.reccount ≠ 0 → r.st = .building →
      ∃ t, exec (.recseal a) s = .next t ∧ t.g a = 0 ∧ t.recOf rk = { r with listSealed := true }) ∧
    (s.mayFree r.inst.toNat = true → ∃ t, exec (.tfree a) s = .next t ∧ t.g a = 0 ∧
      ∀ k ∈ s.instRecs r.inst.toNat, (t.recOf k).st = .free) ∧
    (s.mayFree r.inst.toNat = false → exec (.tfree a) s = .next (s.result a 7)) ∧
    (s.Clear → s.seq.wait = none → s.isSealed r.inst.toNat = false →
      ∃ t l, exec (.tseal a) s = .next t ∧ t.seq.wait = some (.seal (BitVec.ofNat 32 r.inst.toNat)) ∧ t.msgs = s.msgs ++ l ∧
        l.map (fun m => { m with via := none }) = (s.instDies r.inst.toNat).map (fun i =>
          ⟨true, mkTref s.pkg.toNat (i * 32768) r.inst.toNat, 0, false, s.me.ptag, s.cycle, s.myTile, sidDie s.sid, none⟩))) ∧
  (∀ i : BitVec 32, s.seq.wait = some (.seal i) → (∀ m ∈ s.msgs, m.isSeal = true → trefInst m.tref ≠ i.toNat) →
    exec (.tseal a) s = .next (s.result a 0))

/-- 13: R328, 01: R15; 13: R330: TINST of a template of the strand's pitch with no slots instantiates it: the next number is used, each
prototype becomes a record in BUILDING under that number, and the trefs stand in the buffer; RECPUT appends the 32 bytes to the list while it
has room. -/
def Obligations.Instances : Prop := ∀ (s : State) (d a b c : BitVec 5) (t0 : Template) (rk k : Nat) (hp ps : List Part),
  s.me.Plain → s.me.Settled → s.cur.sid < 4096 →
  (bitsOf (s.g a) 16 48 = 0 → s.templateFor s.me.ptag.toNat (s.g a).toNat = some t0 → t0.nslots = 0 → (∀ p ∈ t0.protos, p.1 < 4) →
    s.localRange s.sid (s.g c) (8 * t0.protos.length) = some k → (s.instantiate s.me.ptag.toNat (s.g a).toNat (s.g b)).2.1 = 0 →
    ∃ (t : State) (rks : List Nat), exec (.tinst d a b c) s = .next t ∧ rks.length = t0.protos.length ∧
      t.g d = (if d = 0 then 0 else BitVec.ofNat 64 ((nextInst s.instCtr).toNat * 2 ^ 32)) ∧ t.instCtr = nextInst s.instCtr + 1 ∧
      (∀ j ∈ rks, (s.recOf j).st = .free ∧ (t.recOf j).st = .building ∧ (t.recOf j).inst = nextInst s.instCtr) ∧
      t.mem = (s.wrBytes k (rks.flatMap (fun j => bytesLE (t.trefOf j).toNat 8))).mem) ∧
  (s.localRange s.sid (s.g b) 32 = some k → (s.g b).toNat % 32 = 0 → leAt (s.rdBytes k 32) 12 4 = 0 → s.listRec (s.g a) = .ok rk →
    s.globalParts (recDie rk) (s.recOf rk).ptag.toNat .load (s.recOf rk).recs.toNat 4 2 = .ok hp →
    s.Clear → s.seq.wait = none → s.olds = [] → s.partsRefusal false hp = none →
    (s.valOf (keysOf hp) ≤ (s.recOf rk).reccount.toNat →
      ∃ u : State, exec (.recput d a b) s = .next (u.result d 1) ∧ u.mem = s.mem ∧ u.recs = s.recs) ∧
    ((s.recOf rk).reccount.toNat < s.valOf (keysOf hp) →
      s.globalParts (recDie rk) (s.recOf rk).ptag.toNat .store ((s.recOf rk).recs.toNat + 32 + 32 * (s.recOf rk).reccount.toNat) 32 2 = .ok ps → s.partsRefusal true ps = none →
      ∃ t, exec (.recput d a b) s = .next t ∧ (t.recOf rk).reccount = (s.recOf rk).reccount + 1 ∧
        t.mem = ((s.touch true ps).putCells ((keysOf ps).zip (s.rdBytes k 32))).mem))

/-- 13: R326, 02: R62: a sequencer with nothing to wait for has exited; when it is the second of its strand and no channel is open, the strand
ends and its slot is empty; A waits for its running walkers, and a sequencer with a faulted one parks, at a breakpoint as one
(02: R71, 20: R423), but not in the cycle of a save request, which then saves the strand (18: R383). -/
def Obligations.StrandEnds : Prop := ∀ (s : State) (skip : Bool), s.cur.sid < 4096 → s.me.Plain → s.pstPending s.sid = false → s.core.held = none →
  let i : Instr := if skip then .tretSkip else .tret
  let ws := s.core.w.toList
  let other := (s.core.seq (!s.cur.e)).exited
  ((∃ w ∈ ws, w.st = .faulted) →
    (s.me.saveReq = none → exec i s = .next (s.clearWait.park s.sid (if ∀ w ∈ ws, w.st = .faulted → w.brk = true then .debug else .w0))) ∧
    (s.me.saveReq.isSome = true → exec i s = .next s)) ∧
  (s.cur.e = false → (∀ w ∈ ws, w.st ≠ .faulted) → (∃ w ∈ ws, w.st = .running) → exec i s = .next (s.block (.tret 0))) ∧
  (s.cur.e = false → (∀ w ∈ ws, w.st ≠ .faulted ∧ w.st ≠ .running) → other = false →
    ∃ t, exec i s = .next t ∧ t.seq.exited = true ∧ t.seq.g = s.seq.g ∧ t.mem = s.mem) ∧
  (s.cur.e = false → (∀ w ∈ ws, w.st ≠ .faulted ∧ w.st ≠ .running) → other = true → s.openEnds s.sid = [] →
    ∃ t, exec i s = .next t ∧ Tbl.find t.strands s.sid = none) ∧
  (s.cur.e = true → (∀ w ∈ ws, w.st ≠ .faulted) → (∀ e ∈ (s.mx s.myTile).ent.toList, e.sid = s.sid → e.busy = false) → s.sumsOf s.sid = [] →
    s.collsOf s.sid = [] →
    (other = false → ∃ t, exec i s = .next t ∧ t.seq.exited = true ∧ t.mem = s.mem) ∧
    (other = true → s.openEnds s.sid = [] → ∃ t, exec i s = .next t ∧ Tbl.find t.strands s.sid = none))

/-! ## Vectors (11: R254-R280; 02: R58) -/

/-- 11: R258, 02: R58: each element operation, on every element that the predicate selects, the others keeping their value; on integers the
exact result is taken modulo 2^width, or clamped with `SAT`. -/
def Obligations.VectorArithmetic : Prop := ∀ (s : State) (vd va vb vc gb gc : BitVec 5) (ty : BitVec 4) (p : BitVec 3) (sat : BitVec 1),
  tyIF ty.toNat = true → (sat = 1 → tyI ty.toNat = true) →
  let t := ty.toNat
  let f := fmtOf t
  let bits := tyWidth t
  let a := s.el va ty
  let b := s.el vb ty
  let c := s.el vc ty
  let sb := fun (_ : Nat) => (s.g gb).toNat % 2 ^ bits
  let sc := fun (_ : Nat) => (s.g gc).toNat % 2 ^ bits
  let wrap (v : Int) : Int := if sat = 1 then max (tyMin t) (min (tyMax t) v) else v
  let res (i : Instr) (fl : Nat → Nat) (int : Nat → Int) : Prop :=
    VecResult s i vd ty p (fun j => if isFloatTy t then fl j else patOf bits (int j))
  let I := tyInt t
  (∀ (x : Nat → Nat) (add sub mul mn mx : Instr),
    (x = b ∧ add = .vadd vd va vb ty p sat ∧ sub = .vsub vd va vb ty p sat ∧ mul = .vmul vd va vb ty p ∧ mn = .vmin vd va vb ty p ∧
        mx = .vmax vd va vb ty p) ∨
      (x = sb ∧ add = .vaddS vd va gb ty p sat ∧ sub = .vsubS vd va gb ty p sat ∧ mul = .vmulS vd va gb ty p ∧ mn = .vminS vd va gb ty p ∧
        mx = .vmaxS vd va gb ty p) →
    res add (fun j => f.add (a j) (x j)) (fun j => wrap (I (a j) + I (x j))) ∧
    res sub (fun j => f.sub (a j) (x j)) (fun j => wrap (I (a j) - I (x j))) ∧
    res mul (fun j => f.mul (a j) (x j)) (fun j => I (a j) * I (x j)) ∧
    res mn (fun j => f.min (a j) (x j)) (fun j => min (I (a j)) (I (x j))) ∧
    res mx (fun j => f.max (a j) (x j)) (fun j => max (I (a j)) (I (x j)))) ∧
  res (.vfma vd va vb vc ty p) (fun j => f.fma false (a j) (b j) (c j)) (fun j => I (a j) * I (b j) + I (c j)) ∧
  res (.vfms vd va vb vc ty p) (fun j => f.fma true (a j) (b j) (c j)) (fun j => I (a j) * I (b j) - I (c j)) ∧
  res (.vabs vd va ty p) (fun j => f.mag (a j)) (fun j => ((I (a j)).natAbs : Int)) ∧
  res (.vneg vd va ty p) (fun j => f.flip (a j)) (fun j => -(I (a j))) ∧
  res (.vdiv vd va vb ty p 0) (fun j => f.div (a j) (b j)) (fun j => if b j = 0 then -1 else Int.tdiv (I (a j)) (I (b j))) ∧
  (tyI t = true → res (.vdiv vd va vb ty p 1) a (fun j => if b j = 0 then I (a j) else Int.tmod (I (a j)) (I (b j)))) ∧
  res (.vclip vd va vb vc ty p) (fun j => if f.isNaN (a j) then f.quiet (a j) else f.min (f.max (a j) (b j)) (c j))
    (fun j => min (max (I (a j)) (I (b j))) (I (c j))) ∧
  res (.vclipS vd va gb gc ty p) (fun j => if f.isNaN (a j) then f.quiet (a j) else f.min (f.max (a j) (sb j)) (sc j))
    (fun j => min (max (I (a j)) (I (sb j))) (I (sc j))) ∧
  (tyF t = true → VecResult s (.vsqrt vd va ty p) vd ty p (fun j => f.sqrt (a j)) ∧
    VecResult s (.vscale vd va vb ty p) vd ty p (fun j => f.scale (a j) (sxt (b j) bits)) ∧
    VecResult s (.vscaleS vd va gb ty p) vd ty p (fun j => f.scale (a j) (s.g gb).toInt))

/-- 11: R258-R262: logic and shifts by element, compares into predicates, selection, predicate operations and moves; `k0` reads as ones and
takes no write. -/
def Obligations.VectorLogic : Prop := ∀ (s : State) (vd va vb gb d : BitVec 5) (kd ka kb p : BitVec 3) (ty cc : BitVec 4) (op : BitVec 10),
  tyW ty.toNat = true →
  let t := ty.toNat
  let bits := tyWidth t
  let a := s.el va ty
  let b := s.el vb ty
  let sb := fun (_ : Nat) => (s.g gb).toNat % 2 ^ bits
  let vr := VecResult s
  vr (.vand vd va vb ty p) vd ty p (fun j => a j &&& b j) ∧ vr (.vandS vd va gb ty p) vd ty p (fun j => a j &&& sb j) ∧
  vr (.vor vd va vb ty p) vd ty p (fun j => a j ||| b j) ∧ vr (.vorS vd va gb ty p) vd ty p (fun j => a j ||| sb j) ∧
  vr (.vxor vd va vb ty p) vd ty p (fun j => a j ^^^ b j) ∧ vr (.vxorS vd va gb ty p) vd ty p (fun j => a j ^^^ sb j) ∧
  vr (.vshl vd va vb ty p) vd ty p (fun j => a j <<< (b j % bits)) ∧ vr (.vshlS vd va gb ty p) vd ty p (fun j => a j <<< (sb j % bits)) ∧
  vr (.vshr vd va vb ty p) vd ty p (fun j => a j >>> (b j % bits)) ∧ vr (.vshrS vd va gb ty p) vd ty p (fun j => a j >>> (sb j % bits)) ∧
  vr (.vsar vd va vb ty p) vd ty p (fun j => patOf bits (sxt (a j) bits / 2 ^ (b j % bits))) ∧
  vr (.vsarS vd va gb ty p) vd ty p (fun j => patOf bits (sxt (a j) bits / 2 ^ (sb j % bits))) ∧
  (∀ (x : Nat → Nat) (i : Instr), (x = b ∧ i = .vcmp kd cc va vb ty p) ∨ (x = sb ∧ i = .vcmpS kd cc va gb ty p) →
    ∃ y : BitVec 128, exec i s = .next (s.kPut kd y).adv ∧ ∀ j, j < 128 → y.getLsbD j =
      if j < tyCount t then (if (s.k p).getLsbD j then elCond t cc.toNat (a j) (x j) else (s.k kd).getLsbD j) else false) ∧
  (∃ y : VWord, exec (.vsel vd va vb ty p) s = .next (s.vPut vd y).adv ∧
    ∀ j, j < tyCount t → elem y bits j = if (s.k p).getLsbD j then a j else b j) ∧
  (op.toNat ≤ 4 → exec (.vkop kd ka kb op) s = .next (s.kPut kd
    (if op = 0 then s.k ka &&& s.k kb else if op = 1 then s.k ka ||| s.k kb else if op = 2 then s.k ka ^^^ s.k kb
      else if op = 3 then s.k ka &&& ~~~(s.k kb) else ~~~(s.k ka))).adv) ∧
  (let w := packV 0xC2#8 0#1 (0#2 ++ kd) op 0#4 0#3 0#5 (0#2 ++ kb) (0#2 ++ ka)
   (kd ≠ 0 → op.toNat < 4 ∨ (op = 4 ∧ kb = 0) → decode w = .ok (.vkop kd ka kb op)) ∧
   (kd = 0 ∨ 4 < op.toNat ∨ (op = 4 ∧ kb ≠ 0) → ∀ tile n x, headCheck false true tile n x w = some 0x03)) ∧
  decode (packV 0xB0#8 0#1 vd 0#10 ty p 0#5 vb va) = .ok (.vsel vd va vb ty p) ∧
  (let k := s.k (va.setWidth 3)
   exec (.vkmov d va 0) s = .next (s.kPut (d.setWidth 3) k).adv ∧
   exec (.vkmov d va 1) s = .next (s.kPut (d.setWidth 3) ((s.v va).setWidth 128)).adv ∧
   exec (.vkmov d va 2) s = .next (s.vPut d (k.setWidth 1024)).adv ∧
   exec (.vkmov d va 3) s = .next (s.result d (BitVec.ofNat 64 ((List.range 128).filter (fun i => k.getLsbD i)).length)) ∧
   exec (.vkmov d va 4) s = .next (s.result d (k.setWidth 64)) ∧
   exec (.vkmov d va 5) s = .next (s.result d ((k >>> 64).setWidth 64)) ∧
   ∃ n, exec (.vkmov d va 6) s = .next (s.result d (BitVec.ofNat 64 n)) ∧ n ≤ 128 ∧ (∀ i, i < n → k.getLsbD i = false) ∧
     (n < 128 → k.getLsbD n = true)) ∧
  s.k 0 = BitVec.allOnes 128 ∧ s.kPut 0 (BitVec.allOnes 128) = s

/-- 11: R263-R266: moves of whole vectors and of elements, permutations with indices taken modulo the count, whole queue entries,
compression of the selected elements to the front with zeros behind, and their expansion. -/
def Obligations.VectorMoves : Prop := ∀ (s : State) (vd va vb vc ga gb gd : BitVec 5) (q p : BitVec 3) (ty : BitVec 4) (i : BitVec 10) (x : Word),
  tyW ty.toNat = true →
  let t := ty.toNat
  let bits := tyWidth t
  let n := tyCount t
  let a := s.el va ty
  let b := s.el vb ty
  let c := s.el vc ty
  let one (ins : Instr) (k : Nat) : Prop := ∃ y : VWord, exec ins s = .next (s.vPut vd y).adv ∧
    ∀ j, j < n → elem y bits j = if j = k then tyFromG t (s.g ga) else s.el vd ty j
  VecResult s (.vmov vd va ty p) vd ty p a ∧
  VecResult s (.vbcast vd ga ty p) vd ty p (fun _ => tyFromG t (s.g ga)) ∧
  (i.toNat < n → VecResult s (.vbcastElem vd va i ty p) vd ty p (fun _ => a i.toNat) ∧
    exec (.vext gd va i ty) s = .next (s.result gd (tyExt t (a i.toNat))) ∧ one (.vins vd ga i ty) i.toNat) ∧
  exec (.vextReg gd va gb ty) s = .next (s.result gd (tyExt t (a ((s.g gb).toNat % n)))) ∧
  one (.vinsReg vd ga gb ty) ((s.g gb).toNat % n) ∧
  (∃ y : VWord, exec (.vli vd x) s = .next (s.vPut vd y).adv ∧ ∀ j, j < 16 → elem y 64 j = x.toNat) ∧
  decode (packV 0xB4#8 0#1 vd 0#10 ty p 0#5 vb va) = .ok (.vperm vd va vb ty p) ∧
  decode (packV 0xB4#8 1#1 vd 0#10 ty p vc vb va) = .ok (.vperm2 vd va vb vc ty p) ∧
  decode (packV 0xCB#8 0#1 vd 0#10 ty p 0#5 0#5 va) = .ok (.vcompr vd va ty p) ∧
  decode (packV 0xCC#8 0#1 vd 0#10 ty p 0#5 0#5 va) = .ok (.vexpnd vd va ty p) ∧
  VecResult s (.vperm vd va vb ty p) vd ty p (fun j => a (b j % n)) ∧
  VecResult s (.vperm2 vd va vb vc ty p) vd ty p (fun j => if b j % (2 * n) < n then a (b j % (2 * n)) else c (b j % (2 * n) - n)) ∧
  (s.core.queue q = [] → exec (.vqin vd q) s = .next (s.block (.queueEmpty q.toNat))) ∧
  (∀ e r, s.core.queue q = e :: r → ∃ t, exec (.vqin vd q) s = .next t ∧ t.v vd = e.v ∧ t.core.queue q = r ∧ t.mem = s.mem) ∧
  (s.me.queueFull q = true → exec (.vqout q va) s = .next (s.block (.queueFull q.toNat))) ∧
  (s.me.queueFull q = false →
    exec (.vqout q va) s = .next ((s.queueOrder s.sid q).updCore (fun c => c.push q ⟨s.v va, false, false⟩)).adv) ∧
  (∃ y : VWord, exec (.vcompr vd va ty p) s = .next (s.vPut vd y).adv ∧ ∀ j, j < n →
    elem y bits j = (((selected (s.k p) n)[j]?).map a).getD 0) ∧
  VecResult s (.vexpnd vd va ty p) vd ty p (fun j => a ((List.range j).filter (fun k => (s.k p).getLsbD k)).length)

/-- 11: R267-R270, R276-R280: conversions by part, the reduction tree and the scan, special functions and tables, quantisation on the truss
grid, hashing, and sorting, which is stable and puts what the predicate selects first. -/
def Obligations.VectorCompute : Prop := ∀ (s : State) (vd va vb gb gd : BitVec 5) (p part : BitVec 3) (h idx : BitVec 1) (ty src dst : BitVec 4)
    (mode ch slot : BitVec 2) (op fn : BitVec 10),
  let t := ty.toNat
  let bits := tyWidth t
  let n := tyCount t
  let f12 (i : Instr) (f : Nat → Nat) : Prop := VecResult s i vd 12 p f
  let x := s.el va 12
  let y := s.el vb 12
  ((Instr.vcvt vd va dst src mode part p).wf →
    let ws := tyWidth src.toNat
    let wd := tyWidth dst.toNat
    let m := 1024 / max ws wd
    let lo := if wd < ws then m * part.toNat else 0
    ∃ z : VWord, exec (.vcvt vd va dst src mode part p) s = .next (s.vPut vd z).adv ∧ ∀ j, j < 1024 / wd → elem z wd j =
      if lo ≤ j ∧ j < lo + m ∧ (s.k p).getLsbD j = true then
        (let r := convert src.toNat dst.toNat mode.toNat (s.el va src (if ws < wd then j + m * part.toNat else j - lo))
         (if dst = 8 then t6Elem r else r) % 2 ^ wd)
      else s.el vd dst j) ∧
  ((Instr.vred gd va op ty p).wf →
    exec (.vred gd va op ty p) s = .next (s.result gd (tyExt t (reduce t op.toNat (log2 n)
      ((List.range n).map (fun i => if (s.k p).getLsbD i then some (s.el va ty i) else none))))) ∧
    ∃ z : VWord, exec (.vscan vd va op ty p) s = .next (s.vPut vd z).adv ∧ ∀ j, j < n → elem z bits j = (scanFrom t op.toNat none
      ((List.range n).map (fun i => if (s.k p).getLsbD i then some (s.el va ty i) else none))).getD j 0 % 2 ^ bits) ∧
  f12 (.vsf vd va fn p) (fun j => sfu fn.toNat (x j)) ∧
  f12 (.vlut vd va ch slot p) (fun j => slotAt ((s.core.chains.get ch.toFin).tables.get slot.toFin) (x j)) ∧
  f12 (.vqnt vd va vb p) (fun j => if fmtF32.mag (x j) < fmtF32.expMask ∧ y j ≠ noneExp then
    patOf 32 (clampTy 4 (quantise (x j) (sxt (y j) 32))) else 0) ∧
  f12 (.vqntCls vd va vb p) (fun j => if fmtF32.isNaN (x j) then 1 else if x j = 0x7F800000 then 2 else if x j = 0xFF800000 then 3 else 0) ∧
  f12 (.vdqnt vd va vb 0 4 p) (fun j => dequant (sxt (x j) 32) (y j)) ∧
  (∃ z : VWord, exec (.vdqnt vd va vb h 6 p) s = .next (s.vPut vd z).adv ∧ ∀ j, j < 32 → elem z 32 j =
    if j / 16 = h.toNat ∧ (s.k p).getLsbD j = true then dequant (sxt (s.el va 6 (j % 16)) 64) (y j) % 2 ^ 32 else s.el vd 12 j) ∧
  (∃ z : VWord, exec (.vmaxe vd va p) s = .next (s.vPut vd z).adv ∧ ∀ j, j < 32 → elem z 32 j = expPat (s.blockExp va p (j / 16))) ∧
  (∃ z : VWord, exec (.vmaxeAcc vd va p) s = .next (s.vPut vd z).adv ∧
    ∀ j, j < 32 → elem z 32 j = elMax 4 (s.el vd 12 j) (expPat (s.blockExp va p (j / 16)))) ∧
  (tyW t = true → VecResult s (.vhash vd va gb ty p) vd ty p
    (fun j => (h64 (s.g gb) (BitVec.ofNat 64 (s.el va ty j)) (BitVec.ofNat 64 bits) 0).toNat)) ∧
  (tyW t = true → ∀ desc, ∃ (l : List (Nat × Nat)) (z : VWord),
    exec (if desc then .vsortD vd va idx ty p else .vsort vd va idx ty p) s = .next (s.vPut vd z).adv ∧
    l.Perm ((selected (s.k p) n).map (fun i => (i, s.el va ty i))) ∧
    l.Pairwise (fun a b => keyLe desc (sortKey t a.2) (sortKey t b.2) = true ∧
      (keyLe desc (sortKey t b.2) (sortKey t a.2) = true → a.1 < b.1)) ∧
    ∀ j, j < n → elem z bits j = ((l[j]?).map (fun e => if idx = 1 then e.1 % 2 ^ bits else e.2)).getD 0)

/-! ## Chains (11: R271-R275) -/

/-- 11: R273-R275: a chain block read in full configures the chain, and a bad one only its status; one vector through a chain; a stream takes a
free chain and waits for one in use, as a single vector does; each result leaves 24 engine cycles after its entry, in order, one for each
edge of the arithmetic clock (17: R373), and the last one ends the `VRUN`. While its queue is full the chain stalls: nothing enters it, and
what is in it is late by a cycle. -/
def Obligations.Chains : Prop := ∀ (s t : State) (d vd va a gb : BitVec 5) (ch : BitVec 2) (o : BitVec 32) (p qd qa : BitVec 3) (b : List Byte)
    (sid due : Nat) (x0 : VWord) (err : Bool) (r : List (Nat × VWord × Bool)),
  ((s.g a).toNat / 2 ^ 56 ≠ 0 ∨ (s.g a).toNat % 64 ≠ 0 → exec (.vchain d ch a o) s = .next (s.result d 2)) ∧
  ((s.g a).toNat / 2 ^ 56 = 0 → (s.g a).toNat % 64 = 0 → s.poolBytes (s.g a) o.toNat 64 = .ok b t →
    (chainHeadOk b = false → exec (.vchain d ch a o) s = .next (t.result d 1)) ∧
    (chainHeadOk b = true → tloadSlots b = [] → exec (.vchain d ch a o) s = .next ((t.updCore (fun c => { c with
      chains := c.chains.set ch.toNat { stages := Vector.ofFn (fun i => BitVec.ofNat 64 (leAt b (8 * i.val) 8)),
                                        tables := (c.chains.get ch.toFin).tables } ch.isLt })).result d 0))) ∧
  ((s.tile (sidTile s.sid)).chainOwner.get ch.toFin = none → (s.tile (sidTile s.sid)).chainQ.get ch.toFin = [] →
    ∃ (u : State) (x : VWord), exec (.vrunVec vd va ch p) s = .next (u.vPut vd x).adv ∧ u.me = s.me ∧ u.mem = s.mem ∧ ∀ j, j < 32 →
      elem x 32 j = if (s.k p).getLsbD j then elem ((s.core.chains.get ch.toFin).apply (s.v va)) 32 j % 2 ^ 32 else s.el vd 12 j) ∧
  (s.g gb = 0 → exec (.vrun qd qa gb ch) s = .next s.adv) ∧
  (s.g gb ≠ 0 → (s.tile (sidTile s.sid)).chainOwner.get ch.toFin = none → (s.tile (sidTile s.sid)).chainQ.get ch.toFin = [] →
    ∃ u : State, exec (.vrun qd qa gb ch) s = .next u ∧ (u.tile (sidTile s.sid)).chainOwner.get ch.toFin = some s.sid ∧
      u.seq.wait = some (.stream ch qd qa gb) ∧ u.seq.g = s.seq.g) ∧
  (∀ w, s.g gb ≠ 0 → (s.tile (sidTile s.sid)).chainOwner.get ch.toFin = some w → w ≠ s.sid →
    (∃ u : State, exec (.vrun qd qa gb ch) s = .next u ∧ u.seq.wait = some (.chain ch.toNat) ∧ u.core.q = s.core.q) ∧
    ∃ u : State, exec (.vrunVec vd va ch p) s = .next u ∧ u.seq.wait = some (.chain ch.toNat) ∧ u.core.v = s.core.v) ∧
  (∀ tile, s.streamOf tile ch = some (sid, qd, qa, gb) → (s.tile tile).chainPipe.get ch.toFin = (due, x0, err) :: r → gb ≠ 0 → qd ≠ qa →
    s.edge = true → (s.tile tile).chainAt.get ch.toFin ≠ s.edges →
    (s.prog < due → ∃ u : State, exec (.chainResult tile ch.toNat) s = .next u ∧
      (u.strand sid).core.queue qd = (s.strand sid).core.queue qd ∧ (u.strand sid).core.e.gGet gb = (s.strand sid).core.e.gGet gb) ∧
    ((s.strand sid).queueFull qd = true →
      ∃ u : State, exec (.chainResult tile ch.toNat) s = .next u ∧ u.strands = s.strands ∧ u.mem = s.mem ∧
        (u.tile tile).chainPipe.get ch.toFin = (due + 4, x0, err) :: r.map (fun p => (p.1 + 4, p.2))) ∧
    (due ≤ s.prog → (s.strand sid).queueFull qd = false → (s.strand sid).loads = [] →
      ∃ u : State, exec (.chainResult tile ch.toNat) s = .next u ∧ (u.strand sid).core.queue qd = (s.strand sid).core.queue qd ++
          [⟨((s.strand sid).core.chains.get ch.toFin).apply x0, err, false⟩] ∧
        (u.strand sid).core.e.gGet gb = (s.strand sid).core.e.gGet gb - 1 ∧
        ((s.strand sid).core.e.gGet gb = 1 → (u.tile tile).chainOwner.get ch.toFin = none ∧ (u.strand sid).core.e.wait = none)))

/-! ## The matrix engine (02: R56, R74-R77; 12: R281-R293) -/

/-- 12: R283-R289, R291, R292; 02: R56: the matrix instructions of the strand that holds the claim, its 128 cycles over: a load and a
multiplication take the lowest free entry, in issue order; rows are zeroed, read, written, copied and added to; the waits free what is done;
without the claim the first one makes it and takes 128 engine cycles. -/
def Obligations.MatrixInstructions : Prop := ∀ (s : State) (d a b vd : BitVec 5) (ab pb src dst : BitVec 1) (ty : BitVec 4) (stride : BitVec 32)
    (arow n : BitVec 7) (astride : BitVec 16) (kblk : BitVec 14) (which cnt : BitVec 6) (q : BitVec 2) (p : BitVec 3) (i : Nat),
  let m := s.mx s.myTile
  let t := s.myTile
  let row := (s.g a).toNat % 128
  (m.owner = none → ∃ u : State, exec .mwait s = .next u ∧ (u.mx t).owner = some s.sid ∧ u.seq.wait = some (.claiming (s.engAfter 128)) ∧ u.mem = s.mem) ∧
  (m.owner = some s.sid → s.seq.wait = none →
    (m.freeEnt = some i → s.rowsLocal (s.g a).toNat stride.toNat 128 (rowBytes ty.toNat) = true →
      (∀ e ∈ m.ent.toList, (e.busy && e.isMma && e.pb == pb) = false) →
      ∃ u : State, exec (.mldb d pb a ty stride) s = .next (u.result d (BitVec.ofNat 64 (i * 256))) ∧ ((u.mx t).entry i).st = .wait ∧
        ((u.mx t).entry i).isMma = false ∧ ((u.mx t).entry i).addr = (s.g a).toNat % 2 ^ 56 ∧ ((u.mx t).pty.get pb.toFin) = ty ∧ u.seq = s.seq) ∧
    (m.freeEnt = some i → m.pty.get pb.toFin ≠ 0 → tapered ty.toNat = tapered (m.pty.get pb.toFin).toNat →
      s.rowsLocal (s.g a).toNat astride.toNat (n.toNat + 1) (rowBytes ty.toNat) = true →
      (∀ e ∈ m.ent.toList, (e.busy && !e.isMma && e.pb == pb) = false) →
      ∃ u : State, exec (.mma d ab pb a ty arow n astride kblk) s = .next (u.result d (BitVec.ofNat 64 (i * 256))) ∧ ((u.mx t).entry i).st = .wait ∧
        ((u.mx t).entry i).isMma = true ∧ ((u.mx t).entry i).rows = n.toNat + 1 ∧ ((u.mx t).entry i).arow = arow.toNat ∧
        ((u.mx t).entry i).sa = m.sa ∧ ((u.mx t).entry i).sb = m.sb.get pb.toFin ∧ u.seq = s.seq) ∧
    (∃ u : State, exec (.mscale vd which) s = .next u.adv ∧ (which = 0 → (u.mx t).sa = s.v vd) ∧
      (∀ k : BitVec 1, which.toNat = k.toNat + 1 → (u.mx t).sb.get k.toFin = s.v vd) ∧ (u.mx t).acc = m.acc ∧ u.seq = s.seq) ∧
    ((∀ e ∈ m.ent.toList, e.busy = false) →
      (∃ u : State, exec (.mzero ab a b) s = .next u.adv ∧ u.seq = s.seq ∧ ∀ r c, r < 128 → c < 128 → (u.mx t).accAt ab.toNat r c =
        if (r + 128 - row) % 128 < min (s.g b).toNat 128 then 0 else m.accAt ab.toNat r c) ∧
      (∃ y : VWord, exec (.mrd vd ab a q p) s = .next (s.vPut vd y).adv ∧ ∀ j, j < 32 → elem y 32 j =
        if (s.k p).getLsbD j then m.accAt ab.toNat row (32 * q.toNat + j) else s.el vd 12 j) ∧
      (∃ u : State, exec (.mwr ab a q vd p) s = .next u.adv ∧ ∀ c, c < 128 → (u.mx t).accAt ab.toNat row c =
        if c / 32 = q.toNat ∧ (s.k p).getLsbD (c % 32) = true then s.el vd 12 (c % 32) else m.accAt ab.toNat row c) ∧
      (∃ u : State, exec (.mradd ab a q vd p) s = .next u.adv ∧ ∀ c, c < 128 → (u.mx t).accAt ab.toNat row c =
        if c / 32 = q.toNat ∧ (s.k p).getLsbD (c % 32) = true then
          combineAdd (m.accAt ab.toNat row c) (s.el vd 12 (c % 32)) t 0xFFF % 2 ^ 32 else m.accAt ab.toNat row c) ∧
      (∃ u : State, exec (.macp src dst a b cnt) s = .next u.adv ∧ ∀ k c, k ≤ cnt.toNat → c < 128 →
        (u.mx t).accAt dst.toNat (((s.g b).toNat + k) % 128) c = m.accAt src.toNat (((s.g a).toNat + k) % 128) c) ∧
      (∃ u : State, exec (.macpAdd src dst a b cnt) s = .next u.adv ∧ ∀ k c, k ≤ cnt.toNat → c < 128 →
        (u.mx t).accAt dst.toNat (((s.g b).toNat + k) % 128) c = combineAdd (m.accAt dst.toNat (((s.g b).toNat + k) % 128) c)
          (m.accAt src.toNat (((s.g a).toNat + k) % 128) c) t 0xFFF % 2 ^ 32) ∧
      (∃ u : State, exec .mwait s = .next u.adv ∧ (∀ k, k < 8 → ((u.mx t).entry k).st = .free) ∧ (u.mx t).acc = m.acc ∧ u.seq = s.seq) ∧
      (∃ u : State, exec (.mwaitE a) s = .next u.adv ∧ ((u.mx t).entry (bitsOf (s.g a) 8 3)).st = .free ∧ (u.mx t).acc = m.acc)) ∧
    ((∃ e ∈ m.ent.toList, e.busy = true) → exec .mwait s = .next (s.block .mwait)) ∧
    (∃ u : State, exec (.mstat d a) s = .next (u.result d (m.entry (bitsOf (s.g a) 8 3)).word) ∧ u.seq = s.seq ∧
      ((m.entry (bitsOf (s.g a) 8 3)).st = .done → ((u.mx t).entry (bitsOf (s.g a) 8 3)).st = .free)) ∧
    (m.owned ab.toNat row = true → exec (.mrd vd ab a q p) s = .next (s.trap cAccBusy (BitVec.ofNat 64 (ab.toNat * 128 + row)))))

/-- 12: R290, R283, R285; 02: R75, R76: what the engine does by itself: a panel's next granule is read once its full bit is set; the next row of
an operand fires when its granules are full, which it clears; 12 engine cycles after it the accumulator row is written, and the last one makes
the entry DONE. MSEND of a row that awaits an update waits for it, and of an unowned row on a channel with no room with nothing sent. -/
def Obligations.MatrixEngine : Prop := ∀ (s : State) (tile k g j due : Nat) (row : List Byte) (r : List (Nat × Nat × List Byte))
    (c : BitVec 3) (ab : BitVec 1) (first n : BitVec 7),
  let m := s.mx tile
  let e := m.entry k
  (e.busy = true → e.isMma = false → s.mxRuns e = true → e.granList[e.gran]? = some g → s.edge = true → (e.gran = 0 ∨ e.last < s.edges) →
    (g ∉ (s.tile tile).full → exec (.mldbGranuleRead tile k) s = .next s) ∧
    (g ∈ (s.tile tile).full → ∃ t, exec (.mldbGranuleRead tile k) s = .next t ∧ ((t.mx tile).entry k).gran = e.gran + 1 ∧
      (t.tile tile).full = (s.tile tile).full ∧ (((t.mx tile).entry k).st = .done ↔ e.gran + 1 = e.granList.length) ∧ t.mem = s.mem)) ∧
  (let gs := granules (e.addr + e.fired * e.stride) (rowBytes e.ty.toNat)
   e.busy = true → e.isMma = true → e.fired < e.rows → s.mxRuns e = true → e.issued.toNat < s.cycle.toNat →
    s.edge = true → (e.fired = 0 ∨ e.last < s.edges) → m.earlierUnfired e (e.arow + e.fired) = false → m.portFree ≤ s.edges →
    (∀ g ∈ gs, g ∉ (s.tile tile).newNow) →
    ((∃ g ∈ gs, g ∉ (s.tile tile).full) → exec (.mmaRowFire tile k) s = .next s) ∧
    ((∀ g ∈ gs, g ∈ (s.tile tile).full) → ∃ t, exec (.mmaRowFire tile k) s = .next t ∧ ((t.mx tile).entry k).fired = e.fired + 1 ∧
      (∀ x, x ∈ (t.tile tile).full ↔ x ∈ (s.tile tile).full ∧ (x ∉ gs ∨ x ∈ (s.tile tile).setNow)) ∧ t.mem = s.mem)) ∧
  (e.upd = (j, due, row) :: r →
    (s.prog < due → exec (.accumulatorUpdate tile k) s = .next s) ∧
    (due ≤ s.prog →
      (∀ x ∈ m.ent.toList, x.ab = e.ab → ∀ u ∈ x.upd, x.arow + u.1 = e.arow + j → due ≤ u.2.1) →
      ∃ t, exec (.accumulatorUpdate tile k) s = .next t ∧ ((t.mx tile).entry k).upd = r ∧
        ∀ q, q < 128 → (t.mx tile).accAt e.ab.toNat (e.arow + j) q = m.updElem tile e row j q % 2 ^ 32)) ∧
  ((s.mx s.myTile).owner = some s.sid → s.seq.wait = none → (s.mx s.myTile).owned ab.toNat first.toNat = true →
    exec (.msend c ab first n) s = .next (s.block (.accRow 0))) ∧
  ((s.mx s.myTile).owner = some s.sid → s.seq.wait = none → (s.mx s.myTile).owned ab.toNat first.toNat = false →
    (s.endOf s.sid c.toNat).dir = 1 → (s.endOf s.sid c.toNat).closed = false → (s.chanOf s.sid c.toNat).slots ≠ 0 →
    (s.chanOf s.sid c.toNat).gone = false →
    ((s.chanOf s.sid c.toNat).room 1 = false → exec (.msend c ab first n) s = .next (s.block (.chan c.toNat 0 none none))) ∧
    ((s.chanOf s.sid c.toNat).room (4 * (n.toNat + 1)) = true → s.periodEnd s.sid = none → s.core.rowUnder 1 c.toNat = false →
      (∀ i, i ≤ n.toNat → (s.mx s.myTile).owned ab.toNat (first.toNat + i) = false) →
      ∃ t, exec (.msend c ab first n) s = .next t ∧ (t.chanOf s.sid c.toNat).tokens.length = (s.chanOf s.sid c.toNat).tokens.length + 4 * (n.toNat + 1)
        ∧ t.mem = s.mem))

/-! ## Summaries (05: R136-R157; 12: R294-R301) -/

/-- 12: R294-R301: with nothing outstanding on the tile's engine, each summary instruction issues the operation that writes the object and the
results of its rule; an object that fails a check of 05: R136 leaves all memory and every register but the status; the completion, no earlier
than its bound, writes what was issued. -/
def Obligations.Summaries : Prop := ∀ (s : State) (d a b c vb : BitVec 5) (p : BitVec 3) (ty : BitVec 4) (kind size coin : BitVec 2)
    (m : BitVec 6) (k k2 n e : Nat) (bs : List Byte),
  (s.tile (sidTile s.sid)).sums = [] →
  (objSize kind.toNat size.toNat = some n → (s.g a).toNat % 64 = 0 → s.localRange s.sid (s.g a) n = some k →
    SumIssued s (.skinit d a b c kind size coin) (some (k, initBytes kind.toNat size.toNat coin.toNat (s.g b) (s.g c))) [(d, 0)]) ∧
  ((s.g a).toNat % 64 ≠ 0 → SumIssued s (.skinit d a b c kind size coin) none [(d, 2)]) ∧
  (s.objectAs 1 parseQs (s.g a) = .error e →
    SumIssued s (.qsadd d a vb p) none [(d, BitVec.ofNat 64 e)] ∧ SumIssued s (.qsqry d a b) none [(d, withF32 e dNaN)] ∧
    SumIssued s (.qsrank d c a b) none [(c, 0), (d, withF32 e dNaN)] ∧ SumIssued s (.skcoin d a m) none [(d, BitVec.ofNat 64 e)] ∧
    SumIssued s (.skcomp d a m) none [(d, BitVec.ofNat 64 e)]) ∧
  (∀ q, s.objectAs 1 parseQs (s.g a) = .ok (k, bs, q) →
    let full := some (k, bs.set 3 (bs.getD 3 0 ||| 2))
    let fits (i : Instr) (r : Option (QSk × Nat)) : Prop := match r with
      | some (q', _) => SumIssued s i (some (k, q'.bytes)) [(d, 0)]
      | none => SumIssued s i full [(d, 3)]
    fits (.qsadd d a vb p) (if q.full then none else q.addAll s.free 0 (s.present vb 12 p)) ∧
    SumIssued s (.qsqry d a b) none [(d, withF32 0 (q.query ((s.g b).toNat % 2 ^ 32)))] ∧
    SumIssued s (.qsrank d c a b) none [(c, BitVec.ofNat 64 (q.rank ((s.g b).toNat % 2 ^ 32)).1), (d, withF32 0 (q.rank ((s.g b).toNat % 2 ^ 32)).2)] ∧
    SumIssued s (.skcoin d a m) (some (k, { q with coin := m.toNat }.bytes)) [(d, 0)] ∧
    ((q.levels.getD m.toNat []).length = 0 → ∀ r, q.settle s.free 0 = some r → SumIssued s (.skcomp d a m) (some (k, r.1.bytes)) [(d, 0)]) ∧
    ((q.levels.getD m.toNat []).length ≠ 0 → ∀ q' r, q.compact s.free m.toNat = some q' →
      q'.settle s.free (((q.levels.getD m.toNat []).length + 127) / 128) = some r →
      SumIssued s (.skcomp d a m) (some (k, r.1.bytes)) [(d, 0)]) ∧
    (31 ≤ m.toNat → (q.levels.getD m.toNat []).length ≠ 0 → SumIssued s (.skcomp d a m) full [(d, 3)])) ∧
  (∀ q y, s.objectPair 1 parseQs (fun _ _ => true) (s.g a) (s.g b) = .ok (k, bs, q, k2, y) →
    match (if q.full then none else q.merge y s.free) with
    | some (q', _) => SumIssued s (.qsmrg d a b) (some (k, q'.bytes)) [(d, 0)]
    | none => SumIssued s (.qsmrg d a b) (some (k, bs.set 3 (bs.getD 3 0 ||| 2))) [(d, 3)]) ∧
  (∀ h, s.objectAs 2 parseHh (s.g a) = .ok (k, bs, h) →
    SumIssued s (.hhadd d a vb ty p) (some (k, ((s.present vb ty.toNat p).foldl (fun h x =>
      { h.add s.free x with ents := stableSort hhLe (h.add s.free x).ents }) h).bytes)) [(d, 0)] ∧
    ((s.g d = 0 ∨ hhM h.mcode < (s.g d).toNat) → SumIssued s (.hhtop d a b) none [(d, 1)]) ∧
    (1 ≤ (s.g d).toNat → (s.g d).toNat ≤ hhM h.mcode → (s.g b).toNat % 16 = 0 → s.localRange s.sid (s.g b) (16 * (s.g d).toNat) = some k2 →
      SumIssued s (.hhtop d a b) (some (k2, (bs.drop 64).take (16 * (s.g d).toNat)))
        [(d, BitVec.ofNat 64 (256 * ((List.range (s.g d).toNat).filter (fun i => 0 < (hhEntry bs i).count)).length))])) ∧
  (∀ h y, s.objectPair 2 parseHh (fun _ _ => true) (s.g a) (s.g b) = .ok (k, bs, h, k2, y) →
    SumIssued s (.hhmrg d a b) (some (k, (h.merge y s.free).bytes)) [(d, 0)]) ∧
  (∀ x, s.objectAs 3 parseDc (s.g a) = .ok (k, bs, x) →
    SumIssued s (.dcadd d a vb ty p) (some (k, ((s.present vb ty.toNat p).foldl (fun x e => x.add (tyWidth ty.toNat) e) x).bytes)) [(d, 0)] ∧
    SumIssued s (.dcest d c a) none [(c, BitVec.ofNat 64 x.estimate), (d, 0)]) ∧
  (∀ x y, s.objectPair 3 parseDc (fun x y => x.seed == y.seed) (s.g a) (s.g b) = .ok (k, bs, x, k2, y) →
    SumIssued s (.dcmrg d a b) (some (k, (x.merge y).bytes)) [(d, 0)]) ∧
  (∀ tile o r, (s.tile tile).sums = o :: r →
    (s.prog < o.due → exec (.summaryCompletion tile) s = .next s) ∧
    (o.due ≤ s.prog → (s.strand o.sid).buffer = false →
      ∃ t, exec (.summaryCompletion tile) s = .next t ∧ (t.tile tile).sums = r ∧ t.mem = Memory.putAll s.mem o.cells ∧
        (t.strand o.sid).core.e = o.regs.foldl (fun q x => q.gPut x.1 x.2) (s.strand o.sid).core.e))

/-- 05: R141, R148, R152, R153: a compaction keeps the total weight of a sketch's values; a heavy-hitter list counts every insertion, and
whatever it drops its entries keep; distinct-count registers only grow, and merging them commutes and absorbs a second merge of the same. -/
def Obligations.SummaryLaws : Prop := ∀ (q q' : QSk) (fr : Nat → Word) (l : Nat) (h : Hh) (x w : Nat) (m n o : Dc) (i : Nat),
  (l < q.levels.length → q.compact fr l = some q' → levelWeight 0 q'.levels = levelWeight 0 q.levels) ∧
  (h.add fr x).total = min (h.total + 1) (2 ^ 64 - 1) ∧
  ((h.ents.any (fun e => e.key == x)) = true → (h.add fr x).ents.map (·.key) = h.ents.map (·.key)) ∧
  ((∀ e ∈ h.ents, e.key ≠ x) → h.ents.length < hhM h.mcode → (h.add fr x).ents = h.ents ++ [⟨x, 1, min h.dec (2 ^ 32 - 1)⟩]) ∧
  ((∀ e ∈ h.ents, e.key ≠ x) → hhM h.mcode ≤ h.ents.length → ∀ e ∈ (h.add fr x).ents, 0 < e.count ∧
    ∃ y ∈ h.ents, y.key = e.key ∧ y.count = e.count + 1 ∧ e.err = min (y.err + 1) (2 ^ 32 - 1)) ∧
  (m.regs.length = 4096 → m.regs.getD i 0 ≤ (m.add w x).regs.getD i 0 ∧ (m.add w x).regs.length = 4096) ∧
  (m.merge n).regs = (n.merge m).regs ∧ ((m.merge n).merge n).regs = (m.merge n).regs ∧
  ((m.merge n).merge o).regs = (m.merge (n.merge o)).regs

/-! ## Truss (06: R158-R169; 12: R302-R307) -/

/-- 12: R302-R307: a collective starts only for a child of the group's tree with two disjoint local buffers of a whole number of elements, and
not twice, after the strand's summary operations (05: R156); its strand gets its results, or 5 while they are outstanding, and 1 once the group is gone; `TRSACK` ends it, and `TRSSTAT` reads the
group's entry at a level. That a leaf which is no child of the group's tree gets status 1 is the model's reading (log 67). -/
def Obligations.TrussInstructions : Prop := ∀ (s : State) (d a b c : BitVec 5) (gid : BitVec 10) (m : BitVec 6) (ks kd : Nat) (x : Coll),
  let r := (s.spanBreak s.sid).drain s.sid allKinds
  let g := gid.toNat
  let t := s.myTile
  let e := r.trussEntry (clusterNode t) g
  let own := r.ownsGroup e r.me.ptag && entChild e (childNo (1000 + t))
  let n := (s.g c).toNat
  let put := Instr.trsput d gid a b c
  let p := s.spanBreak s.sid
  let sums := s.cur.e = true ∧ s.sumsOf s.sid ≠ []
  (sums → exec put s = .next (p.block (.summary ((p.sumsOf s.sid).map (fun o => (o.lo, o.hi)))))) ∧
  (¬sums → own = false → exec put s = r.ret d 1) ∧
  (¬sums → own = true →
    ((r.localRange s.sid (s.g a) n = none ∨ r.localRange s.sid (s.g b) n = none) → exec put s = r.ret d 2) ∧
    (r.localRange s.sid (s.g a) n = some ks → r.localRange s.sid (s.g b) n = some kd →
      (ks < kd + n → kd < ks + n → exec put s = r.ret d 2) ∧
      (¬(ks < kd + n ∧ kd < ks + n) →
        (n = 0 ∨ 2 ^ 22 < n ∨ n % trussElem (entOp e) ≠ 0 → exec put s = r.ret d 3) ∧
        (n ≠ 0 → n ≤ 2 ^ 22 → n % trussElem (entOp e) = 0 →
          ((r.collOf s.sid g).isSome = true ∨ 4 ≤ (r.collsOf s.sid).length → exec put s = r.ret d 4) ∧
          ((∀ p ∈ r.colls, ¬(p.1 % 1024 = g ∧ p.2.tile = t)) → (r.collsOf s.sid).length < 4 → r.collOf s.sid g = none →
            1000 + t ∉ s.trussBad → clusterNode t ∉ s.trussDead → ∃ u : State, exec put s = .next u ∧ u.g d = 0 ∧
              u.collOf s.sid g = some ⟨entGen e, t, r.me.ptag, ks, kd, n, [], false, 0⟩ ∧ u.mem = r.mem ∧
              ∀ i, i < (n + 4095) / 4096 → ∃ p ∈ u.packets, p.2.gid = g ∧ p.2.chunk = i ∧ p.2.from_ = 1000 + t ∧
                p.2.node = clusterNode t ∧ p.2.phase = if entOp e = 0 then 1 else 2))))) ∧
  (s.collOf s.sid g = none → exec (.trsget d gid) s = s.ret d 7 ∧ exec (.trsgetP d gid) s = s.ret d 7) ∧
  (s.collOf s.sid g = some x →
    (s.groupLive g x = false → exec (.trsget d gid) s = s.ret d 1 ∧ exec (.trsgetP d gid) s = s.ret d 1) ∧
    (s.groupLive g x = true →
      (x.st = 6 → exec (.trsget d gid) s = s.ret d 6 ∧ exec (.trsgetP d gid) s = s.ret d 6) ∧
      (x.st ≠ 6 → (∀ i, i < (x.len + 4095) / 4096 → i ∈ x.got) →
        exec (.trsget d gid) s = (s.collSeen s.sid g).ret d 0 ∧ exec (.trsgetP d gid) s = (s.collSeen s.sid g).ret d 0) ∧
      (x.st ≠ 6 → ∀ i, i < (x.len + 4095) / 4096 → i ∉ x.got →
        exec (.trsget d gid) s = .next (s.block (.trget g)) ∧ exec (.trsgetP d gid) s = s.ret d 5))) ∧
  (let ga := (s.g a).toNat % 1024
   (s.collOf s.sid ga = none → exec (.trsack d a) s = s.ret d 7) ∧
   (s.collOf s.sid ga = some x → x.acked = true →
     (s.groupLive ga x = false → exec (.trsack d a) s = ((s.dropColl s.sid ga).dropSrb t).ret d 1) ∧
     (s.groupLive ga x = true →
       (x.st = 1 → exec (.trsack d a) s = ((s.dropColl s.sid ga).dropSrb t).ret d 0) ∧
       (x.st = 6 → exec (.trsack d a) s = ((s.dropColl s.sid ga).dropSrb t).ret d 6) ∧
       (x.st = 0 → exec (.trsack d a) s = .next (s.block .coll)))) ∧
   ∀ node, (m = 0 ∧ node = clusterNode t) ∨ (m = 1 ∧ node = quadNode t) ∨ (m = 2 ∧ node = rootNode t) ∨ (m = 3 ∧ node = 84) →
     exec (.trsstat d a m) s = s.ret d
       (if s.tagAdmits (entPtag (s.trussEntry node ga)) s.me.ptag.toNat then s.trussEntry node ga else 0))

/-- 06: R161-R163, R165, R168: contributions combine to the same result in every order; a packet of a group or generation that no longer
stands, or too old, is dropped and counted; a chunk is redone once it is late or its path has failed, and the third failure ends the collective
with 6. That a failed link or node of the tree comes with the redo of a chunk, as a change of the tree before it, is the model's choice (log 41). -/
def Obligations.TrussCombination : Prop := ∀ (s : State) (p q r : TPay) (op n gid c : Nat) (x : TPkt) (k : TChunk),
  (op ∈ [0, 1, 4, 5, 6] → p.len = q.len → q.len = r.len →
    payComb op p q = payComb op q p ∧ payComb op (payComb op p q) r = payComb op p (payComb op q r)) ∧
  (p.src ≠ q.src → payComb 7 p q = payComb 7 q p) ∧ payComb 7 (payComb 7 p q) r = payComb 7 p (payComb 7 q r) ∧
  (Tbl.find s.packets n = none → exec (.trussPacket n) s = .next s) ∧
  (Tbl.find s.packets n = some x → x.via ≠ none → s.cycle.toNat < x.sent.toNat + 2 ^ 20 → exec (.trussPacket n) s = .next s) ∧
  (Tbl.find s.packets n = some x → x.node < 85 →
    (x.via = none ∨ x.sent.toNat + 2 ^ 20 ≤ s.cycle.toNat →
      entValid (s.trussEntry x.node x.gid) = false ∨ entGen (s.trussEntry x.node x.gid) ≠ x.gen ∨ x.sent.toNat + 2 ^ 20 ≤ s.cycle.toNat →
      exec (.trussPacket n) s = .next ({ s with packets := Tbl.del s.packets n }.updPitch x.ptag.toNat
        (fun y => { y with ptrdrop := ctrAdd y.ptrdrop 1 }))) ∧
    (x.via = none → s.cycle.toNat < x.sent.toNat + 2 ^ 20 → entValid (s.trussEntry x.node x.gid) = true →
      entGen (s.trussEntry x.node x.gid) = x.gen → x.try_ = (s.chunkOf x.gid x.gen x.chunk).tries →
      x.phase ≤ 2 → exec (.trussPacket n) s = .next ({ s with packets := Tbl.del s.packets n }.trussUp x))) ∧
  (let gen := entGen (s.trussEntry 84 gid)
   let redo := exec (.chunkRedo gid ⟨c, none⟩) s
   (∀ l m, exec (.chunkRedo gid ⟨c, some (l, m)⟩) s = exec (.chunkRedo gid ⟨c, none⟩) (s.treeLinks l m)) ∧
   (Tbl.find s.chunks (chunkKey gid gen c) = none → redo = .next s) ∧
   (Tbl.find s.chunks (chunkKey gid gen c) = some k →
     (s.pathBad gid k = false → s.cycle.toNat < k.first.toNat + (s.pitch (entPtag (s.trussEntry 84 gid))).ptrsto.toNat ∨ (k.part 84 4).isSome = true →
       redo = .next s) ∧
     (s.trussRoot gid = true → s.pathBad gid k = true ∨
         (k.first.toNat + (s.pitch (entPtag (s.trussEntry 84 gid))).ptrsto.toNat ≤ s.cycle.toNat ∧ k.part 84 4 = none) →
       (k.tries < 2 → ∃ t, redo = .next t ∧ Tbl.find t.chunks (chunkKey gid gen c) = some ⟨s.cycle, k.tries + 1, [], s.altsFor gid, []⟩) ∧
       (2 ≤ k.tries → ∃ t, redo = .next t ∧ ∀ sid ∈ s.sidsIn gid, gid < 1024 → (t.collOf sid gid).map (·.st) = some 6))))

/-! ## Ultra Ethernet (06: R173-R175; 13: R322-R324) -/

/-- 13: R322-R324; 06: R174, R175: `XPOST` waits for the strand's PSTs, performs its earlier stores, then reads its descriptor and answers in the order of its checks; a
receive buffer takes what arrives, the excess dropped; a send leaves by a port that its destination names; another module's `WRITE` is placed
through the tables of its pitch; a post completes, once all its bytes are sent or placed, with its entry and then its action, unless the queue is
full or an earlier reliable ordered one is open; `XCQ` takes the oldest entry; `XCONG` reads the state of the pitch's own connections. The
model's own choices in it: `XPOST` waits for PSTs (log 25), the window, round-trip time and marks of a destination come with its acknowledgements
(log 27), a `WRITE` packet bears its pitch and die (log 42), and the order of the checks and what a completion reports (log 50). -/
def Obligations.Transport : Prop := ∀ (s : State) (d c a : BitVec 5) (o : BitVec 32) (k post off mlen n port dest : Nat) (data : List Byte)
    (st : BitVec 8) (told : Word) (p : Post) (die2 : BitVec 2) (pitch2 : BitVec 12) (addr : Word) (ecn : Bool) (win rtt : BitVec 32),
  let r := (s.spanBreak s.sid).releaseAll s.sid 5
  let va := s.g a + o.signExtend 64
  let b := r.rdBytes k 64
  let x := xdesc b
  let die := sidDie s.sid
  let psts := (s.spanBreak s.sid).pstPending s.sid
  (s.cur.e = false → psts = true → exec (.xpost d a o) s = .next ((s.spanBreak s.sid).block .fence)) ∧
  (s.cur.e = false → psts = false → r.localRange s.sid va 64 = none ∨ (r.localRange s.sid va 64 = some k ∧ (va.toNat % 64 ≠ 0 ∨ x.ok = false)) →
    exec (.xpost d a o) s = r.ret d 1) ∧
  (s.cur.e = false → psts = false → r.localRange s.sid va 64 = some k → va.toNat % 64 = 0 → x.ok = true →
    (x.actOk = false → exec (.xpost d a o) s = r.ret d 2) ∧
    (x.actOk = true → x.laddr.toNat + x.len ≤ 2 ^ 56 →
      ∀ nd ak, (x.opk = 2 ∧ nd = Need.store ∧ ak = akStore) ∨ (x.opk ≠ 2 ∧ nd = Need.load ∧ ak = akLoad) →
      (∀ e ad, r.globalParts die r.me.ptag.toNat nd x.laddr.toNat x.len (x.len / 65536 + 2) = .error (e, ad) →
        exec (.xpost d a o) s = .next (r.w0Fault e ad ak)) ∧
      (∀ ps, r.globalParts die r.me.ptag.toNat nd x.laddr.toNat x.len (x.len / 65536 + 2) = .ok ps →
        (1024 ≤ r.postsOf die r.me.ptag.toNat → exec (.xpost d a o) s = r.ret d 3) ∧
        (r.postsOf die r.me.ptag.toNat < 1024 →
          let conn := destOwn (r.destEntry x.dest) r.me.ptag.toNat && destMode (r.destEntry x.dest) x.mode
          (x.opk ≠ 2 → conn = false → exec (.xpost d a o) s = r.ret d 4) ∧
          (x.opk = 2 ∨ conn = true → ∃ (t : State) (id : Nat) (q : Post), exec (.xpost d a o) s = .next t ∧ t.g d = 0 ∧
            t.mem = r.mem ∧ Tbl.find r.posts id = none ∧ Tbl.find t.posts id = some q ∧ q.ptag = r.me.ptag ∧ q.opk = x.opk ∧
            q.parts = ps ∧ q.len = x.len ∧ q.tag = x.tag ∧ q.atgt = x.atgt))))) ∧
  (∀ k, s.localRange s.sid (s.g a) 32 = some k → (s.g a).toNat % 32 = 0 → s.me.buffer = false →
    (s.cq (State.cqKey die s.me.ptag.toNat) = [] → exec (.xcq d a) s = s.ret d 1 ∧ exec (.xcqW d a) s = .next (s.block .xcq)) ∧
    (∀ e l, s.cq (State.cqKey die s.me.ptag.toNat) = e :: l → ∃ t : State, exec (.xcq d a) s = .next t ∧ exec (.xcqW d a) s = .next t ∧
      t.g d = 0 ∧ t.cq (State.cqKey die s.me.ptag.toNat) = l ∧ t.mem = (s.wrBytes k e.2).mem)) ∧
  (s.localRange s.sid (s.g a) 32 = none → exec (.xcq d a) s = s.ret d 2 ∧ exec (.xcqW d a) s = s.ret d 2) ∧
  (let dst := (s.g a).toNat % 2 ^ 32
   let own := destOwn (s.destEntry dst) s.me.ptag.toNat
   ∃ v w : Word, exec (.xcong d c a) s = .next ((s.gPut d v).gPut c w).adv ∧
     (own = false → v = 0 ∧ w = 0x10000) ∧ (own = true → w.getLsbD 16 = false) ∧
     (own = true → ∀ x r, Tbl.find s.congs dst = some x → x.was = [] → x.rtt = some r → x.marks < 256 →
       v = BitVec.ofNat 64 (x.win.toNat * 2 ^ 32 + r.toNat) ∧ w = BitVec.ofNat 64 (256 * x.marks))) ∧
  (Tbl.find s.congs dest = none → exec (.uePacket (.ack dest ecn win rtt) off data) s = .next s) ∧
  (∀ x, Tbl.find s.congs dest = some x → ∃ t y, exec (.uePacket (.ack dest ecn win rtt) off data) s = .next t ∧ Tbl.find t.congs dest = some y ∧
    y.win = win ∧ y.rtt = some rtt ∧ y.acks = (ecn :: x.acks).take 256 ∧ t.mem = s.mem) ∧
  (s.pstate pitch2.toNat ≠ 1 → exec (.uePacket (.write die2 pitch2 addr mlen) off data) s = .next s) ∧
  (s.pstate pitch2.toNat = 1 → off + data.length ≤ mlen → wordBound addr.toNat off data.length mlen = true →
    addr.toNat + off + data.length ≤ 2 ^ 56 → ∀ ps,
    s.globalParts die2.toNat pitch2.toNat .store (addr.toNat + off) data.length (data.length / 65536 + 2) = .ok ps → s.partsRefusal true ps = none →
    ∃ t, exec (.uePacket (.write die2 pitch2 addr mlen) off data) s = .next t ∧
      t.mem = (((s.touch true ps).unpoison ps).putCells ((keysOf ps).zip data)).mem) ∧
  (Tbl.find s.posts post = none → exec (.uePacket (.recv post mlen) off data) s = .next s ∧ exec (.uePacket (.send post n port) off data) s = .next s ∧
    exec (.receiveMatchTimeout post) s = .next s ∧ exec (.messageCompletion post st told) s = .next s) ∧
  (Tbl.find s.posts post = some p →
    (p.opk ≠ 2 → exec (.uePacket (.recv post mlen) off data) s = .next s) ∧
    (let m := min (min p.len mlen - off) data.length
     let ps := partsRange p.parts off m
     p.opk = 2 → p.mlen = none ∨ p.mlen = some mlen → off + data.length ≤ mlen → wordBound p.laddr.toNat off m (min p.len mlen) = true →
     s.partsRefusal true ps = none → ∃ t, exec (.uePacket (.recv post mlen) off data) s = .next t ∧
      t.mem = (((s.touch true ps).unpoison ps).putCells ((keysOf ps).zip (data.take m))).mem) ∧
    (p.opk = 2 ∨ port ∉ s.etherPorts p.entry → exec (.uePacket (.send post n port) off data) s = .next s) ∧
    (p.opk ≠ 2 → port ∈ s.etherPorts p.entry → n ≠ 0 → off + n ≤ p.len → ∃ t q, exec (.uePacket (.send post n port) off data) s = .next t ∧
      Tbl.find t.posts post = some q ∧ q.moved = addRun off (off + n) p.moved ∧ q.parts = p.parts ∧ ∃ m ∈ t.outbox, m.kind = 10) ∧
    (p.opk ≠ 1 ∨ s.cycle.toNat < p.since.toNat + 2 ^ 20 → exec (.receiveMatchTimeout post) s = .next s) ∧
    (p.opk = 1 → p.since.toNat + 2 ^ 20 ≤ s.cycle.toNat → exec (.receiveMatchTimeout post) s = .next (s.completePost post 5 0)) ∧
    (∀ m, p.placed 0 told.toNat = some m → p.moved = [(0, m)] ∧ (p.opk ≠ 2 → m = p.len) ∧ (p.opk = 2 → m = min p.len (p.mlen.getD 0))) ∧
    (p.placed st.toNat told.toNat = none → exec (.messageCompletion post st told) s = .next s) ∧
    (∀ m, p.placed st.toNat told.toNat = some m →
      let q := State.cqKey p.die p.ptag.toNat
      (4096 ≤ (s.cq q).length → exec (.messageCompletion post st told) s = .next s) ∧
      ((s.cq q).length < 4096 → p.mode ≠ 2 → p.akind = 0 → ∃ t, exec (.messageCompletion post st told) s = .next t ∧
        t.cq q = s.cq q ++ [(p.tref, cqEntry p st.toNat (BitVec.ofNat 64 m) s.cycle)] ∧ Tbl.find t.posts post = none ∧ t.mem = s.mem)))

/-! ## System registers (13: R332-R335; 17: R354; 18: R376) -/

/-- 13: R332, R333; 17: R354: a strand reads its registers and writes its trap registers and `ETC` at once, the line registers with their low
six bits clear; a service core's write of any other register waits for the end of its cycle, when the writes take effect in order. The
external events that write a register, a counter, `PIMGKEY` or `SSMEM` wait there like a core's own writes: that they do, and their order, is
the model's reading (log 37). -/
def Obligations.SystemRegisters : Prop := ∀ (s : State) (d a : BitVec 5) (r : BitVec 12) (n reg : Nat) (v : Word),
  (s.cur.sid < 4096 →
    exec (.sysrd d 0) s = s.ret d s.cycle ∧ exec (.sysrd d 1) s = s.ret d (s.core.spanno.setWidth 64) ∧
    exec (.sysrd d 2) s = s.ret d (s.core.etc.setWidth 64) ∧
    exec (.sysrd d 3) s = s.ret d (BitVec.ofNat 64 (sidTile s.sid + sidSlot s.sid * 1024 + s.pkg.toNat * 4096 + s.incarnation.toNat * 2 ^ 22)) ∧
    exec (.sysrd d 4) s = s.ret d s.me.tref ∧ exec (.sysrd d 5) s = s.ret d (s.me.ptag.setWidth 64) ∧
    exec (.sysrd d 0x10) s = s.ret d s.seq.trapVec ∧ exec (.sysrd d 0x11) s = s.ret d s.seq.tcause ∧
    exec (.sysrd d 0x12) s = s.ret d s.seq.targ ∧ exec (.sysrd d 0x13) s = s.ret d s.seq.trline ∧
    exec (.sysrd d 0x14) s = s.ret d s.seq.tridx ∧ exec (.sysrd d 0x15) s = s.ret d s.seq.trpend ∧
    exec (.sysrd d 0x16) s = s.ret d s.seq.tscr0 ∧ exec (.sysrd d 0x17) s = s.ret d s.seq.tscr1 ∧
    exec (.syswr a 2) s = .next (s.updCore (fun c => { c with etc := BitVec.ofNat 32 (min (s.g a).toNat (2 ^ 32 - 1)) })).adv ∧
    exec (.syswr a 0x10) s = .next (s.updSeq (fun q => { q with trapVec := s.g a &&& ~~~0x3F#64 })).adv ∧
    exec (.syswr a 0x13) s = .next (s.updSeq (fun q => { q with trline := s.g a &&& ~~~0x3F#64 })).adv ∧
    exec (.syswr a 0x14) s = .next (s.updSeq (fun q => { q with tridx := BitVec.ofNat 64 (min 128 ((s.g a).toNat % 256)) })).adv ∧
    exec (.syswr a 0x15) s = .next (s.updSeq (fun q => { q with trpend := s.g a &&& ~~~0x3E#64 })).adv ∧
    exec (.syswr a 0x16) s = .next (s.updSeq (fun q => { q with tscr0 := s.g a })).adv ∧
    exec (.syswr a 0x17) s = .next (s.updSeq (fun q => { q with tscr1 := s.g a })).adv) ∧
  (4096 ≤ s.cur.sid → exec (.sysrd d r) s = s.ret d (s.coreRead (s.cur.sid - 4096) r.toNat)) ∧
  (4096 ≤ s.cur.sid → (r.toNat < 0x10 ∨ 0x17 < r.toNat) → ∃ t, exec (.syswr a r) s = .next t ∧ t.seq = s.seq.adv ∧ t.pitches = s.pitches ∧
    (t.coreRegs (s.cur.sid - 4096)).regq = (s.coreRegs (s.cur.sid - 4096)).regq ++ [.reg r.toNat (s.g a)] ∧ t.mem = s.mem) ∧
  s.applyRegs n = (s.coreRegs n).regq.foldl (fun u w => u.applyReg n w) (s.updCoreRegs n (fun c => { c with regq := [] })) ∧
  s.applyReg n (.reg reg v) = s.coreWrite n reg v ∧
  (n < 16 →
    exec (.registerWrite n reg v) s = .next (s.queueReg n (.reg reg v)) ∧ exec (.pimgkey n v) s = .next (s.queueReg n (.reg 0x124 v)) ∧
    (reg ∈ [0x11B, 0x11C, 0x11D, 0x1A1] → exec (.counterWrite n reg v) s = .next (s.queueReg n (.reg reg v))) ∧
    (reg < 2 → exec (.ssmemWrite n reg v) s = .next (s.queueReg n (.reg (0x122 + reg) v))) ∧
    (∃ t, s.queueReg n (.reg reg v) = t ∧ (t.coreRegs n).regq = (s.coreRegs n).regq ++ [.reg reg v] ∧ t.pitches = s.pitches ∧ t.links = s.links ∧
      t.tiles = s.tiles) ∧
    (s.coreWrite n 0x110 v).selPitch n = v.toNat % 4096 ∧
    (s.pstate (s.selPitch n) ≠ 0 →
      ((s.coreWrite n 0x111 v).pitch (s.selPitch n)).proot = (if v.toNat % 8192 = 0 then v else (s.pitch (s.selPitch n)).proot) ∧
      ((s.coreWrite n 0x113 v).pitch (s.selPitch n)).pbarto = v ∧ (s.coreWrite n 0x112 v).pstate (s.selPitch n) = s.pstate (s.selPitch n) ∧
      ((s.coreWrite n 0x11E v).pitch (s.selPitch n)).pevlog = v ∧ ((s.coreWrite n 0x120 v).pitch (s.selPitch n)).pviol = v) ∧
    (s.pstate (s.selPitch n) = 0 → ∀ reg, 0x111 ≤ reg → reg ≤ 0x124 → reg ≠ 0x122 → reg ≠ 0x123 → s.coreWrite n reg v = s) ∧
    (∀ p, s.coreWrite n 0x115 v = s ∨ p = s.selPitch n ∨ (s.coreWrite n 0x115 v).pitch p = s.pitch p)) ∧
  (16 ≤ n → exec (.registerWrite n reg v) s = .next s ∧ exec (.counterWrite n reg v) s = .next s ∧ exec (.pimgkey n v) s = .next s ∧
    exec (.ssmemWrite n reg v) s = .next s)

/-- 13: R335; 18: R376, R377: `TLBINV` with reserved bits set answers 4; otherwise every entry of its extent leaves the structures, no store of
the extent is left behind, and it ends with 0 once no copy, post or write-back holds a translation of the extent. `CTXSAVE` and `CTXLOAD`
answer in the order of their checks; a resume of a parked strand lets it run; a save whose strand has settled writes its image and frees the slot,
or freezes the strand where the image cannot be written. The model's readings in it: no store of a `TLBINV`'s extent is left behind (log 66), an
image's poisoned bytes read zero (log 23), and a strand that takes its last `TRET` in the cycle of the request has none left to save (log 62). -/
def Obligations.ContextInstructions : Prop := ∀ (s : State) (d a b : BitVec 5) (sid : Nat),
  let v := s.g a
  let sel := v.toNat % 4096
  let t := s.strand sel
  (v.toNat / 2 ^ 14 ≠ 0 ∨ v.toNat / 2 ^ 12 % 4 = 3 → exec (.tlbinv d a b) s = s.ret d 4) ∧
  (v.toNat / 2 ^ 12 = 2 → s.copies = [] → s.posts = [] → s.recs = [] → ∃ u, exec (.tlbinv d a b) s = .next u ∧ u.tlb = [] ∧ u.g d = 0 ∧
    ∀ k, k < 4096 → (u.strand k).loads = [] ∧ ∀ p ∈ (u.strand k).pend, p.held = true) ∧
  (v.toNat / 2 ^ 12 = 1 → ∃ u, exec (.tlbinv d a b) s = .next u ∧ ∀ e ∈ u.tlb, e.ptag.toNat ≠ sel) ∧
  (v.toNat / 4096 ≠ 0 → exec (.ctxsave d a) s = s.ret d 4 ∧ exec (.ctxload d a b) s = s.ret d 4) ∧
  (v.toNat / 4096 = 0 →
    (t.scstate = 0 → exec (.ctxsave d a) s = s.ret d 1) ∧ (t.scstate = 4 → exec (.ctxsave d a) s = s.ret d 2) ∧
    (t.scstate ≠ 0 → t.scstate ≠ 4 →
      (4 ≤ s.savesOn (sidDie sel) → exec (.ctxsave d a) s = s.ret d 3) ∧
      (s.savesOn (sidDie sel) < 4 → t.buffer = false → (s.recOf t.rk).save ≠ 0 → sel ≠ s.sid →
        ∃ u, exec (.ctxsave d a) s = .next u ∧ (u.strand sel).scstate = 4 ∧ (u.strand sel).saveReq = some s.cycle ∧
          u.g d = 0 ∧ u.mem = s.mem)) ∧
    (t.live = true → exec (.ctxload d a b) s = s.ret d 1) ∧
    (t.live = false →
      let f : Img := fun o => if s.poison.contains (((s.g b).toNat + o) / 128) then 0 else s.byte ((s.g b).toNat + o)
      let size := if (s.recOf (trefKey (f.w 8))).fmt = 1 then spadBytes (sidTile sel) else f.n 0x16 1 * 16384
      let pa := (s.g b).toNat
      let zr := noneIn ((s.mem.filter (fun c => decide (pa ≤ c.1) && decide (c.1 < pa + 0x80000) && !s.poison.contains (c.1 / 128))).map (fun c => c.1 - pa))
      let r := (s.settle (·.inRange pa (0x80000 + size))).corePoisoned pa 0x80000
      (parseImage f zr (!isXTile (sidTile sel)) size = none → exec (.ctxload d a b) s = r.ret d 2) ∧
      ∀ m, parseImage f zr (!isXTile (sidTile sel)) size = some m →
        ((s.tile (sidTile sel)).rmode = 2 → exec (.ctxload d a b) s = r.ret d 3) ∧
        ((s.tile (sidTile sel)).rmode = 0 → m.mx.isSome = true → (s.tile (sidTile sel)).mx.owner.isSome = true →
          exec (.ctxload d a b) s = r.ret d 5) ∧
        ((s.tile (sidTile sel)).rmode = 0 → m.mx = none → (s.tile (sidTile sel)).allocs = [] → f.n 0x18 4 + size ≤ spadBytes (sidTile sel) →
          m.pcause = 0 → sel ≠ s.sid → ∃ u, exec (.ctxload d a b) s = .next u ∧ (u.strand sel).scstate = 1 ∧ (u.strand sel).core.a = m.core.a ∧
            (u.strand sel).core.e = m.core.e ∧ (u.strand sel).core.v = m.core.v ∧ u.g d = 0))) ∧
  (sid < 4096 →
    ((s.strand sid).scstate = 0 ∨ (s.strand sid).scstate = 4 → exec (.scresume sid) s = .next s) ∧
    ((s.strand sid).scstate = 2 → (s.strand sid).park = .w0 → ∃ u, exec (.scresume sid) s = .next u ∧ (u.strand sid).scstate = 1 ∧
      (u.strand sid).pendCause = 0 ∧ (u.strand sid).core.a = (s.strand sid).core.a ∧ (u.strand sid).core.e = (s.strand sid).core.e)) ∧
  ((s.strand sid).saveReq = none → exec (.saveForced sid) s = .next s ∧ exec (.saveDone sid) s = .next s) ∧
  (∀ c, (s.strand sid).saveReq = some c → (s.strand sid).scstate = 4 →
    (s.cycle.toNat < c.toNat + 120000 → exec (.saveForced sid) s = .next s) ∧
    (c.toNat + 120000 ≤ s.cycle.toNat → (s.strand sid).saveForced = false → s.saveSettled sid = false →
      ∃ u, exec (.saveForced sid) s = .next u ∧ (u.strand sid).saveForced = true) ∧
    (s.saveSettled sid = false → exec (.saveDone sid) s = .next s) ∧
    (s.saveSettled sid = true → ∀ e ad, (s.settleLoads sid).imageParts (sidDie sid) (s.strand sid).rk .store ((s.settleLoads sid).imageAddr sid)
        (imageSize (s.strand sid).size) = .error (e, ad) → ∃ u, exec (.saveDone sid) s = .next u ∧ (u.strand sid).scstate = 3 ∧ (u.strand sid).saveReq = none) ∧
    (let x := s.strand sid
     sid < 4096 → s.saveSettled sid = true → ∀ ps,
      (s.settleLoads sid).imageParts (sidDie sid) x.rk .store ((s.settleLoads sid).imageAddr sid) (imageSize x.size) = .ok ps →
      ∃ u, exec (.saveDone sid) s = .next u ∧ (u.strand sid).live = false ∧ x.ctile ∈ ((u.recOf x.rk).inv x.inv).savedT ∧
        ∀ y ∈ (u.tile (sidTile sid)).allocs, ¬(y.rk = x.rk ∧ y.inv = x.inv ∧ y.ctile = x.ctile)))

/-! ## The dispatchers (01: R24, R29, R41, R45-R47, R50-R52; 18: R378) -/

/-- 01: R24, R29, R41, R45-R47, R51, R52; 18: R378: what a decision chooses: a candidate of the highest effective level among those of a
positive weight, where there are any, the oldest of its pitch at that level. No decision within four cycles of the last. A camp is READY when its
copies are done, and a decision that comes to it starts its strands; an ended invocation retires with its DONEMAP bit set and its allocations
free; a drained record retires; a lost die leaves the record PARTIAL_RET when it is idempotent, FAILED otherwise, once nothing runs or is saved; a
reservation and a retry only where one is due. The model's readings in it: a decision starts the strands of a READY camp (log 68), and a record
with a lost die is PARTIAL only once nothing of it is saved (log 53). -/
def Obligations.Dispatch : Prop := ∀ (s : State) (d d' : Dispatcher) (able : List Cand) (c : Cand) (die rk inv : Nat) (tref : Word),
  let r := s.recOf rk
  let x := r.inv inv
  let w (c : Cand) : Nat := s.weight (s.candPitch c)
  (s.choose d able = (d', some c) → c ∈ able ∧ (∀ y ∈ able, w y ≠ 0 → w c ≠ 0) ∧
    (∀ y ∈ able, (w y ≠ 0 ∨ w c = 0) → y.level ≤ c.level) ∧
    (∀ y ∈ able, y.level = c.level → s.candPitch y = s.candPitch c → c.since ≤ y.since)) ∧
  (s.cycle.toNat < (s.dispOf die).next.toNat → exec (.dispatchDecision die) s = .next s) ∧
  ((s.dispOf die).next.toNat ≤ s.cycle.toNat → s.recs = [] → ∃ t, exec (.dispatchDecision die) s = .next t ∧
    (t.dispOf die).next = s.cycle + 4 ∧ t.strands = s.strands ∧ t.mem = s.mem) ∧
  ((s.dispOf die).next.toNat ≤ s.cycle.toNat → recDie rk = die → s.recs = [(rk, r)] → r.nextInv = none → r.invs = [(inv, x)] → x.st = .ready →
    x.going = false → x.restore = false → x.tiles.Nodup → (∀ tile ∈ x.tiles, tile < 1024) → s.canStart rk inv = true →
    ∃ t, exec (.dispatchDecision die) s = .next t ∧ (t.dispOf die).next = s.cycle + 4 ∧ (t.recOf rk).st = .running ∧
      ((t.recOf rk).inv inv).st = .running ∧ ∀ ct tile, x.tiles[ct]? = some tile → ∃ k, k < 4 ∧ (t.strand (k * 1024 + tile)).scstate = 1 ∧
        (t.strand (k * 1024 + tile)).rk = rk ∧ (t.strand (k * 1024 + tile)).inv = inv ∧ (t.strand (k * 1024 + tile)).ctile = ct) ∧
  ((∀ p ∈ (s.dispOf die).passed, s.cycle.toNat < p.2.toNat + 2 ^ 23) → exec (.starvationReservation die) s = .next s) ∧
  (∀ since place, (s.dispOf die).passed = [(candKey rk inv, since)] → inv < 2 ^ 20 → since.toNat + 2 ^ 23 ≤ s.cycle.toNat → (s.dispOf die).resv = [] →
    (s.diesOf rk).findSome? (fun e => s.findOn rk inv e false) = some place →
    ∃ t, exec (.starvationReservation die) s = .next t ∧ (t.dispOf die).resv = [(candKey rk inv, place.tiles)] ∧ t.strands = s.strands) ∧
  (x.st ≠ .staging ∨ x.copies ≠ [] ∨ x.faulted ≠ [] → exec (.stagingComplete rk inv) s = .next s) ∧
  (x.st = .staging → x.copies = [] → x.faulted = [] → ∃ t, exec (.stagingComplete rk inv) s = .next t ∧ ((t.recOf rk).inv inv).st = .ready ∧
    (t.recOf rk).st = (if r.st = .staging then .ready else r.st) ∧ t.mem = s.mem) ∧
  (x.st ≠ .ended ∨ x.copies ≠ [] ∨ x.faulted ≠ [] ∨ .bit inv ∈ r.waits → exec (.writebackDone rk inv) s = .next s) ∧
  (x.st = .ended → x.copies = [] → x.faulted = [] → .bit inv ∉ r.waits →
    (r.donemap = 0 → ∃ t, exec (.writebackDone rk inv) s = .next t ∧ ((t.recOf rk).inv inv).st = .finished ∧
      (t.recOf rk).retired = r.retired + 1 ∧ t.mem = s.mem ∧ ∀ tile ∈ x.tiles, ∀ a ∈ (t.tile tile).allocs, ¬(a.rk = rk ∧ a.inv = inv)) ∧
    (∀ k u, r.donemap ≠ 0 → s.heldKeys rk true (r.donemap.toNat + inv / 8) 1 2 = .ok ([k], u) → u.poisonAt [k] = false →
      ∃ t, exec (.writebackDone rk inv) s = .next t ∧ t.byte k = u.byte k ||| BitVec.ofNat 8 (2 ^ (inv % 8)) ∧
        ∀ k', k' ≠ k → t.byte k' = u.byte k')) ∧
  (r.st ≠ .draining ∨ r.sending ≠ none ∨ r.lostDies ≠ [] ∨ (∃ p ∈ r.invs, p.2.st ≠ .finished) → exec (.taskRetirement rk) s = .next s) ∧
  (r.st = .draining → r.sending = none → r.lostDies = [] → (∀ p ∈ r.invs, p.2.st = .finished) → (∀ p ∈ r.invs, p.2.etc = 0) →
    exec (.taskRetirement rk) s = .next (s.retire rk r.skipRet)) ∧
  (r.lostDies = [] → exec (.partialRetirement rk) s = .next s) ∧
  ((∃ p ∈ r.invs, p.2.st = .running ∨ p.2.st = .saved) → exec (.partialRetirement rk) s = .next s) ∧
  (r.lostDies ≠ [] → r.st = .running ∨ r.st = .draining ∨ r.st = .parked → (∀ p ∈ r.invs, p.2.st = .lost ∨ p.2.st = .finished) →
    ∃ t, exec (.partialRetirement rk) s = .next t ∧ (t.recOf rk).st = if r.idem then .partialRet else .failed) ∧
  (recDie (trefKey tref) ≠ die ∨ trefPkg tref ≠ s.pkg.toNat ∨ (s.recOf (trefKey tref)).st = .free ∨ trefInst tref ≠ (s.recOf (trefKey tref)).inst.toNat →
    exec (.stagingRetry die tref) s = .next s) ∧
  (recDie (trefKey tref) = die → trefPkg tref = s.pkg.toNat → (s.recOf (trefKey tref)).st ≠ .free → trefInst tref = (s.recOf (trefKey tref)).inst.toNat →
    (s.recOf (trefKey tref)).waits = [] → ∀ y, (s.recOf (trefKey tref)).invs = [(inv, y)] → y.faulted ≠ [] →
    exec (.stagingRetry die tref) s = .next (s.retryInv (trefKey tref) inv))

/-! ## Hosts (17: R348-R358, R367, R368, R372; 01: R29, R52) -/

/-- 17: R348-R352: a doorbell gives the tail, and a read of the head index returns it; every request is served by the step of its kind when it is
the oldest of its queue and the queue's turn, and completes, or goes to the module that it names: the head moves on, and an entry is written when
it asked for one or failed. A request whose register writes wait for the end of the cycle completes with them. A relayed request answers its
module, unless that is in recovery. -/
def Obligations.HostQueues : Prop := ∀ (s : State) (q core src : Nat) (tail : BitVec 32) (w : BitVec 512) (r : Req) (st : Nat) (res : Word) (u : State),
  ((s.queue q).opened = false → exec (.doorbell q tail) s = .next s) ∧
  ((s.queue q).opened = true → ∃ t, exec (.doorbell q tail) s = .next t ∧ (t.queue q).tail = tail.toNat % max 1 (s.queue q).count ∧ t.mem = s.mem) ∧
  ((s.queue q).opened = false → exec (.headIndexRead q) s = .next s) ∧
  ((s.queue q).opened = true → exec (.headIndexRead q) s = .next { s with
    outbox := s.outbox ++ [⟨11, s.pkg.toNat, (s.queue q).owner, [BitVec.ofNat 64 q, BitVec.ofNat 64 (s.queue q).head]⟩] }) ∧
  (∀ i k, ((i, k) : Instr × ReqKind) ∈ [(.read q, .read), (.write q, .write), (.load q, .load), (.unload q, .unload), (.launch q, .launch),
      (.pcreate q, .pcreate), (.pset q, .pset), (.pend q, .pend), (.gcreate q, .gcreate), (.gfree q, .gfree), (.hset q, .hset), (.pin q, .pin),
      (.join q, .join), (.quote q, .quote), (.power q, .power), (.queueCreate q, .queueCreate), (.queueDestroy q, .queueDestroy),
      (.partialRedispatch q, .redispatch), (.partialAbandon q, .abandon), (.tile q, .tile), (.reservedRequest q, .reserved)] →
    (s.reqAt q = none → exec i s = .next s) ∧
    (s.reqAt q = some r →
      (r.kind ≠ k ∨ s.nextQueue (s.queue q).core ≠ some q → exec i s = .next s) ∧
      (r.kind = k → s.nextQueue (s.queue q).core = some q → s.powerStalled = false →
        exec i s = .next ((s.serveReq q r).updCoreRegs (s.queue q).core (fun c => { c with turn := q }))))) ∧
  ((∀ n, s.refused q r = some n → s.serveReq q r = s.complete q r n 0) ∧
    (s.refused q r = none → r.pkg = s.pkg.toNat → s.perform (s.queue q).core (hostKey 0) r = (st, res, u) →
      s.serveReq q r = if (u.coreRegs (s.queue q).core).regq = [] then u.complete q r st res else u.queueReg (s.queue q).core (.finish q st)) ∧
    (∀ n, s.applyReg n (.finish q st) = (s.reqAt q).elim s (fun r => s.complete q r st 0)) ∧
    (s.refused q r = none → r.pkg ≠ s.pkg.toNat → routeValid (s.route r.pkg) = false → s.serveReq q r = s.complete q r 8 0) ∧
    (s.refused q r = none → r.pkg ≠ s.pkg.toNat → s.relayCut (s.queue q).core r.pkg = true → s.serveReq q r = s.complete q r 8 0) ∧
    (s.refused q r = none → r.pkg ≠ s.pkg.toNat → routeValid (s.route r.pkg) = true → s.relayCut (s.queue q).core r.pkg = false →
      ((s.serveReq q r).coreRegs (s.queue q).core).relayed = some (q, s.rtepoch) ∧ (s.serveReq q r).queues = s.queues)) ∧
  (((s.complete q r st res).queue q).head = ((s.queue q).head + 1) % max 1 (s.queue q).count ∧
    (st = 0 → r.flags % 2 = 0 → (s.complete q r st res).mem = s.mem) ∧
    (st ≠ 0 ∨ r.flags % 2 = 1 →
      (s.complete q r st res).mem = (s.wrBytes (hostKey ((s.queue q).comp.toNat + 32 * (s.queue q).compAt)) (compBytes r.tag st res s.cycle)).mem)) ∧
  (let rr := reqOf (bytesLE w.toNat 64)
   (16 ≤ core ∨ 1024 ≤ src ∨ s.recovery = true ∨ (s.coreRegs core).regq ≠ [] → exec (.relayedRequest core src w) s = .next s) ∧
   (core < 16 → src < 1024 → s.powerStalled = false → s.recovery = false → (s.coreRegs core).regq = [] → rr.pkg ≠ s.pkg.toNat →
     exec (.relayedRequest core src w) s = .next (s.trySend (1024 + core) ⟨12, src, BitVec.ofNat 12 rr.ptag, [rr.tag, 8, 0]⟩)) ∧
   (core < 16 → src < 1024 → s.powerStalled = false → s.recovery = false → (s.coreRegs core).regq = [] → rr.pkg = s.pkg.toNat → s.perform core (hostKey (2 ^ 64 * (src + 1))) rr = (st, res, u) →
     exec (.relayedRequest core src w) s =
       .next (u.trySend (1024 + core) ⟨12, src, BitVec.ofNat 12 rr.ptag, [rr.tag, BitVec.ofNat 64 st, res]⟩)))

/-- 17: R350-R358, R367, R368, R372; 20: R401: what a request does at its module: the checks in their order, each status, and its effect; the power
state moves between the one asked for and 2, as the cap and the cold plate have it. The model's own choices in it: `PARTIAL` of a record that is not
PARTIAL is BUSY (log 24), the windows and the requests of a module in recovery (log 34), and the statuses of destroying queue 0 and an absent
queue, of a register that `PSET` does not list, of `HSET` with an absent template and of requests in recovery (log 59). -/
def Obligations.HostRequests : Prop := ∀ (s : State) (q n hb : Nat) (r : Req),
  let does (st : Nat) (P : State → Prop) : Prop := ∃ res u, s.request n hb r = (st, res, u) ∧ P u
  let fails (st : Nat) : Prop := s.request n hb r = (st, 0, s)
  (r.clean = false ∨ r.kind = .reserved → s.refused q r = some 1 ∧ fails 1) ∧
  (r.clean = true → r.kind ≠ .reserved →
    ((s.queue q).owner ≠ 0 → r.kind.own = false ∨ (s.queue q).owner.toNat ≠ r.ptag → s.refused q r = some 2) ∧
    ((s.queue q).owner = 0 ∨ (r.kind.own = true ∧ (s.queue q).owner.toNat = r.ptag) →
      (s.recovery = false ∨ (q = 0 ∧ r.kind ∈ [.read, .write, .quote]) → s.refused q r = none) ∧
      (s.recovery = true → q ≠ 0 ∨ r.kind ∉ [.read, .write, .quote] → s.refused q r = some 1))) ∧
  (∀ st res u, s.request n hb r = (st, res, u) → s.perform n hb r = (st, res, u.releaseBy (u.whoOf (4096 + n)) 5 true)) ∧
  (r.clean = true →
    (s.pstate r.ptag = 2 → r.kind ≠ .pend → r.kind ≠ .reserved → fails 2) ∧
    (r.kind.onPitch = true → s.pstate r.ptag ≠ 1 → fails 2) ∧
    (s.pstate r.ptag ≠ 2 →
      (r.kind = .pcreate →
        (r.ptag = 0 → fails 2) ∧ (r.ptag ≠ 0 → s.pstate r.ptag ≠ 0 → fails 4) ∧
        (r.ptag ≠ 0 → s.pstate r.ptag = 0 → r.addr.toNat % 8192 ≠ 0 → fails 1) ∧
        (r.ptag ≠ 0 → s.pstate r.ptag = 0 → r.addr.toNat % 8192 = 0 → does 0 (fun u => u.pstate r.ptag = 1 ∧
          (u.pitch r.ptag).proot = r.addr ∧ u.weight r.ptag = r.arg0.toNat / 4 % 256 ∧ (u.pitch r.ptag).pbarto = 65536))) ∧
      (r.kind = .power →
        (3 ≤ r.arg0.toNat → fails 1) ∧
        (r.arg0.toNat < 3 → r.arg1 = 0 → does 0 (fun u => u.power.toNat = r.arg0.toNat ∧ u.powerReq = u.power ∧ u.cap = 0))) ∧
      (r.kind = .tile → does 0 (fun u => let t := u.tile (r.arg0.toNat % 1024)
        t.rptag.toNat = r.arg1.toNat / 65536 % 4096 ∧ t.rmode.toNat = min 2 (r.arg1.toNat / 2 % 4) ∧
        t.insvc = (r.arg1.getLsbD 0 && !s.badTiles.contains (r.arg0.toNat % 1024)) ∧ u.mem = s.mem)) ∧
      (r.kind = .pin → r.arg0.toNat % 2 ^ 28 = 0 →
        (r.arg1 = 0 → does 0 (fun u => ∀ x ∈ u.pins, x.1 ≠ r.arg0.toNat / 2 ^ 28)) ∧
        (r.arg1 = 1 → (∀ x ∈ s.pins, x.1 ≠ r.arg0.toNat / 2 ^ 28) → s.badGrans = [] →
          (60 ≤ s.pins.length → fails 7) ∧
          (s.pins.length < 60 → does 0 (fun u => u.pins = s.pins ++ [(r.arg0.toNat / 2 ^ 28, BitVec.ofNat 12 r.ptag)] ∧ u.mem = s.mem)))) ∧
      (r.kind = .queueCreate → (s.queue (r.arg0.toNat % 64)).opened = true → isPow2 r.len = true → 64 ≤ r.len → fails 4) ∧
      (r.kind = .queueCreate → (s.queue (r.arg0.toNat % 64)).opened = false → isPow2 r.len = true → 64 ≤ r.len →
        does 0 (fun u => let x := u.queue (r.arg0.toNat % 64)
          x.opened = true ∧ x.req = r.addr ∧ x.comp = r.haddr ∧ x.count = r.len ∧ x.head = 0 ∧ x.tail = 0)) ∧
      (r.kind = .queueDestroy →
        (r.arg0.toNat % 64 = 0 → fails 4) ∧ (r.arg0.toNat % 64 ≠ 0 → (s.queue (r.arg0.toNat % 64)).opened = false → fails 9) ∧
        (r.arg0.toNat % 64 ≠ 0 → (s.queue (r.arg0.toNat % 64)).opened = true → does 0 (fun u => (u.queue (r.arg0.toNat % 64)).opened = false))) ∧
      (r.kind = .gfree → Tbl.find s.groups (r.arg0.toNat % 1024) = none → fails 9) ∧
      (r.kind = .hset →
        (s.ingressEnd (r.arg1 &&& ~~~0x3F0003#64) = false → fails 5) ∧
        (s.ingressEnd (r.arg1 &&& ~~~0x3F0003#64) = true →
          does 0 (fun u => (u.coreRegs n).regq = (s.coreRegs n).regq ++ [.hset (r.arg0.toNat % 4096) (r.arg1 &&& ~~~0x3F0003#64) r.addr] ∧
            u.handlers = s.handlers))) ∧
      (s.pstate r.ptag = 1 →
        (r.kind = .unload → Tbl.find s.templates (r.arg0.toNat % 65536) = none → fails 9) ∧
        (r.kind = .join → r.arg1 = 0 → does 0 (fun u => ∀ j ∈ u.joins, ¬(j.pkg.toNat = r.arg0.toNat % 1024 ∧ j.pitch.toNat = r.arg0.toNat / 65536 % 4096))) ∧
        (r.kind = .quote → does 0 (fun u => u.mem = (s.wrBytes (hb + r.haddr.toNat) (s.quoteBytes r)).mem)) ∧
        (r.kind = .pset → pitchRegs.contains r.arg0.toNat = false → fails 1) ∧
        (r.kind = .pset → pitchRegs.contains r.arg0.toNat = true → r.arg0 ≠ 0x124 ∨ r.arg1 = 0 → r.arg0 ≠ 0x111 ∨ r.arg1.toNat % 8192 = 0 →
          does 0 (fun u => (u.coreRegs n).regq = (s.coreRegs n).regq ++ [.pset r.ptag r.arg0.toNat r.arg1] ∧ u.pitches = s.pitches)) ∧
        (r.kind = .read → r.len = 0 → does 0 (fun u => u.mem = s.mem)) ∧
        (r.kind = .write → s.recoveryRange r = true → does 0 (fun u => u.mem = (s.wrBytes r.addr.toNat (s.rdBytes (hb + r.haddr.toNat) r.len)).mem)) ∧
        (r.kind = .write → s.recoveryRange r = false → ∀ ks ps, s.pitchKeys (n / 4) r.ptag .store r.addr r.len = .ok (ks, ps) →
          let w := ((s.touch true ps).unpoison ps).putCells (ks.zip (s.rdBytes (hb + r.haddr.toNat) r.len))
          does 0 (fun u => s.rtepoch = w.rtepoch → u.mem = w.mem)) ∧
        (r.kind = .load → ∀ a, s.pitchRead (n / 4) r.ptag r.addr r.len = .error a → s.request n hb r = (3, a, s)) ∧
        (r.kind = .redispatch ∨ r.kind = .abandon → s.hostRec r = none → fails 9) ∧
        (∀ rk, r.kind = .redispatch ∨ r.kind = .abandon → s.hostRec r = some rk → (s.recOf rk).st ≠ .partialRet → fails 4) ∧
        (∀ rk, r.kind = .abandon → s.hostRec r = some rk → (s.recOf rk).st = .partialRet → does 0 (fun u => (u.recOf rk).st = .failed)))) ∧
    (r.kind = .pend →
      (r.ptag = 0 ∨ (s.pstate r.ptag ≠ 1 ∧ s.pstate r.ptag ≠ 2) → fails 2) ∧
      (r.ptag ≠ 0 → s.pstate r.ptag = 1 ∨ s.pstate r.ptag = 2 → does 0 (fun u => u.pstate r.ptag = 0 ∧
        (∀ t ∈ u.templates, t.2.ptag.toNat ≠ r.ptag) ∧ ∀ j ∈ u.joins, j.ptag.toNat ≠ r.ptag)))) ∧
  (s.cap = 0 → exec .powerCapLower s = .next s ∧ exec .powerCapRaise s = .next s) ∧
  (2 ≤ s.power.toNat ∨ s.powerStalled = true → exec .coldPlateLimit s = .next s ∧
    (s.cap ≠ 0 → exec .powerCapLower s = .next { s with capSince := s.cycle })) ∧
  (s.power.toNat < 2 → s.powerStalled = false → (∃ t, exec .coldPlateLimit s = .next t ∧ t.power = s.power + 1) ∧
    (s.cap ≠ 0 → ∃ t, exec .powerCapLower s = .next t ∧ t.power = s.power + 1 ∧ t.capSince = s.cycle)) ∧
  (s.cap ≠ 0 → s.powerReq.toNat < s.power.toNat → s.powerStalled = false →
    (s.cycle.toNat < s.capSince.toNat + 120000 → exec .powerCapRaise s = .next s) ∧
    (s.capSince.toNat + 120000 ≤ s.cycle.toNat → ∃ t, exec .powerCapRaise s = .next t ∧ t.power = s.power - 1))

/-- 17: R359-R363, R356: a header at an enabled port is taken up, held for a WRITING entry, unclaimed without a valid one, and waits for an absent
template or a full table, each for its time; one with a template and room makes an instance, whose seal follows; one more is kept behind it. A
token goes to its stream's channel while there is room, a discarded stream's nowhere, and the end token ends the stream. That a third header is
not taken, and that the channel is that of camp tile 0 of invocation 0, is the model's choice (log 64); that a port whose event is held takes up
no header is its reading (log 35). -/
def Obligations.IngressPorts : Prop := ∀ (s : State) (port : Nat) (h : BitVec 1024) (tok : Token),
  let x := s.ingressOf port
  let e := s.handler (hdrNum h)
  let taken (P : State → Prop) : Prop := ∃ t, exec (.ingressHeader port h) s = .next t ∧ P t
  let limit (i : Instr) (st : PortState) (n : Nat) : Prop :=
    (x.st ≠ st ∨ s.cycle.toNat < x.since.toNat + n → exec i s = .next s) ∧
    (x.st = st → x.since.toNat + n ≤ s.cycle.toNat → ∃ t, exec i s = .next t ∧ (t.ingressOf port).st = .idle ∧
      (t.ingressOf port).streams = x.streams ++ [none])
  (64 ≤ port ∨ x.enabled = false → exec (.ingressHeader port h) s = .next s ∧ exec (.ingressToken port tok) s = .next s) ∧
  (port < 64 → x.enabled = true → s.portStalled port = false →
    (x.st = .idle → x.waiting = none →
      (s.pstate x.owner = 2 → taken (fun t => (t.ingressOf port).streams = x.streams ++ [none] ∧ t.mem = s.mem)) ∧
      (s.pstate x.owner ≠ 2 → hdrNum h < 4096 →
        (hentState e.1 = 2 → taken (fun t => (t.ingressOf port).st = .held ∧ (t.ingressOf port).hdr = h ∧ (t.ingressOf port).since = s.cycle)) ∧
        (hentState e.1 = 0 ∨ hentState e.1 = 3 ∨ (hentState e.1 = 1 ∧ (hentPtag e.1 ≠ x.owner ∨ e.2.getLsbD port = false)) →
          taken (fun t => (t.ingressOf port).streams = x.streams ++ [none] ∧ (t.ingressOf port).st = .idle)) ∧
        (hentState e.1 = 1 → hentPtag e.1 = x.owner → e.2.getLsbD port = true → s.templateFor (hentPtag e.1) (hentTid e.1) = none →
          taken (fun t => (t.ingressOf port).st = .absent ∧ (t.ingressOf port).since = s.cycle)) ∧
        (∀ tm u inst rks v, hentState e.1 = 1 → hentPtag e.1 = x.owner → e.2.getLsbD port = true →
          s.templateFor (hentPtag e.1) (hentTid e.1) = some tm → s.instantiate (hentPtag e.1) (hentTid e.1) x.slot = (u, 0, inst, rks) →
          s.zeroSlots (portDie port) (hentPtag e.1) tm.nslots x.slot = some v →
          taken (fun t => (t.ingressOf port).st = .sealing inst (rks[hentProto e.1]?.map (fun rk => (rk, hentCh e.1))) ∧
            (t.ingressOf port).hdr = h ∧ (t.ingressOf port).streams = x.streams ∧ t.instCtr = u.instCtr ∧ t.insts = u.insts ∧
            ∀ rk, rks[hentProto e.1]? = some rk → hdrParams h ≠ 0 → (t.recOf rk).params = hdrParams h)))) ∧
    (s.pstate x.owner = 2 → taken (fun t => (t.ingressOf port).streams = x.streams ++ [none] ∧ t.mem = s.mem)) ∧
    (x.st ≠ .idle → x.waiting = none → s.pstate x.owner ≠ 2 → taken (fun t => (t.ingressOf port).waiting = some h ∧ (t.ingressOf port).st = x.st ∧ t.mem = s.mem)) ∧
    (x.waiting ≠ none → s.pstate x.owner ≠ 2 → exec (.ingressHeader port h) s = .next s) ∧
    (x.streams = [] → exec (.ingressToken port tok) s = .next s) ∧
    (∀ l, x.streams = none :: l → ∃ t, exec (.ingressToken port tok) s = .next t ∧ t.chans = s.chans ∧
      (t.ingressOf port).streams = if tok = .fin then l else none :: l) ∧
    (∀ rk ch c l, x.streams = some (rk, ch) :: l → Tbl.find s.chans (ingressKey rk 0 0 ch) = some c →
      (c.room 1 = false → exec (.ingressToken port tok) s = .next s) ∧
      (c.room 1 = true → ∃ t, exec (.ingressToken port tok) s = .next t ∧ (t.chan (ingressKey rk 0 0 ch)).tokens = c.tokens ++ [tok] ∧
        (t.ingressOf port).streams = if tok = .fin then l else x.streams))) ∧
  limit (.headerHoldTimeout port) .held 4096 ∧ limit (.templateAbsent port) .absent (2 ^ 20) ∧ limit (.ingressTinstTimeout port) .full (2 ^ 20)

/-! ## Reset (17: R354, R369-R371; 06: R171) -/

/-- 17: R354, R369; 19: R389; 20: R418: registers after reset, and a reset whose steps bring the module up: nothing of the module's state stays but
its flash, the bad and the excluded tiles are out of service, the incarnation grows by one, queue 0 is open, every service core starts Casquin, and
the journal grows by two records a step; when the ROM check or that of the Casquin image fails the module stays in recovery and no core starts. That the flash is
reached at a window, and that it stays, is the model's choice (log 34), as are the zeros that memory reads after reset (log 3) and the empty agenda,
and the length of a boot step is free (log 4): the journal says at which `CYCLE` each began, the first at 0. -/
def Obligations.ModuleReset : Prop := ∀ (s : State) (b : BootResult),
  (State.reset.cycle = 0 ∧ State.reset.cesTh = 4096 ∧ State.reset.lnkspth = 0x0000005000000040 ∧ State.reset.instCtr = 1 ∧
    (∀ k, State.reset.byte k = 0) ∧ Memory.wf State.reset.mem = true ∧
    (∀ p, p ≠ 0 → State.reset.pstate p = 0 ∧ (State.reset.pitch p).pbarto = 65536 ∧ (State.reset.pitch p).ptrsto = 0x100000) ∧
    State.reset.pstate 0 = 1 ∧ (∀ n, (State.reset.coreRegs n).evqsize = 6) ∧
    (∀ k, (State.reset.link k).st = 0) ∧ ∀ rk, (State.reset.recOf rk).st = .free) ∧
  (b.romOk = true → b.imageOk = true → 1 ∉ b.failed → 3 ∉ b.failed → 11 ∉ b.failed → s.altAt 11 = false → ∃ t, exec (.moduleReset b) s = .next t ∧
    (t.journal.head?).map (·.cycle) = some t.cycle ∧ (t.journal[21]?).map (·.cycle) = some 0 ∧ t.mem = flashCells s.mem ∧ t.agenda = [] ∧ t.recs = [] ∧ t.pitches = State.reset.pitches ∧ t.templates = [] ∧ t.groups = [] ∧ t.copies = [] ∧
    t.pkg = b.pkg ∧ t.incarnation = s.incarnation + 1 ∧ t.recovery = false ∧ (∀ x, x ∈ t.badTiles ↔ x ∈ b.badTiles ∨ x ∈ s.outAt 10) ∧
    (∀ x, (t.tile x).insvc = true ↔ x ∉ t.badTiles) ∧
    (t.queue 0).opened = true ∧ (t.queue 0).req = b.q0req ∧ (t.queue 0).count = b.q0count ∧
    (∀ n, n < 16 → t.strand (4096 + n) = coreStart n) ∧ (∀ k, k < 4096 → (t.strand k).scstate = 0) ∧
    (s.altAt 2 = false → t.journal.length = min 8192 (s.journal.length + 22)) ∧ (s.altAt 2 = true → t.journal.length = 22)) ∧
  (b.romOk = false ∨ b.imageOk = false ∨ 1 ∈ b.failed ∨ 3 ∈ b.failed → ∃ t, exec (.moduleReset b) s = .next t ∧ t.recovery = true ∧ t.strands = [] ∧
    t.incarnation = s.incarnation ∧ t.mem = flashCells s.mem)

/-! ## Damage, debug (20: R401-R407, R418, R420-R425) -/

/-- 20: R403-R406, R418: each entry that an uncorrectable error strikes: what is refetched, dropped, poisoned or ended; ending a pitch that is ACTIVE
makes it ENDING, stops its strands, fails its records and drops its copies and posts; a corrected error is counted, and beyond `CETH` within 2^30
cycles the tile closes. -/
def Obligations.Containment : Prop := ∀ (s : State) (p tile line die page sid gid c m k n : Nat) (res b : Bool) (f : Flit) (w : EndWhy),
  (s.pstate p = 1 → p ≠ 0 → let t := s.endPitch p w
    t.pstate p = 2 ∧ (∀ rk, (t.recOf rk).ptag.toNat = p → (t.recOf rk).st = .free ∨ (t.recOf rk).st = .failed) ∧
    (∀ x st, x < 4096 → Tbl.find t.strands x = some st → st.ptag.toNat ≠ p) ∧ (∀ x ∈ t.copies, x.2.ptag.toNat ≠ p) ∧
    ∀ x ∈ t.posts, x.2.ptag.toNat ≠ p) ∧
  (s.pstate p ≠ 1 ∨ p = 0 → s.endPitch p w = s) ∧
  exec (.uncorrectableError (.srbEntry tile line)) s = .next (s.dropSrbLine tile line) ∧
  (∃ t, exec (.uncorrectableError (.translation die page)) s = .next t ∧ t.mem = s.mem ∧
    ∀ e, e ∈ t.tlb ↔ e ∈ s.tlb ∧ ¬(e.die = die ∧ e.page = page)) ∧
  exec (.uncorrectableError (.cleanLine line)) s = .next s ∧ exec (.uncorrectableError .tableEntry) s = .next s ∧
  exec (.uncorrectableError (.replayRecv k n)) s = .next s ∧
  (Tbl.find s.lineKey line = none → ∃ t, exec (.uncorrectableError (.dirtyLine line)) s = .next t ∧ line ∈ t.poison ∧ t.mem = s.mem) ∧
  (∀ key, Tbl.find s.lineKey line = some key → exec (.uncorrectableError (.dirtyLine line)) s =
    .next ({ s with poison := insertNat line s.poison }.endOwner key.toNat ⟨0x41, homeTile (line * 128), 0, line * 128⟩ [])) ∧
  ((∀ f ∈ (s.link k).unacked, f.seqNo ≠ n ∨ f.back ≠ b) → exec (.uncorrectableError (.replaySend k n b)) s = .next s) ∧
  ((s.link k).unacked = [f] → f.seqNo = n → f.back = b → f.msg.ptag ≠ 0 → s.pstate f.msg.ptag.toNat ≠ 3 →
    exec (.uncorrectableError (.replaySend k n b)) s = .next (s.endPitch f.msg.ptag.toNat ⟨0x41, 0xFFFF, 0, 0⟩)) ∧
  exec (.uncorrectableError (.record k)) s = .next (s.endOwner (s.recOf k).ptag.toNat ⟨0x41, 0xFFFF, 0, 0⟩ [(k, none)]) ∧
  exec (.uncorrectableError (.partialSum gid c)) s = .next (if s.trussRoot gid then s.chunkRedo gid c else s) ∧
  exec (.uncorrectableError (.coreState n)) s = .next (s.restartCore n) ∧
  (s.msgs[m]? = none → exec (.uncorrectableError (.message m)) s = .next s) ∧
  ((s.strand sid).live = false → exec (.uncorrectableError (.strandState sid res)) s = .next s) ∧
  ((s.strand sid).live = true → exec (.uncorrectableError (.strandState sid res)) s = .next (s.strandError sid (if res then 0x43 else 0x41))) ∧
  (sid < 4096 → s.rollbackWave sid = none → (s.strand sid).ptag ≠ 0 → s.pstate (s.strand sid).ptag.toNat = 1 → ∀ cause,
    s.strandError sid cause = s.endPitch (s.strand sid).ptag.toNat ⟨cause.toNat, sid % 4096, 0, 0⟩) ∧
  ((s.tile tile).ceWin.length < s.cesTh.toNat ∨ (s.tile tile).insvc = false → ∃ t, exec (.correctedError tile) s = .next t ∧
    (t.tile tile).cecnt = ctrAdd (s.tile tile).cecnt 1 ∧ (t.tile tile).rmode = (s.tile tile).rmode ∧ t.strands = s.strands) ∧
  (s.cesTh.toNat ≤ (s.tile tile).ceWin.length → (∀ x ∈ (s.tile tile).ceWin, s.cycle.toNat < x.toNat + 2 ^ 30) → (s.tile tile).insvc = true →
    (s.tile tile).going = false → s.strands = [] → ∃ t, exec (.correctedError tile) s = .next t ∧ (t.tile tile).rmode = 2 ∧ (t.tile tile).insvc = false)

/-- 20: R420-R425: a stop flags the source strands of the task's region; a resume lets what debugging parked run; a step runs the named sequencers
of a strand so parked, one that had blocked with them; a breakpoint parks the strand that would take its token; `SCDBGA` names an item and holds its status; a stall report is
written where `SWBUF` says. The model's readings in it: the walk takes one step and ends with reason 8 at a strand whose `SCSTATE` is 2 or more,
and `SWSTART` does nothing only while a stall event is held (log 48). -/
def Obligations.Debug : Prop := ∀ (s : State) (core sid bp c k : Nat) (mask : BitVec 2) (v : Word) (a : Agent),
  let t := s.strand sid
  (∃ u, exec (.stop core) s = .next u ∧ u.mem = s.mem ∧
    ∀ x ∈ s.dbgRegion, s.recvEnds x = [] → (u.strand x).stopFlag = true) ∧
  ((∀ x ∈ s.dbgRegion, (s.strand x).stopped = false) → exec (.resume core) s = .next s) ∧
  (s.dbgRegion = [sid] → t.stopped = true → exec (.resume core) s = .next (s.scResume sid)) ∧
  (4096 ≤ sid ∨ t.scstate ≠ 2 ∨ (t.stopped = false ∧ t.park ≠ .brk) ∨ mask = 0 → exec (.scstep sid mask) s = .next s) ∧
  (sid < 4096 → t.scstate = 2 → t.stopped = true ∨ t.park = .brk → mask.getLsbD 0 = true → t.core.a.exited = false →
    ∃ u, exec (.scstep sid mask) s = .next u ∧ (u.strand sid).scstate = 1 ∧ (u.strand sid).stepA = true ∧
      (u.strand sid).core = { t.core with a := t.core.a.stepOn true, e := t.core.e.stepOn (mask.getLsbD 1 && !t.core.e.exited) } ∧
      ((u.strand sid).stepE = true ↔ mask.getLsbD 1 = true ∧ t.core.e.exited = false)) ∧
  (4096 ≤ sid → exec (.scdbga sid v) s = .next s) ∧
  (sid < 4096 → ∃ u, exec (.scdbga sid v) s = .next u ∧ u.mem = s.mem ∧ (u.strand sid).core = t.core ∧
    (u.strand sid).scdbga.toNat % 2 ^ 62 = v.toNat % 2 ^ 62 ∧ (u.strand sid).scdbga.toNat / 2 ^ 62 = (s.dbgItem sid (setBits v 62 2 0)).1) ∧
  (t.scstate = 2 → k < 32 → s.dbgItem sid (BitVec.ofNat 64 k) = (0, t.core.a.gGet (BitVec.ofNat 5 k)) ∧
    s.dbgItem sid (BitVec.ofNat 64 (4096 + k)) = (0, t.core.e.gGet (BitVec.ofNat 5 k))) ∧
  (t.scstate ≠ 2 → k < 32 → (s.dbgItem sid (BitVec.ofNat 64 k)).1 = 2) ∧
  (a.sid < 4096 → 2 ≤ (s.strand a.sid).scstate.toNat → s.stallAt a = (8, 0, none)) ∧
  ((∃ c ∈ s.cores, ∃ e ∈ c.2.held, leAt e 0 2 = 0x14) → exec (.swstart core v) s = .next s) ∧
  ((∀ c ∈ s.cores, ∀ e ∈ c.2.held, leAt e 0 2 ≠ 0x14) → 2 ≤ (s.strand (v.toNat % 4096)).scstate.toNat → exec (.swstart core v) s = .next ((s.wrBytes s.swbuf.toNat
    (padTo 256 (bytesLE (1 + 256 * 8) 8 ++ s.hop ⟨v.toNat % 4096, v.getLsbD 12⟩ 8 0))).coreEvent core 0x14 0 [])) ∧
  (t.core.e.block[t.core.e.idx]? = none → exec (.breakpoint sid bp) s = .next s) ∧
  (∀ ins vd ch x e l n, t.core.e.block[t.core.e.idx]? = some ins → decode? ins.raw = some (.crecv vd ch) → ch.toNat = c →
    (s.chanOf sid c).view = .data x e :: l → s.bpHit sid c = some (bp, n) → (s.endOf sid c).dir = 2 → t.scstate = 1 →
    exec (.breakpoint sid bp) s = .next (s.bpFire ⟨sid, true⟩ c (bp, n)))

/-! ## Links (19: R389-R399; 21: R427) -/

/-- 19: R389, R394, R395, R397-R399; 21: R427: the states of a link and what moves it between them: light, training, locks, `GO`, drains, losses of
flits; key switches and their expiry; wavelength samples and swaps. Which numbers a fibre's two directions bear, and when a sample window ends, is
the model's choice (log 32), as is that a viaduct carries traffic from its lock on, that `ROTATE` is ignored but on an ACTIVE secured link, and that
the new key is the old one plus 1 (log 58); that any flit of the far end brings credit is its reading (log 72). -/
def Obligations.LinkStates : Prop := ∀ (s : State) (core k fibre wl seq onto : Nat) (pkg : BitVec 10) (inc key : BitVec 8) (rate : BitVec 2)
    (cerr v : BitVec 32) (eye : BitVec 16) (back ack nak : Bool) (f : Flit),
  let l := s.link k
  let sel := s.link s.selLink
  let only (i : Instr) (P : Link → Prop) : Prop := ∃ t, exec i s = .next t ∧ P (t.link k) ∧ (∀ j, j ≠ k → t.link j = s.link j) ∧ t.mem = s.mem
  let bare : Prop := (∀ x ∈ s.msgs, x.via = none ∨ x.via = some noWay) ∧ ∀ x ∈ s.packets, x.2.via = none ∨ x.2.via = some noWay
  let window : Prop := s.cycle ≠ 0 ∧ s.cycle.toNat % 2 ^ 24 = 0
  (12 ≤ k → exec (.lossOfLight k) s = .next s ∧ exec (.lightPresent k) s = .next s) ∧
  (k < 12 →
    (l.st = 1 ∨ l.st = 2 → s.chunks = [] → only (.lossOfLight k) (fun x => x.st = 7 ∧ x.light = false ∧ x.unacked = [] ∧ (l.st = 1 → x.epoch = s.rtepoch))) ∧
    (l.st = 3 → only (.lossOfLight k) (fun x => x.st = 4 ∧ x.light = false)) ∧
    (l.st = 4 ∨ (l.st = 0 ∧ l.enable = true) → only (.lightPresent k) (fun x => x.st = 5 ∧ x.light = true)) ∧
    (l.st = 1 ∨ (l.st = 0 ∧ l.enable = false) → only (.lightPresent k) (fun x => x.st = l.st ∧ x.light = true)) ∧
    (l.st = 5 → s.linkStalled k = false → rate = 1 ∨ rate = 2 → ∃ t, exec (.linkLocked k pkg inc rate) s = .next t ∧ (t.link k).st = 6 ∧ (t.link k).pkg = pkg ∧
      (t.link k).inc = inc ∧ (t.link k).rate = rate ∧ (t.link k).sec = l.secen) ∧
    (l.st = 1 → s.chunks = [] → (∃ f ∈ l.unacked, f.first.toNat + 16384 ≤ s.cycle.toNat) → only (.replayWindowExceeded k) (fun x => x.st = 7 ∧ x.unacked = [])) ∧
    ((∀ f ∈ l.unacked, s.cycle.toNat < f.first.toNat + 16384) → exec (.replayWindowExceeded k) s = .next s) ∧
    (l.unacked = [f] → f.seqNo = seq → f.back = back →
      (nak = false → s.cycle.toNat < f.last.toNat + 2048 → exec (.flitResend k ⟨seq, back, nak, onto⟩) s = .next s) ∧
      ((l.st = 1 ∨ l.st = 2) → nak = true ∨ f.last.toNat + 2048 ≤ s.cycle.toNat →
        only (.flitResend k ⟨seq, back, nak, onto⟩) (fun x => x.rplcnt = satInc32 l.rplcnt ∧ x.unacked = [{ f with last := s.cycle }]))) ∧
    ((l.st = 1 ∨ l.st = 2 ∨ l.st = 3) → l.sec = false → bare → seq = l.rxNext → l.early = [] → l.credit = true ∨ (s.podOut = [] ∧ s.heldPkts = []) →
      only (.flit k ⟨seq, back⟩ ⟨key, false⟩) (fun x => x.rxNext = l.rxNext + 1 ∧ x.early = [] ∧ x.unacked = l.unacked ∧ x.credit = true)) ∧
    ((l.st = 1 ∨ l.st = 2 ∨ l.st = 3) → l.sec = false → seq < l.rxNext → l.credit = true ∨ (s.podOut = [] ∧ s.heldPkts = []) →
      only (.flit k ⟨seq, back⟩ ⟨key, false⟩) (fun x => x.rxNext = l.rxNext ∧ x.early = l.early ∧ x.unacked = l.unacked)) ∧
    ((l.st = 1 ∨ l.st = 2 ∨ l.st = 3) → l.sec = true → l.prev = none → key ≠ l.rxKey → key ≠ l.rxKey + 1 →
      only (.flit k ⟨seq, back⟩ ⟨key, ack⟩) (fun x => x.rplcnt = satInc32 l.rplcnt ∧ x.rxNext = l.rxNext ∧ x.rxKey = l.rxKey)) ∧
    (¬window → exec (.sampleWindow k fibre wl cerr eye) s = .next s) ∧
    (l.st = 1 → 8 ≤ fibre → fibre < 16 → wl < 25 → window → s.weak cerr eye = false → ∃ t, exec (.sampleWindow k fibre wl cerr eye) s = .next t ∧
      (t.link k).swaps = l.swaps) ∧
    (l.st = 1 → 8 ≤ fibre → fibre < 16 → wl < 25 → window → s.weak cerr eye = true → (s.fibre k fibre).wlmap.getLsbD wl = true → l.swaps = [] →
      ∃ t x, exec (.sampleWindow k fibre wl cerr eye) s = .next t ∧ (t.link k).swaps = [x] ∧ x.fibre = fibre ∧ x.wl = wl ∧
        l.rxNext + 4096 ≤ x.seqNo ∧ x.mine = true ∧ x.acked = false) ∧
    (l.st = 1 → fibre < 8 → wl < 25 → ∃ t, exec (.wavelengthSwapRequest k fibre wl seq ⟨pkg, false⟩) s = .next t ∧
      (∃ w ∈ (t.link k).swaps, w.fibre = fibre ∧ w.wl = wl ∧ w.seqNo = seq ∧ w.acked = true) ∧ (t.link k).swaps.length = l.swaps.length + 1) ∧
    (l.st = 1 → fibre < 8 → wl < 25 → ∀ x, l.swaps = [x] → x.mine = true → x.fibre = fibre + 8 → x.wl = wl → x.seqNo = seq →
      only (.wavelengthSwapRequest k fibre wl seq ⟨pkg, true⟩) (fun y => y.swaps = [{ x with acked := true }]))) ∧
  (isViaduct k = true → l.st = 1 → bare → (∃ f ∈ l.unacked, f.seqNo = seq ∧ f.back = back) →
    ∃ t, exec (.flit k ⟨seq, back⟩ ⟨key, true⟩) s = .next t ∧ (∀ f ∈ (t.link k).unacked, f ∈ l.unacked ∧ ¬(f.seqNo = seq ∧ f.back = back)) ∧ t.mem = s.mem) ∧
  (isViaduct k = true → l.st = 1 → l.unacked = [f] → f.seqNo = seq → f.back = back →
    (nak = false → s.cycle.toNat < f.last.toNat + 256 → exec (.flitResend k ⟨seq, back, nak, onto⟩) s = .next s) ∧
    (nak = true ∨ f.last.toNat + 256 ≤ s.cycle.toNat → onto ∈ s.upLinks ((k - 32) / 6) → ∃ t, exec (.flitResend k ⟨seq, back, nak, onto⟩) s = .next t ∧
      { f with last := s.cycle } ∈ (t.link onto).unacked ∧ (t.link onto).rplcnt = satInc32 (s.link onto).rplcnt)) ∧
  (l.st ≠ 5 → exec (.linkLocked k pkg inc rate) s = .next s ∧ exec (.trainingFailed k) s = .next s) ∧
  (l.st = 5 → s.linkStalled k = false → only (.trainingFailed k) (fun x => if l.fails < 2 then x.st = 5 ∧ x.fails = l.fails + 1 else x.st = 7)) ∧
  (l.st = 5 → s.linkStalled k = false → isViaduct k = true → ∃ t, exec (.linkLocked k pkg inc rate) s = .next t ∧ (t.link k).st = 1) ∧
  (isLink k = false ∨ l.st = 0 ∨ l.st = 4 ∨ l.st = 5 ∨ l.st = 6 ∨ l.st = 7 → exec (.flit k ⟨seq, back⟩ ⟨key, ack⟩) s = .next s) ∧
  (l.swaps = [] → exec (.quietPoint k fibre) s = .next s) ∧
  (∀ x r, l.swaps = x :: r → x.acked = false → exec (.quietPoint k fibre) s = .next s) ∧
  (∀ x r, l.swaps = x :: r → x.fibre = fibre → x.acked = true → x.seqNo ≤ (if x.mine then l.rxNext else l.txNext) → fibre < 16 →
    only (.quietPoint k fibre) (fun y => y.swaps = r ∧ y.fibres.getD fibre .empty = (l.fibres.getD fibre .empty).swap x.wl)) ∧
  (l.prev = none → exec (.previousKeyExpiry k) s = .next s) ∧
  (∀ key till, l.prev = some (key, till) →
    (s.cycle.toNat < till.toNat → exec (.previousKeyExpiry k) s = .next s) ∧
    (till.toNat ≤ s.cycle.toNat → only (.previousKeyExpiry k) (fun x => x.prev = none ∧ x.rxKey = l.rxKey))) ∧
  (16 ≤ k ∨ (s.link (96 + k)).st ≠ 1 → exec (.ethernetPortDown k) s = .next s) ∧
  (k < 16 → (s.link (96 + k)).st = 1 → ∃ t, exec (.ethernetPortDown k) s = .next t ∧ (t.link (96 + k)).st = 7 ∧ t.mem = s.mem) ∧
  (isViaduct k = false ∨ l.st ≠ 1 ∨ (∀ f ∈ l.unacked, s.cycle.toNat < f.first.toNat + 4096) → exec (.viaductDown k) s = .next s) ∧
  (isViaduct k = true → l.st = 1 → (∃ f ∈ l.unacked, f.first.toNat + 4096 ≤ s.cycle.toNat) → ∃ t, exec (.viaductDown k) s = .next t ∧ (t.link k).st = 7) ∧
  (sel.st ≠ 7 → exec (.retrain core) s = .next s) ∧
  (sel.st = 7 → s.lit s.selLink = true → ∃ t, exec (.retrain core) s = .next t ∧ (t.link s.selLink).st = 5 ∧ t.mem = s.mem) ∧
  (isLink s.selLink = true → ∃ t, exec (.enable core) s = .next t ∧ (t.link s.selLink).enable = true ∧
    (t.link s.selLink).st = if sel.st = 0 ∧ s.lit s.selLink = true then 5 else sel.st) ∧
  (sel.st ≠ 1 ∨ sel.sec = false ∨ sel.prev ≠ none → exec (.rotate core) s = .next s) ∧
  (sel.st = 1 → sel.sec = true → sel.prev = none → sel.rotAt = none → ∃ t, exec (.rotate core) s = .next t ∧
    (t.link s.selLink).key = sel.key + 1 ∧ (t.link s.selLink).rotAt = some s.cycle ∧ t.mem = s.mem) ∧
  (sel.st ≠ 6 → exec (.go core) s = .next s) ∧
  (s.selLink < 12 → s.rtepoch = sel.epoch ∨ s.peerOk s.selLink = false → exec (.go core) s = .next s) ∧
  (sel.st = 6 → s.selLink < 12 → s.rtepoch ≠ sel.epoch → s.peerOk s.selLink = true → s.podOut = [] → ∃ t, exec (.go core) s = .next t ∧
    (t.link s.selLink).st = 1 ∧ t.announced = true) ∧
  ((v = s.rtepoch ∨ ∀ p, p < 12 → (s.link p).st ≠ 6) → ∃ t, exec (.rtepochWrite v) s = .next t ∧ t.rtepoch = v ∧ t.links = s.links)

/-! ## Translation (18: R374-R377) -/

/-- 18: R374-R377: without a root the walk misses; four valid levels give the leaf's page; a translation answers only where the leaf admits the
access, its key slot is usable and its page is outside the strand control window, and keeps the offset in the page; a structure that holds no
entry of a page answers as the tables do. That the mapping of the route and the destination table for pitch 0 stands beside its tables, and before
them, is the model's choice (log 73). -/
def Obligations.Translation : Prop := ∀ (s : State) (die p va pa : Nat) (nd : Need) (e : Word) (k : Nat),
  let root := (s.pitch p).proot.toNat
  let own := ownPage p va
  let word (t l : Nat) : Word := BitVec.ofNat 64 (s.rd (t + 8 * (va / 2 ^ (46 - 10 * (l - 1)) % 1024)) 8)
  let addr (w : Word) : Nat := w.toNat / 2 ^ 13 % 2 ^ 39 * 8192
  let node (w : Word) : Prop := w.toNat % 16 = 1 ∧ w.toNat / 256 % 32 = 0 ∧ w.toNat / 16 % 4 ≠ 3
  let leaf (w : Word) : Prop := w.toNat % 2 = 1 ∧ w.toNat / 2 % 8 ≠ 0 ∧ w.toNat / 256 % 32 = 0 ∧ w.toNat / 16 % 4 ≠ 3
  (root = 0 → own = none → s.leafNow p va = .error cXlateMiss) ∧
  (∀ x, own = some x → s.leafNow p va = .ok x) ∧
  (p ≠ 0 → own = none) ∧
  ((∀ t ∈ s.tlb, ¬(t.die = die ∧ t.ptag.toNat = p ∧ t.page = va / 65536)) → s.leaf die p va = s.leafNow p va) ∧
  (root ≠ 0 → own = none → (word root 1).getLsbD 0 = false → s.leafNow p va = .error cXlateMiss) ∧
  (root ≠ 0 → own = none →
    let w1 := word root 1
    let w2 := word (addr w1) 2
    let w3 := word (addr w2) 3
    let w4 := word (addr w3) 4
    node w1 → node w2 → node w3 →
      (w4.getLsbD 0 = false → s.leafNow p va = .error cXlateMiss) ∧
      (leaf w4 → addr w4 % 65536 = 0 → ∃ x, s.leafNow p va = .ok (x, addr w4, 65536) ∧ addr x = addr w4 ∧ x.toNat % 8192 = w4.toNat % 8192 ∧
        x.toNat / 2 ^ 52 = w4.toNat / 2 ^ 52) ∧
      (leaf w4 → addr w4 % 65536 ≠ 0 → s.leafNow p va = .error cXlatePerm)) ∧
  (s.translate die p va nd = .ok (pa, e) → s.tlb = [] → pa % 65536 = va % 65536 ∧ e.getLsbD 0 = true ∧ (nd.r = true → e.getLsbD 1 = true) ∧
    (nd.w = true → e.getLsbD 2 = true) ∧ (nd.x = true → e.getLsbD 3 = true) ∧ (e.getLsbD 2 = true → e.getLsbD 1 = true) ∧
    s.keyUsable p (e.toNat / 2 ^ 52) = true ∧ ¬(scwBase ≤ pa ∧ pa < scwEnd)) ∧
  (s.keyUsable p k = true ↔ k = p ∨ p = 0 ∨ (s.pstate k = 3 ∧ p ∈ s.setMembers k))

/-! ## Blocks, turns, cycles, steps (02: R54; 07: R183-R192; 00: R3) -/

/-- 07: R177-R179, R183, R186, R191: the entry to a block: a sequencer inside one is left as it is; a line outside global space faults before any
fetch; the first check that fails, in its order, takes its trap at the line or the head with nothing of the block executed, and lines that
pass, one to eight of them, leave the block as their heads give it. -/
def Obligations.BlockEntry : Prop := ∀ (s u : State) (b : List Byte) (c : Cause) (arg : Word) (l : List Ins) (x : Bool) (i : Nat) (r : Raw)
    (core e xfer : Bool) (tile count n : Nat) (bs : Nat → List Byte) (us : Nat → State) (ls : Nat → List Ins) (xs : Nat → Bool),
  let pc := s.seq.pc
  let raws := lineRaws b 0 0 (lineNh b)
  (s.seq.fetched = true → exec .blockEntry s = .next s) ∧
  (s.seq.fetched = false → spaceOf pc ≠ 0 →
    exec .blockEntry s = .next (if s.seq.back then s.trap cBounds pc else s.w0Fault cBounds pc akFetch)) ∧
  (s.seq.fetched = false → spaceOf pc = 0 →
    (s.fetchLine pc = .fault c arg → exec .blockEntry s = .next (if s.seq.back then s.trap c arg else s.w0Fault c arg akFetch)) ∧
    (s.fetchLine pc = .ok b u → u.cur = s.cur →
      let trap (c : Cause) (arg : Word) : State :=
        (u.updSeq (fun q => { q with pending := none, idx := 0, wait := none, woken := false })).takeTrapAt c arg 0
      (lineCheck b s.cur.e true false = some c → exec .blockEntry s = .next (trap c (pc + 0x3F))) ∧
      (lineCheck b s.cur.e true false = none →
        (lineIns (isCore s.cur) s.cur.e (sidTile s.sid) pc 0 [] false raws = .error (c, i) →
          exec .blockEntry s = .next (trap c (pc + BitVec.ofNat 64 i))) ∧
        (lineIns (isCore s.cur) s.cur.e (sidTile s.sid) pc 0 [] false raws = .ok (l, x) → lineLast b = true →
          exec .blockEntry s = .next (u.updSeq (fun q => q.entered l (pc + 64))) ∧ l.map (·.raw) = raws ∧
          ∀ r ∈ raws, ∃ i, decode? r = some i ∧ formHere (isCore s.cur) s.cur.e i = true)))) ∧
  (s.seq.fetched = false → 1 ≤ n → n ≤ 8 → us 0 = s → ls 0 = [] → xs 0 = false →
    (∀ j, j < n → let at_ := pc + BitVec.ofNat 64 (64 * j)
      spaceOf at_ = 0 ∧ (us j).cur = s.cur ∧ (us j).fetchLine at_ = .ok (bs j) (us (j + 1)) ∧ lineCheck (bs j) s.cur.e (j == 0) (j == 7) = none ∧
        lineIns (isCore s.cur) s.cur.e (sidTile s.sid) at_ 0 (ls j) (xs j) (lineRaws (bs j) 0 0 (lineNh (bs j))) = .ok (ls (j + 1), xs (j + 1)) ∧
        (lineLast (bs j) = true ↔ j + 1 = n)) →
    exec .blockEntry s = .next ((us n).updSeq (fun q => q.entered (ls n) (pc + BitVec.ofNat 64 (64 * n)))) ∧
      (ls n).map (·.raw) = (List.range n).flatMap (fun j => lineRaws (bs j) 0 0 (lineNh (bs j)))) ∧
  (2 ≤ lineKind b → lineCheck b e x xfer = some 0x06) ∧
  (lineKind b < 2 → lineLast b = false → lineCheck b e x true = some 0x01) ∧
  (lineKind b < 2 → lineOk b = false → lineCheck b e x xfer = some 0x01) ∧
  (lineKind b = 1 → lineOk b = true → lineSeq b = !e → lineCheck b e true false = some 0x04) ∧
  (opcAssigned r.opc = false → headCheck core e tile count xfer r = some 0x02) ∧
  (opcAssigned r.opc = true → opcCore r.opc = true → headCheck false e tile count xfer r = some 0x07) ∧
  (opcAssigned r.opc = true → opcCore r.opc = false → seqColumn core e r.opc = false → headCheck core e tile count xfer r = some 0x04) ∧
  (opcAssigned r.opc = true → opcCore r.opc = false → seqColumn core e r.opc = true → unitColumn core tile r = false →
    headCheck core e tile count xfer r = some 0x05) ∧
  (opcAssigned r.opc = true → opcCore r.opc = false → seqColumn core e r.opc = true → unitColumn core tile r = true → decode? r = none →
    headCheck core e tile count xfer r = some 0x03)

/-- A step runs the decoded instruction (02: R54; 07: R183): the turn of a sequencer whose head decodes to an instruction executes it, on the
state with the tile's sequencer at its slot, any of its loads whose register the instruction names performed first; an event of the agenda executes as itself; an empty agenda ends the cycle, which advances `CYCLE` by
one (00: R3) and leaves memory as it is where no write of a service core and no header waits. The agenda is the model's own (log 1). -/
def Obligations.StepRuns : Prop := ∀ (s t : State) (a : Agent) (i : Instr) (ins : Ins) (l : List Move) (sid k n w : Nat) (o : Agent) (lt : Bool),
  (s.agenda = .issue a lt :: l →
    let u := s.nextMove (.issue a lt) l
    (u.mayIssue a = false → step s = .next u) ∧
    (u.mayIssue a = true → (u.begin a).stopDue a = false →
      ((u.begin a).seq.here = some ins → decode ins.raw = .ok i → step s = afterExec a (exec i ((u.begin a).regOrder a i))) ∧
      ((u.begin a).seq.instr = none →
        step s = afterExec a (exec .blockEntry ((u.begin a).updSeq (fun q => { q with fetched := false })))))) ∧
  (exec i s = .next t → afterExec a (exec i s) = .next (t.afterIssue a)) ∧
  ((t.strand a.sid).scstate ≠ 1 → (t.strand a.sid).stepA = false → (t.strand a.sid).stepE = false → t.afterIssue a = t) ∧
  (t.core.w.all (fun w => w.st != .faulted) = true → t.me.stepA = false → t.me.stepE = false → t.afterIssue t.cur = t) ∧
  (a.e = true ∨ (s.strand a.sid).loads = [] → s.regOrder a i = s) ∧
  (s.agenda = .event i lt :: l → isEvent i = true → step s = exec i (s.nextMove (.event i lt) l)) ∧
  (s.agenda = .event i lt :: l → isEvent i = false → step s = .next (s.nextMove (.event i lt) l)) ∧
  (s.agenda = .perform sid k :: l → step s = .next ((s.nextMove (.perform sid k) l).performAt sid k)) ∧
  (s.agenda = .load sid k :: l → step s = .next ((s.nextMove (.load sid k) l).performLoadAt sid k)) ∧
  (s.agenda = .settle k :: l → step s = .next ((s.nextMove (.settle k) l).settleAt k)) ∧
  (s.agenda = [] → step s = exec .tick s) ∧
  (∃ t, exec .tick s = .next t ∧ t.cycle = s.cycle + 1 ∧ t.freeCtr = s.freeCtr + 1 ∧
    (∃ l1 l2 : List Due, t.agenda = l1.map Move.due ++ nextMoves s.freeCtr ++ l2.map Move.due) ∧
    ((∀ c, (s.coreRegs c).regq = []) → s.ingress = [] → (∀ c ∈ s.cores, c.2.relayed = none) →
      t.mem = s.mem ∧ t.outbox = [] ∧ t.recs = s.recs)) ∧
  (decodeTableWord n w = some i → placeOf (rawOfTableWord n w) = o → isCore o = false →
    step (s.withFetchWord n w) = afterExec o (exec i ((((s.withFetchWord n w).nextMove (.issue o false) s.agenda).begin o).regOrder o i)))

/-- Every step keeps memory in its one form (00: R7): no key twice, keys rising, no entry of the byte that an unlisted key reads as. It holds at
`State.reset` (`ModuleReset`). -/
def Obligations.MemoryFormKept : Prop := ∀ (s t : State), Memory.wf s.mem = true → step s = .next t → Memory.wf t.mem = true

/-! ## Encodings (07: R178-R182; 09-13) -/

/-- 07: R178-R181: words of every family, written out from the encodings of their entries, decode to the instructions they stand for. -/
def Obligations.DecodeWords : Prop := decodeTableWord 48 0x028000000069 = some (.brz 9 3) ∧
  decodeTableWord 48 0x0280FFFFFFC9 = some (.brz 9 (-2)) ∧
  decodeTableWord 16 0x0B09 = some (.traps 9) ∧
  decodeTableWord 48 0x078600000000 = some (.loopb 6 0) ∧
  decodeTableWord 32 0x104500C5 = some (.add 5 5 6) ∧
  decodeTableWord 48 0x33850000C8C6 = some (.cmpi 5 6 6 100) ∧
  decodeTableWord 32 0x49452586 = some (.fcvt 5 6 12 9 0) ∧
  decodeTableWord 48 0x55900000011F = some (.ld 16 31 8) ∧
  decodeTableWord 48 0x55A59FFFFF86 = some (.ldSized 5 6 4 (-4)) ∧
  decodeTableWord 32 0x51421400 = some (.wgo 2 5) ∧
  decodeTableWord 80 0x60E500001000000780E6 = some (.aadd 5 1 6 7 3 3 16) ∧
  decodeTableWord 16 0x6E0E = some (.fence 2 3) ∧
  decodeTableWord 32 0x7B400003 = some (.barw 3) ∧
  decodeTableWord 32 0x81450001 = some (.crecv 5 1) ∧
  decodeTableWord 16 0x8300 = some (.cmark) ∧
  decodeTableWord 80 0x88C500000800000000C7 = some (.pld 5 6 7 0 8) ∧
  decodeTableWord 16 0x9001 = some (.tretSkip) ∧
  decodeTableWord 32 0x91400407 = some (.tdec 7 1) ∧
  decodeTableWord 48 0xA083003100A4 = some (.vadd 3 4 5 12 2 0) ∧
  decodeTableWord 80 0xC0C60000000000000007 = some (.vchain 6 0 7 0) ∧
  decodeTableWord 48 0xC18400300120 = some (.vrun 4 0 9 0) ∧
  decodeTableWord 80 0xD0C60000008000000127 = some (.mldb 6 0 7 9 128) ∧
  decodeTableWord 80 0xD1C500000802000C0124 = some (.mma 5 0 0 4 9 0 3 128 2) ∧
  decodeTableWord 80 0xE0C50000000000089CC4 = some (.skinit 5 4 6 7 1 0 1) ∧
  decodeTableWord 48 0xE18500300104 = some (.qsadd 5 4 8 0) ∧
  decodeTableWord 80 0xF0C800000000000898A4 = some (.trsput 8 17 4 5 6) ∧
  decodeTableWord 16 0xFA00 = some (.trapret) ∧
  decodeTableWord 16 0xFE00 = some (.idle)

/-- 07: R178-R182: every well-formed instruction that has an encoding is decoded from it, with every operand. -/
def Obligations.DecodeEncode : Prop := ∀ (i : Instr) (r : Raw), i.wf = true → encode i = some r → decode r = .ok i

/-- 07: R179-R182, R188, R190: every head that the decoder accepts is the encoding of a well-formed instruction, tail bits beyond the tail's
length apart: no bit of an accepted head or tail is without its meaning. -/
def Obligations.EncodeDecode : Prop := ∀ (r : Raw) (i : Instr), decode r = .ok i →
  i.wf = true ∧ ∃ q, encode i = some q ∧ q.head = r.head ∧ q.tail.toNat = r.tail.toNat % 2 ^ (8 * tailLen r.tl)
end

