-- ==== Sys2Proof/Laws/Memory.lean ====
section
/-! SUPPORT. Memory.lean: every memory operation keeps the one form of memory, and reset memory has it. -/

namespace Sys2Proof.Machine

theorem Memory.wfFrom_le {lo lo' : Nat} (h : lo' ≤ lo) : ∀ {m : Memory}, Memory.wfFrom lo m = true → Memory.wfFrom lo' m = true
  | [], _ => rfl
  | (k, b) :: r, hm => by
    simp only [Memory.wfFrom, Bool.and_eq_true, decide_eq_true_eq] at hm ⊢
    exact ⟨⟨Nat.le_trans h hm.1.1, hm.1.2⟩, hm.2⟩

theorem Memory.wfFrom_put {a : Nat} {x : Byte} : ∀ {lo : Nat} {m : Memory}, Memory.wfFrom lo m = true → lo ≤ a →
    Memory.wfFrom lo (Memory.put m a x) = true
  | lo, [], _, ha => by
    by_cases hx : x = 0#8 <;> simp [Memory.put, Memory.wfFrom, hx, ha]
  | lo, (k, c) :: r, hm, ha => by
    have hm' := hm
    simp only [Memory.wfFrom, Bool.and_eq_true, decide_eq_true_eq] at hm'
    obtain ⟨⟨hk, hc⟩, hr⟩ := hm'
    by_cases he : k = a
    · by_cases hx : x = 0#8
      · simp only [Memory.put, he, hx, if_true]
        exact Memory.wfFrom_le (by omega) hr
      · subst he; simp [Memory.put, hx, Memory.wfFrom, hk, hr]
    · by_cases hl : a < k
      · by_cases hx : x = 0#8
        · simpa [Memory.put, he, hl, hx] using hm
        · have hp : Memory.put ((k, c) :: r) a x = (a, x) :: (k, c) :: r := by simp [Memory.put, he, hl, hx]
          rw [hp]
          simp only [Memory.wfFrom, Bool.and_eq_true, decide_eq_true_eq]
          exact ⟨⟨ha, by simpa using hx⟩, ⟨by omega, hc⟩, hr⟩
      · simp only [Memory.put, he, hl, if_false, Memory.wfFrom, Bool.and_eq_true, decide_eq_true_eq]
        exact ⟨⟨hk, hc⟩, Memory.wfFrom_put hr (by omega)⟩

/-- One byte written keeps the form. -/
theorem Memory.wf_put {m : Memory} (a : Nat) (x : Byte) (h : Memory.wf m = true) : Memory.wf (Memory.put m a x) = true :=
  Memory.wfFrom_put h (Nat.zero_le a)

/-- A list of bytes written keeps the form. -/
theorem Memory.wf_putAll (c : List (Nat × Byte)) : ∀ {m : Memory}, Memory.wf m = true → Memory.wf (Memory.putAll m c) = true := by
  induction c with
  | nil => intro m h; exact h
  | cons p c ih => intro m h; exact ih (Memory.wf_put p.1 _ h)

theorem Memory.wfFrom_filter (f : Host.Cell → Bool) : ∀ {lo : Nat} {m : Memory}, Memory.wfFrom lo m = true →
    Memory.wfFrom lo (m.filter f) = true
  | _, [], _ => rfl
  | lo, (k, b) :: r, h => by
    simp only [Memory.wfFrom, Bool.and_eq_true, decide_eq_true_eq] at h
    by_cases hf : f (k, b) = true
    · simp only [List.filter_cons, hf, if_true, Memory.wfFrom, Bool.and_eq_true, decide_eq_true_eq]
      exact ⟨h.1, Memory.wfFrom_filter f h.2⟩
    · simp only [List.filter_cons, hf]
      exact Memory.wfFrom_le (by omega) (Memory.wfFrom_filter f h.2)

/-- A range that is cleared keeps the form. -/
theorem Memory.wf_clear {m : Memory} (k n : Nat) (h : Memory.wf m = true) : Memory.wf (Memory.clear m k n) = true :=
  Memory.wfFrom_filter _ h

theorem State.putCells_wf {s : State} (c : List (Nat × Byte)) (h : Memory.wf s.mem = true) : Memory.wf (s.putCells c).mem = true :=
  Memory.wf_putAll c h

theorem State.wrBytes_wf {s : State} (k : Nat) (b : List Byte) (h : Memory.wf s.mem = true) : Memory.wf (s.wrBytes k b).mem = true :=
  Memory.wf_putAll _ h

theorem State.wr_wf {s : State} (k n v : Nat) (h : Memory.wf s.mem = true) : Memory.wf (s.wr k n v).mem = true :=
  Memory.wf_putAll _ h

/-- Lines filled anew under another key slot keep the form. -/
theorem State.clears_wf (l : List (Nat × Nat)) : ∀ {m : Memory}, Memory.wf m = true →
    Memory.wf (l.foldl (fun m p => Memory.clear m p.1 p.2) m) = true := by
  induction l with
  | nil => intro m h; exact h
  | cons p l ih => intro m h; exact ih (Memory.wf_clear p.1 p.2 h)

theorem State.reset_mem_wf : Memory.wf State.reset.mem = true := rfl

end Sys2Proof.Machine
end

