-- ==== Sys2Proof/Laws/State.lean ====
section
/-! SUPPORT. State.lean: what each update of the state leaves in each field: one lemma per field per update. -/

namespace Sys2Proof.Machine

section
variable (s : State) (k : Nat) (x : Strand)
@[simp] theorem State.setStrand_agenda : (s.setStrand k x).agenda = s.agenda := rfl
@[simp] theorem State.setStrand_cur : (s.setStrand k x).cur = s.cur := rfl
@[simp] theorem State.setStrand_freeCtr : (s.setStrand k x).freeCtr = s.freeCtr := rfl
@[simp] theorem State.setStrand_late : (s.setStrand k x).late = s.late := rfl
@[simp] theorem State.setStrand_cycle : (s.setStrand k x).cycle = s.cycle := rfl
@[simp] theorem State.setStrand_edges : (s.setStrand k x).edges = s.edges := rfl
@[simp] theorem State.setStrand_edgeAcc : (s.setStrand k x).edgeAcc = s.edgeAcc := rfl
@[simp] theorem State.setStrand_edge : (s.setStrand k x).edge = s.edge := rfl
@[simp] theorem State.setStrand_power : (s.setStrand k x).power = s.power := rfl
@[simp] theorem State.setStrand_powerReq : (s.setStrand k x).powerReq = s.powerReq := rfl
@[simp] theorem State.setStrand_pkg : (s.setStrand k x).pkg = s.pkg := rfl
@[simp] theorem State.setStrand_incarnation : (s.setStrand k x).incarnation = s.incarnation := rfl
@[simp] theorem State.setStrand_mem : (s.setStrand k x).mem = s.mem := rfl
@[simp] theorem State.setStrand_olds : (s.setStrand k x).olds = s.olds := rfl
@[simp] theorem State.setStrand_lineKey : (s.setStrand k x).lineKey = s.lineKey := rfl
@[simp] theorem State.setStrand_lineRes : (s.setStrand k x).lineRes = s.lineRes := rfl
@[simp] theorem State.setStrand_poison : (s.setStrand k x).poison = s.poison := rfl
@[simp] theorem State.setStrand_pins : (s.setStrand k x).pins = s.pins := rfl
@[simp] theorem State.setStrand_tlb : (s.setStrand k x).tlb = s.tlb := rfl
@[simp] theorem State.setStrand_tiles : (s.setStrand k x).tiles = s.tiles := rfl
@[simp] theorem State.setStrand_chans : (s.setStrand k x).chans = s.chans := rfl
@[simp] theorem State.setStrand_copies : (s.setStrand k x).copies = s.copies := rfl
@[simp] theorem State.setStrand_nextId : (s.setStrand k x).nextId = s.nextId := rfl
@[simp] theorem State.setStrand_rows : (s.setStrand k x).rows = s.rows := rfl
@[simp] theorem State.setStrand_cols : (s.setStrand k x).cols = s.cols := rfl
@[simp] theorem State.setStrand_cbars : (s.setStrand k x).cbars = s.cbars := rfl
@[simp] theorem State.setStrand_arrivals : (s.setStrand k x).arrivals = s.arrivals := rfl
@[simp] theorem State.setStrand_instCtr : (s.setStrand k x).instCtr = s.instCtr := rfl
@[simp] theorem State.setStrand_templates : (s.setStrand k x).templates = s.templates := rfl
@[simp] theorem State.setStrand_insts : (s.setStrand k x).insts = s.insts := rfl
@[simp] theorem State.setStrand_recs : (s.setStrand k x).recs = s.recs := rfl
@[simp] theorem State.setStrand_msgs : (s.setStrand k x).msgs = s.msgs := rfl
@[simp] theorem State.setStrand_disp : (s.setStrand k x).disp = s.disp := rfl
@[simp] theorem State.setStrand_pitches : (s.setStrand k x).pitches = s.pitches := rfl
@[simp] theorem State.setStrand_cores : (s.setStrand k x).cores = s.cores := rfl
@[simp] theorem State.setStrand_dbgTref : (s.setStrand k x).dbgTref = s.dbgTref := rfl
@[simp] theorem State.setStrand_bps : (s.setStrand k x).bps = s.bps := rfl
@[simp] theorem State.setStrand_swbuf : (s.setStrand k x).swbuf = s.swbuf := rfl
@[simp] theorem State.setStrand_cesTh : (s.setStrand k x).cesTh = s.cesTh := rfl
@[simp] theorem State.setStrand_outbox : (s.setStrand k x).outbox = s.outbox := rfl
@[simp] theorem State.setStrand_heldPkts : (s.setStrand k x).heldPkts = s.heldPkts := rfl
@[simp] theorem State.setStrand_peers : (s.setStrand k x).peers = s.peers := rfl
@[simp] theorem State.setStrand_joins : (s.setStrand k x).joins = s.joins := rfl
@[simp] theorem State.setStrand_podOut : (s.setStrand k x).podOut = s.podOut := rfl
@[simp] theorem State.setStrand_links : (s.setStrand k x).links = s.links := rfl
@[simp] theorem State.setStrand_lnksel : (s.setStrand k x).lnksel = s.lnksel := rfl
@[simp] theorem State.setStrand_lnkspth : (s.setStrand k x).lnkspth = s.lnkspth := rfl
@[simp] theorem State.setStrand_announced : (s.setStrand k x).announced = s.announced := rfl
@[simp] theorem State.setStrand_posts : (s.setStrand k x).posts = s.posts := rfl
@[simp] theorem State.setStrand_congs : (s.setStrand k x).congs = s.congs := rfl
@[simp] theorem State.setStrand_cqs : (s.setStrand k x).cqs = s.cqs := rfl
@[simp] theorem State.setStrand_truss : (s.setStrand k x).truss = s.truss := rfl
@[simp] theorem State.setStrand_groups : (s.setStrand k x).groups = s.groups := rfl
@[simp] theorem State.setStrand_colls : (s.setStrand k x).colls = s.colls := rfl
@[simp] theorem State.setStrand_chunks : (s.setStrand k x).chunks = s.chunks := rfl
@[simp] theorem State.setStrand_packets : (s.setStrand k x).packets = s.packets := rfl
@[simp] theorem State.setStrand_trussBad : (s.setStrand k x).trussBad = s.trussBad := rfl
@[simp] theorem State.setStrand_trussDead : (s.setStrand k x).trussDead = s.trussDead := rfl
@[simp] theorem State.setStrand_queues : (s.setStrand k x).queues = s.queues := rfl
@[simp] theorem State.setStrand_ingress : (s.setStrand k x).ingress = s.ingress := rfl
@[simp] theorem State.setStrand_handlers : (s.setStrand k x).handlers = s.handlers := rfl
@[simp] theorem State.setStrand_badTiles : (s.setStrand k x).badTiles = s.badTiles := rfl
@[simp] theorem State.setStrand_badGrans : (s.setStrand k x).badGrans = s.badGrans := rfl
@[simp] theorem State.setStrand_badChans : (s.setStrand k x).badChans = s.badChans := rfl
@[simp] theorem State.setStrand_copyNo : (s.setStrand k x).copyNo = s.copyNo := rfl
@[simp] theorem State.setStrand_journal : (s.setStrand k x).journal = s.journal := rfl
@[simp] theorem State.setStrand_jcount : (s.setStrand k x).jcount = s.jcount := rfl
@[simp] theorem State.setStrand_recovery : (s.setStrand k x).recovery = s.recovery := rfl
@[simp] theorem State.setStrand_modChain : (s.setStrand k x).modChain = s.modChain := rfl
@[simp] theorem State.setStrand_cap : (s.setStrand k x).cap = s.cap := rfl
@[simp] theorem State.setStrand_capSince : (s.setStrand k x).capSince = s.capSince := rfl
end

section
variable (s : State) (k : Nat) (f : Strand → Strand)
@[simp] theorem State.updStrand_agenda : (s.updStrand k f).agenda = s.agenda := rfl
@[simp] theorem State.updStrand_cur : (s.updStrand k f).cur = s.cur := rfl
@[simp] theorem State.updStrand_freeCtr : (s.updStrand k f).freeCtr = s.freeCtr := rfl
@[simp] theorem State.updStrand_late : (s.updStrand k f).late = s.late := rfl
@[simp] theorem State.updStrand_cycle : (s.updStrand k f).cycle = s.cycle := rfl
@[simp] theorem State.updStrand_edges : (s.updStrand k f).edges = s.edges := rfl
@[simp] theorem State.updStrand_edgeAcc : (s.updStrand k f).edgeAcc = s.edgeAcc := rfl
@[simp] theorem State.updStrand_edge : (s.updStrand k f).edge = s.edge := rfl
@[simp] theorem State.updStrand_power : (s.updStrand k f).power = s.power := rfl
@[simp] theorem State.updStrand_powerReq : (s.updStrand k f).powerReq = s.powerReq := rfl
@[simp] theorem State.updStrand_pkg : (s.updStrand k f).pkg = s.pkg := rfl
@[simp] theorem State.updStrand_incarnation : (s.updStrand k f).incarnation = s.incarnation := rfl
@[simp] theorem State.updStrand_mem : (s.updStrand k f).mem = s.mem := rfl
@[simp] theorem State.updStrand_olds : (s.updStrand k f).olds = s.olds := rfl
@[simp] theorem State.updStrand_lineKey : (s.updStrand k f).lineKey = s.lineKey := rfl
@[simp] theorem State.updStrand_lineRes : (s.updStrand k f).lineRes = s.lineRes := rfl
@[simp] theorem State.updStrand_poison : (s.updStrand k f).poison = s.poison := rfl
@[simp] theorem State.updStrand_pins : (s.updStrand k f).pins = s.pins := rfl
@[simp] theorem State.updStrand_tlb : (s.updStrand k f).tlb = s.tlb := rfl
@[simp] theorem State.updStrand_tiles : (s.updStrand k f).tiles = s.tiles := rfl
@[simp] theorem State.updStrand_chans : (s.updStrand k f).chans = s.chans := rfl
@[simp] theorem State.updStrand_copies : (s.updStrand k f).copies = s.copies := rfl
@[simp] theorem State.updStrand_nextId : (s.updStrand k f).nextId = s.nextId := rfl
@[simp] theorem State.updStrand_rows : (s.updStrand k f).rows = s.rows := rfl
@[simp] theorem State.updStrand_cols : (s.updStrand k f).cols = s.cols := rfl
@[simp] theorem State.updStrand_cbars : (s.updStrand k f).cbars = s.cbars := rfl
@[simp] theorem State.updStrand_arrivals : (s.updStrand k f).arrivals = s.arrivals := rfl
@[simp] theorem State.updStrand_instCtr : (s.updStrand k f).instCtr = s.instCtr := rfl
@[simp] theorem State.updStrand_templates : (s.updStrand k f).templates = s.templates := rfl
@[simp] theorem State.updStrand_insts : (s.updStrand k f).insts = s.insts := rfl
@[simp] theorem State.updStrand_recs : (s.updStrand k f).recs = s.recs := rfl
@[simp] theorem State.updStrand_msgs : (s.updStrand k f).msgs = s.msgs := rfl
@[simp] theorem State.updStrand_disp : (s.updStrand k f).disp = s.disp := rfl
@[simp] theorem State.updStrand_pitches : (s.updStrand k f).pitches = s.pitches := rfl
@[simp] theorem State.updStrand_cores : (s.updStrand k f).cores = s.cores := rfl
@[simp] theorem State.updStrand_dbgTref : (s.updStrand k f).dbgTref = s.dbgTref := rfl
@[simp] theorem State.updStrand_bps : (s.updStrand k f).bps = s.bps := rfl
@[simp] theorem State.updStrand_swbuf : (s.updStrand k f).swbuf = s.swbuf := rfl
@[simp] theorem State.updStrand_cesTh : (s.updStrand k f).cesTh = s.cesTh := rfl
@[simp] theorem State.updStrand_outbox : (s.updStrand k f).outbox = s.outbox := rfl
@[simp] theorem State.updStrand_heldPkts : (s.updStrand k f).heldPkts = s.heldPkts := rfl
@[simp] theorem State.updStrand_peers : (s.updStrand k f).peers = s.peers := rfl
@[simp] theorem State.updStrand_joins : (s.updStrand k f).joins = s.joins := rfl
@[simp] theorem State.updStrand_podOut : (s.updStrand k f).podOut = s.podOut := rfl
@[simp] theorem State.updStrand_links : (s.updStrand k f).links = s.links := rfl
@[simp] theorem State.updStrand_lnksel : (s.updStrand k f).lnksel = s.lnksel := rfl
@[simp] theorem State.updStrand_lnkspth : (s.updStrand k f).lnkspth = s.lnkspth := rfl
@[simp] theorem State.updStrand_announced : (s.updStrand k f).announced = s.announced := rfl
@[simp] theorem State.updStrand_posts : (s.updStrand k f).posts = s.posts := rfl
@[simp] theorem State.updStrand_congs : (s.updStrand k f).congs = s.congs := rfl
@[simp] theorem State.updStrand_cqs : (s.updStrand k f).cqs = s.cqs := rfl
@[simp] theorem State.updStrand_truss : (s.updStrand k f).truss = s.truss := rfl
@[simp] theorem State.updStrand_groups : (s.updStrand k f).groups = s.groups := rfl
@[simp] theorem State.updStrand_colls : (s.updStrand k f).colls = s.colls := rfl
@[simp] theorem State.updStrand_chunks : (s.updStrand k f).chunks = s.chunks := rfl
@[simp] theorem State.updStrand_packets : (s.updStrand k f).packets = s.packets := rfl
@[simp] theorem State.updStrand_trussBad : (s.updStrand k f).trussBad = s.trussBad := rfl
@[simp] theorem State.updStrand_trussDead : (s.updStrand k f).trussDead = s.trussDead := rfl
@[simp] theorem State.updStrand_queues : (s.updStrand k f).queues = s.queues := rfl
@[simp] theorem State.updStrand_ingress : (s.updStrand k f).ingress = s.ingress := rfl
@[simp] theorem State.updStrand_handlers : (s.updStrand k f).handlers = s.handlers := rfl
@[simp] theorem State.updStrand_badTiles : (s.updStrand k f).badTiles = s.badTiles := rfl
@[simp] theorem State.updStrand_badGrans : (s.updStrand k f).badGrans = s.badGrans := rfl
@[simp] theorem State.updStrand_badChans : (s.updStrand k f).badChans = s.badChans := rfl
@[simp] theorem State.updStrand_copyNo : (s.updStrand k f).copyNo = s.copyNo := rfl
@[simp] theorem State.updStrand_journal : (s.updStrand k f).journal = s.journal := rfl
@[simp] theorem State.updStrand_jcount : (s.updStrand k f).jcount = s.jcount := rfl
@[simp] theorem State.updStrand_recovery : (s.updStrand k f).recovery = s.recovery := rfl
@[simp] theorem State.updStrand_modChain : (s.updStrand k f).modChain = s.modChain := rfl
@[simp] theorem State.updStrand_cap : (s.updStrand k f).cap = s.cap := rfl
@[simp] theorem State.updStrand_capSince : (s.updStrand k f).capSince = s.capSince := rfl
end

section
variable (s : State) (f : Strand → Strand)
@[simp] theorem State.updMe_agenda : (s.updMe f).agenda = s.agenda := rfl
@[simp] theorem State.updMe_cur : (s.updMe f).cur = s.cur := rfl
@[simp] theorem State.updMe_freeCtr : (s.updMe f).freeCtr = s.freeCtr := rfl
@[simp] theorem State.updMe_late : (s.updMe f).late = s.late := rfl
@[simp] theorem State.updMe_cycle : (s.updMe f).cycle = s.cycle := rfl
@[simp] theorem State.updMe_edges : (s.updMe f).edges = s.edges := rfl
@[simp] theorem State.updMe_edgeAcc : (s.updMe f).edgeAcc = s.edgeAcc := rfl
@[simp] theorem State.updMe_edge : (s.updMe f).edge = s.edge := rfl
@[simp] theorem State.updMe_power : (s.updMe f).power = s.power := rfl
@[simp] theorem State.updMe_powerReq : (s.updMe f).powerReq = s.powerReq := rfl
@[simp] theorem State.updMe_pkg : (s.updMe f).pkg = s.pkg := rfl
@[simp] theorem State.updMe_incarnation : (s.updMe f).incarnation = s.incarnation := rfl
@[simp] theorem State.updMe_mem : (s.updMe f).mem = s.mem := rfl
@[simp] theorem State.updMe_olds : (s.updMe f).olds = s.olds := rfl
@[simp] theorem State.updMe_lineKey : (s.updMe f).lineKey = s.lineKey := rfl
@[simp] theorem State.updMe_lineRes : (s.updMe f).lineRes = s.lineRes := rfl
@[simp] theorem State.updMe_poison : (s.updMe f).poison = s.poison := rfl
@[simp] theorem State.updMe_pins : (s.updMe f).pins = s.pins := rfl
@[simp] theorem State.updMe_tlb : (s.updMe f).tlb = s.tlb := rfl
@[simp] theorem State.updMe_tiles : (s.updMe f).tiles = s.tiles := rfl
@[simp] theorem State.updMe_chans : (s.updMe f).chans = s.chans := rfl
@[simp] theorem State.updMe_copies : (s.updMe f).copies = s.copies := rfl
@[simp] theorem State.updMe_nextId : (s.updMe f).nextId = s.nextId := rfl
@[simp] theorem State.updMe_rows : (s.updMe f).rows = s.rows := rfl
@[simp] theorem State.updMe_cols : (s.updMe f).cols = s.cols := rfl
@[simp] theorem State.updMe_cbars : (s.updMe f).cbars = s.cbars := rfl
@[simp] theorem State.updMe_arrivals : (s.updMe f).arrivals = s.arrivals := rfl
@[simp] theorem State.updMe_instCtr : (s.updMe f).instCtr = s.instCtr := rfl
@[simp] theorem State.updMe_templates : (s.updMe f).templates = s.templates := rfl
@[simp] theorem State.updMe_insts : (s.updMe f).insts = s.insts := rfl
@[simp] theorem State.updMe_recs : (s.updMe f).recs = s.recs := rfl
@[simp] theorem State.updMe_msgs : (s.updMe f).msgs = s.msgs := rfl
@[simp] theorem State.updMe_disp : (s.updMe f).disp = s.disp := rfl
@[simp] theorem State.updMe_pitches : (s.updMe f).pitches = s.pitches := rfl
@[simp] theorem State.updMe_cores : (s.updMe f).cores = s.cores := rfl
@[simp] theorem State.updMe_dbgTref : (s.updMe f).dbgTref = s.dbgTref := rfl
@[simp] theorem State.updMe_bps : (s.updMe f).bps = s.bps := rfl
@[simp] theorem State.updMe_swbuf : (s.updMe f).swbuf = s.swbuf := rfl
@[simp] theorem State.updMe_cesTh : (s.updMe f).cesTh = s.cesTh := rfl
@[simp] theorem State.updMe_outbox : (s.updMe f).outbox = s.outbox := rfl
@[simp] theorem State.updMe_heldPkts : (s.updMe f).heldPkts = s.heldPkts := rfl
@[simp] theorem State.updMe_peers : (s.updMe f).peers = s.peers := rfl
@[simp] theorem State.updMe_joins : (s.updMe f).joins = s.joins := rfl
@[simp] theorem State.updMe_podOut : (s.updMe f).podOut = s.podOut := rfl
@[simp] theorem State.updMe_links : (s.updMe f).links = s.links := rfl
@[simp] theorem State.updMe_lnksel : (s.updMe f).lnksel = s.lnksel := rfl
@[simp] theorem State.updMe_lnkspth : (s.updMe f).lnkspth = s.lnkspth := rfl
@[simp] theorem State.updMe_announced : (s.updMe f).announced = s.announced := rfl
@[simp] theorem State.updMe_posts : (s.updMe f).posts = s.posts := rfl
@[simp] theorem State.updMe_congs : (s.updMe f).congs = s.congs := rfl
@[simp] theorem State.updMe_cqs : (s.updMe f).cqs = s.cqs := rfl
@[simp] theorem State.updMe_truss : (s.updMe f).truss = s.truss := rfl
@[simp] theorem State.updMe_groups : (s.updMe f).groups = s.groups := rfl
@[simp] theorem State.updMe_colls : (s.updMe f).colls = s.colls := rfl
@[simp] theorem State.updMe_chunks : (s.updMe f).chunks = s.chunks := rfl
@[simp] theorem State.updMe_packets : (s.updMe f).packets = s.packets := rfl
@[simp] theorem State.updMe_trussBad : (s.updMe f).trussBad = s.trussBad := rfl
@[simp] theorem State.updMe_trussDead : (s.updMe f).trussDead = s.trussDead := rfl
@[simp] theorem State.updMe_queues : (s.updMe f).queues = s.queues := rfl
@[simp] theorem State.updMe_ingress : (s.updMe f).ingress = s.ingress := rfl
@[simp] theorem State.updMe_handlers : (s.updMe f).handlers = s.handlers := rfl
@[simp] theorem State.updMe_badTiles : (s.updMe f).badTiles = s.badTiles := rfl
@[simp] theorem State.updMe_badGrans : (s.updMe f).badGrans = s.badGrans := rfl
@[simp] theorem State.updMe_badChans : (s.updMe f).badChans = s.badChans := rfl
@[simp] theorem State.updMe_copyNo : (s.updMe f).copyNo = s.copyNo := rfl
@[simp] theorem State.updMe_journal : (s.updMe f).journal = s.journal := rfl
@[simp] theorem State.updMe_jcount : (s.updMe f).jcount = s.jcount := rfl
@[simp] theorem State.updMe_recovery : (s.updMe f).recovery = s.recovery := rfl
@[simp] theorem State.updMe_modChain : (s.updMe f).modChain = s.modChain := rfl
@[simp] theorem State.updMe_cap : (s.updMe f).cap = s.cap := rfl
@[simp] theorem State.updMe_capSince : (s.updMe f).capSince = s.capSince := rfl
end

section
variable (s : State) (f : StrandCore → StrandCore)
@[simp] theorem State.updCore_agenda : (s.updCore f).agenda = s.agenda := rfl
@[simp] theorem State.updCore_cur : (s.updCore f).cur = s.cur := rfl
@[simp] theorem State.updCore_freeCtr : (s.updCore f).freeCtr = s.freeCtr := rfl
@[simp] theorem State.updCore_late : (s.updCore f).late = s.late := rfl
@[simp] theorem State.updCore_cycle : (s.updCore f).cycle = s.cycle := rfl
@[simp] theorem State.updCore_edges : (s.updCore f).edges = s.edges := rfl
@[simp] theorem State.updCore_edgeAcc : (s.updCore f).edgeAcc = s.edgeAcc := rfl
@[simp] theorem State.updCore_edge : (s.updCore f).edge = s.edge := rfl
@[simp] theorem State.updCore_power : (s.updCore f).power = s.power := rfl
@[simp] theorem State.updCore_powerReq : (s.updCore f).powerReq = s.powerReq := rfl
@[simp] theorem State.updCore_pkg : (s.updCore f).pkg = s.pkg := rfl
@[simp] theorem State.updCore_incarnation : (s.updCore f).incarnation = s.incarnation := rfl
@[simp] theorem State.updCore_mem : (s.updCore f).mem = s.mem := rfl
@[simp] theorem State.updCore_olds : (s.updCore f).olds = s.olds := rfl
@[simp] theorem State.updCore_lineKey : (s.updCore f).lineKey = s.lineKey := rfl
@[simp] theorem State.updCore_lineRes : (s.updCore f).lineRes = s.lineRes := rfl
@[simp] theorem State.updCore_poison : (s.updCore f).poison = s.poison := rfl
@[simp] theorem State.updCore_pins : (s.updCore f).pins = s.pins := rfl
@[simp] theorem State.updCore_tlb : (s.updCore f).tlb = s.tlb := rfl
@[simp] theorem State.updCore_tiles : (s.updCore f).tiles = s.tiles := rfl
@[simp] theorem State.updCore_chans : (s.updCore f).chans = s.chans := rfl
@[simp] theorem State.updCore_copies : (s.updCore f).copies = s.copies := rfl
@[simp] theorem State.updCore_nextId : (s.updCore f).nextId = s.nextId := rfl
@[simp] theorem State.updCore_rows : (s.updCore f).rows = s.rows := rfl
@[simp] theorem State.updCore_cols : (s.updCore f).cols = s.cols := rfl
@[simp] theorem State.updCore_cbars : (s.updCore f).cbars = s.cbars := rfl
@[simp] theorem State.updCore_arrivals : (s.updCore f).arrivals = s.arrivals := rfl
@[simp] theorem State.updCore_instCtr : (s.updCore f).instCtr = s.instCtr := rfl
@[simp] theorem State.updCore_templates : (s.updCore f).templates = s.templates := rfl
@[simp] theorem State.updCore_insts : (s.updCore f).insts = s.insts := rfl
@[simp] theorem State.updCore_recs : (s.updCore f).recs = s.recs := rfl
@[simp] theorem State.updCore_msgs : (s.updCore f).msgs = s.msgs := rfl
@[simp] theorem State.updCore_disp : (s.updCore f).disp = s.disp := rfl
@[simp] theorem State.updCore_pitches : (s.updCore f).pitches = s.pitches := rfl
@[simp] theorem State.updCore_cores : (s.updCore f).cores = s.cores := rfl
@[simp] theorem State.updCore_dbgTref : (s.updCore f).dbgTref = s.dbgTref := rfl
@[simp] theorem State.updCore_bps : (s.updCore f).bps = s.bps := rfl
@[simp] theorem State.updCore_swbuf : (s.updCore f).swbuf = s.swbuf := rfl
@[simp] theorem State.updCore_cesTh : (s.updCore f).cesTh = s.cesTh := rfl
@[simp] theorem State.updCore_outbox : (s.updCore f).outbox = s.outbox := rfl
@[simp] theorem State.updCore_heldPkts : (s.updCore f).heldPkts = s.heldPkts := rfl
@[simp] theorem State.updCore_peers : (s.updCore f).peers = s.peers := rfl
@[simp] theorem State.updCore_joins : (s.updCore f).joins = s.joins := rfl
@[simp] theorem State.updCore_podOut : (s.updCore f).podOut = s.podOut := rfl
@[simp] theorem State.updCore_links : (s.updCore f).links = s.links := rfl
@[simp] theorem State.updCore_lnksel : (s.updCore f).lnksel = s.lnksel := rfl
@[simp] theorem State.updCore_lnkspth : (s.updCore f).lnkspth = s.lnkspth := rfl
@[simp] theorem State.updCore_announced : (s.updCore f).announced = s.announced := rfl
@[simp] theorem State.updCore_posts : (s.updCore f).posts = s.posts := rfl
@[simp] theorem State.updCore_congs : (s.updCore f).congs = s.congs := rfl
@[simp] theorem State.updCore_cqs : (s.updCore f).cqs = s.cqs := rfl
@[simp] theorem State.updCore_truss : (s.updCore f).truss = s.truss := rfl
@[simp] theorem State.updCore_groups : (s.updCore f).groups = s.groups := rfl
@[simp] theorem State.updCore_colls : (s.updCore f).colls = s.colls := rfl
@[simp] theorem State.updCore_chunks : (s.updCore f).chunks = s.chunks := rfl
@[simp] theorem State.updCore_packets : (s.updCore f).packets = s.packets := rfl
@[simp] theorem State.updCore_trussBad : (s.updCore f).trussBad = s.trussBad := rfl
@[simp] theorem State.updCore_trussDead : (s.updCore f).trussDead = s.trussDead := rfl
@[simp] theorem State.updCore_queues : (s.updCore f).queues = s.queues := rfl
@[simp] theorem State.updCore_ingress : (s.updCore f).ingress = s.ingress := rfl
@[simp] theorem State.updCore_handlers : (s.updCore f).handlers = s.handlers := rfl
@[simp] theorem State.updCore_badTiles : (s.updCore f).badTiles = s.badTiles := rfl
@[simp] theorem State.updCore_badGrans : (s.updCore f).badGrans = s.badGrans := rfl
@[simp] theorem State.updCore_badChans : (s.updCore f).badChans = s.badChans := rfl
@[simp] theorem State.updCore_copyNo : (s.updCore f).copyNo = s.copyNo := rfl
@[simp] theorem State.updCore_journal : (s.updCore f).journal = s.journal := rfl
@[simp] theorem State.updCore_jcount : (s.updCore f).jcount = s.jcount := rfl
@[simp] theorem State.updCore_recovery : (s.updCore f).recovery = s.recovery := rfl
@[simp] theorem State.updCore_modChain : (s.updCore f).modChain = s.modChain := rfl
@[simp] theorem State.updCore_cap : (s.updCore f).cap = s.cap := rfl
@[simp] theorem State.updCore_capSince : (s.updCore f).capSince = s.capSince := rfl
end

section
variable (s : State) (k : Nat) (f : StrandCore → StrandCore)
@[simp] theorem State.updCoreOf_agenda : (s.updCoreOf k f).agenda = s.agenda := rfl
@[simp] theorem State.updCoreOf_cur : (s.updCoreOf k f).cur = s.cur := rfl
@[simp] theorem State.updCoreOf_freeCtr : (s.updCoreOf k f).freeCtr = s.freeCtr := rfl
@[simp] theorem State.updCoreOf_late : (s.updCoreOf k f).late = s.late := rfl
@[simp] theorem State.updCoreOf_cycle : (s.updCoreOf k f).cycle = s.cycle := rfl
@[simp] theorem State.updCoreOf_edges : (s.updCoreOf k f).edges = s.edges := rfl
@[simp] theorem State.updCoreOf_edgeAcc : (s.updCoreOf k f).edgeAcc = s.edgeAcc := rfl
@[simp] theorem State.updCoreOf_edge : (s.updCoreOf k f).edge = s.edge := rfl
@[simp] theorem State.updCoreOf_power : (s.updCoreOf k f).power = s.power := rfl
@[simp] theorem State.updCoreOf_powerReq : (s.updCoreOf k f).powerReq = s.powerReq := rfl
@[simp] theorem State.updCoreOf_pkg : (s.updCoreOf k f).pkg = s.pkg := rfl
@[simp] theorem State.updCoreOf_incarnation : (s.updCoreOf k f).incarnation = s.incarnation := rfl
@[simp] theorem State.updCoreOf_mem : (s.updCoreOf k f).mem = s.mem := rfl
@[simp] theorem State.updCoreOf_olds : (s.updCoreOf k f).olds = s.olds := rfl
@[simp] theorem State.updCoreOf_lineKey : (s.updCoreOf k f).lineKey = s.lineKey := rfl
@[simp] theorem State.updCoreOf_lineRes : (s.updCoreOf k f).lineRes = s.lineRes := rfl
@[simp] theorem State.updCoreOf_poison : (s.updCoreOf k f).poison = s.poison := rfl
@[simp] theorem State.updCoreOf_pins : (s.updCoreOf k f).pins = s.pins := rfl
@[simp] theorem State.updCoreOf_tlb : (s.updCoreOf k f).tlb = s.tlb := rfl
@[simp] theorem State.updCoreOf_tiles : (s.updCoreOf k f).tiles = s.tiles := rfl
@[simp] theorem State.updCoreOf_chans : (s.updCoreOf k f).chans = s.chans := rfl
@[simp] theorem State.updCoreOf_copies : (s.updCoreOf k f).copies = s.copies := rfl
@[simp] theorem State.updCoreOf_nextId : (s.updCoreOf k f).nextId = s.nextId := rfl
@[simp] theorem State.updCoreOf_rows : (s.updCoreOf k f).rows = s.rows := rfl
@[simp] theorem State.updCoreOf_cols : (s.updCoreOf k f).cols = s.cols := rfl
@[simp] theorem State.updCoreOf_cbars : (s.updCoreOf k f).cbars = s.cbars := rfl
@[simp] theorem State.updCoreOf_arrivals : (s.updCoreOf k f).arrivals = s.arrivals := rfl
@[simp] theorem State.updCoreOf_instCtr : (s.updCoreOf k f).instCtr = s.instCtr := rfl
@[simp] theorem State.updCoreOf_templates : (s.updCoreOf k f).templates = s.templates := rfl
@[simp] theorem State.updCoreOf_insts : (s.updCoreOf k f).insts = s.insts := rfl
@[simp] theorem State.updCoreOf_recs : (s.updCoreOf k f).recs = s.recs := rfl
@[simp] theorem State.updCoreOf_msgs : (s.updCoreOf k f).msgs = s.msgs := rfl
@[simp] theorem State.updCoreOf_disp : (s.updCoreOf k f).disp = s.disp := rfl
@[simp] theorem State.updCoreOf_pitches : (s.updCoreOf k f).pitches = s.pitches := rfl
@[simp] theorem State.updCoreOf_cores : (s.updCoreOf k f).cores = s.cores := rfl
@[simp] theorem State.updCoreOf_dbgTref : (s.updCoreOf k f).dbgTref = s.dbgTref := rfl
@[simp] theorem State.updCoreOf_bps : (s.updCoreOf k f).bps = s.bps := rfl
@[simp] theorem State.updCoreOf_swbuf : (s.updCoreOf k f).swbuf = s.swbuf := rfl
@[simp] theorem State.updCoreOf_cesTh : (s.updCoreOf k f).cesTh = s.cesTh := rfl
@[simp] theorem State.updCoreOf_outbox : (s.updCoreOf k f).outbox = s.outbox := rfl
@[simp] theorem State.updCoreOf_heldPkts : (s.updCoreOf k f).heldPkts = s.heldPkts := rfl
@[simp] theorem State.updCoreOf_peers : (s.updCoreOf k f).peers = s.peers := rfl
@[simp] theorem State.updCoreOf_joins : (s.updCoreOf k f).joins = s.joins := rfl
@[simp] theorem State.updCoreOf_podOut : (s.updCoreOf k f).podOut = s.podOut := rfl
@[simp] theorem State.updCoreOf_links : (s.updCoreOf k f).links = s.links := rfl
@[simp] theorem State.updCoreOf_lnksel : (s.updCoreOf k f).lnksel = s.lnksel := rfl
@[simp] theorem State.updCoreOf_lnkspth : (s.updCoreOf k f).lnkspth = s.lnkspth := rfl
@[simp] theorem State.updCoreOf_announced : (s.updCoreOf k f).announced = s.announced := rfl
@[simp] theorem State.updCoreOf_posts : (s.updCoreOf k f).posts = s.posts := rfl
@[simp] theorem State.updCoreOf_congs : (s.updCoreOf k f).congs = s.congs := rfl
@[simp] theorem State.updCoreOf_cqs : (s.updCoreOf k f).cqs = s.cqs := rfl
@[simp] theorem State.updCoreOf_truss : (s.updCoreOf k f).truss = s.truss := rfl
@[simp] theorem State.updCoreOf_groups : (s.updCoreOf k f).groups = s.groups := rfl
@[simp] theorem State.updCoreOf_colls : (s.updCoreOf k f).colls = s.colls := rfl
@[simp] theorem State.updCoreOf_chunks : (s.updCoreOf k f).chunks = s.chunks := rfl
@[simp] theorem State.updCoreOf_packets : (s.updCoreOf k f).packets = s.packets := rfl
@[simp] theorem State.updCoreOf_trussBad : (s.updCoreOf k f).trussBad = s.trussBad := rfl
@[simp] theorem State.updCoreOf_trussDead : (s.updCoreOf k f).trussDead = s.trussDead := rfl
@[simp] theorem State.updCoreOf_queues : (s.updCoreOf k f).queues = s.queues := rfl
@[simp] theorem State.updCoreOf_ingress : (s.updCoreOf k f).ingress = s.ingress := rfl
@[simp] theorem State.updCoreOf_handlers : (s.updCoreOf k f).handlers = s.handlers := rfl
@[simp] theorem State.updCoreOf_badTiles : (s.updCoreOf k f).badTiles = s.badTiles := rfl
@[simp] theorem State.updCoreOf_badGrans : (s.updCoreOf k f).badGrans = s.badGrans := rfl
@[simp] theorem State.updCoreOf_badChans : (s.updCoreOf k f).badChans = s.badChans := rfl
@[simp] theorem State.updCoreOf_copyNo : (s.updCoreOf k f).copyNo = s.copyNo := rfl
@[simp] theorem State.updCoreOf_journal : (s.updCoreOf k f).journal = s.journal := rfl
@[simp] theorem State.updCoreOf_jcount : (s.updCoreOf k f).jcount = s.jcount := rfl
@[simp] theorem State.updCoreOf_recovery : (s.updCoreOf k f).recovery = s.recovery := rfl
@[simp] theorem State.updCoreOf_modChain : (s.updCoreOf k f).modChain = s.modChain := rfl
@[simp] theorem State.updCoreOf_cap : (s.updCoreOf k f).cap = s.cap := rfl
@[simp] theorem State.updCoreOf_capSince : (s.updCoreOf k f).capSince = s.capSince := rfl
end

section
variable (s : State) (f : Seq → Seq)
@[simp] theorem State.updSeq_agenda : (s.updSeq f).agenda = s.agenda := rfl
@[simp] theorem State.updSeq_cur : (s.updSeq f).cur = s.cur := rfl
@[simp] theorem State.updSeq_freeCtr : (s.updSeq f).freeCtr = s.freeCtr := rfl
@[simp] theorem State.updSeq_late : (s.updSeq f).late = s.late := rfl
@[simp] theorem State.updSeq_cycle : (s.updSeq f).cycle = s.cycle := rfl
@[simp] theorem State.updSeq_edges : (s.updSeq f).edges = s.edges := rfl
@[simp] theorem State.updSeq_edgeAcc : (s.updSeq f).edgeAcc = s.edgeAcc := rfl
@[simp] theorem State.updSeq_edge : (s.updSeq f).edge = s.edge := rfl
@[simp] theorem State.updSeq_power : (s.updSeq f).power = s.power := rfl
@[simp] theorem State.updSeq_powerReq : (s.updSeq f).powerReq = s.powerReq := rfl
@[simp] theorem State.updSeq_pkg : (s.updSeq f).pkg = s.pkg := rfl
@[simp] theorem State.updSeq_incarnation : (s.updSeq f).incarnation = s.incarnation := rfl
@[simp] theorem State.updSeq_mem : (s.updSeq f).mem = s.mem := rfl
@[simp] theorem State.updSeq_olds : (s.updSeq f).olds = s.olds := rfl
@[simp] theorem State.updSeq_lineKey : (s.updSeq f).lineKey = s.lineKey := rfl
@[simp] theorem State.updSeq_lineRes : (s.updSeq f).lineRes = s.lineRes := rfl
@[simp] theorem State.updSeq_poison : (s.updSeq f).poison = s.poison := rfl
@[simp] theorem State.updSeq_pins : (s.updSeq f).pins = s.pins := rfl
@[simp] theorem State.updSeq_tlb : (s.updSeq f).tlb = s.tlb := rfl
@[simp] theorem State.updSeq_tiles : (s.updSeq f).tiles = s.tiles := rfl
@[simp] theorem State.updSeq_chans : (s.updSeq f).chans = s.chans := rfl
@[simp] theorem State.updSeq_copies : (s.updSeq f).copies = s.copies := rfl
@[simp] theorem State.updSeq_nextId : (s.updSeq f).nextId = s.nextId := rfl
@[simp] theorem State.updSeq_rows : (s.updSeq f).rows = s.rows := rfl
@[simp] theorem State.updSeq_cols : (s.updSeq f).cols = s.cols := rfl
@[simp] theorem State.updSeq_cbars : (s.updSeq f).cbars = s.cbars := rfl
@[simp] theorem State.updSeq_arrivals : (s.updSeq f).arrivals = s.arrivals := rfl
@[simp] theorem State.updSeq_instCtr : (s.updSeq f).instCtr = s.instCtr := rfl
@[simp] theorem State.updSeq_templates : (s.updSeq f).templates = s.templates := rfl
@[simp] theorem State.updSeq_insts : (s.updSeq f).insts = s.insts := rfl
@[simp] theorem State.updSeq_recs : (s.updSeq f).recs = s.recs := rfl
@[simp] theorem State.updSeq_msgs : (s.updSeq f).msgs = s.msgs := rfl
@[simp] theorem State.updSeq_disp : (s.updSeq f).disp = s.disp := rfl
@[simp] theorem State.updSeq_pitches : (s.updSeq f).pitches = s.pitches := rfl
@[simp] theorem State.updSeq_cores : (s.updSeq f).cores = s.cores := rfl
@[simp] theorem State.updSeq_dbgTref : (s.updSeq f).dbgTref = s.dbgTref := rfl
@[simp] theorem State.updSeq_bps : (s.updSeq f).bps = s.bps := rfl
@[simp] theorem State.updSeq_swbuf : (s.updSeq f).swbuf = s.swbuf := rfl
@[simp] theorem State.updSeq_cesTh : (s.updSeq f).cesTh = s.cesTh := rfl
@[simp] theorem State.updSeq_outbox : (s.updSeq f).outbox = s.outbox := rfl
@[simp] theorem State.updSeq_heldPkts : (s.updSeq f).heldPkts = s.heldPkts := rfl
@[simp] theorem State.updSeq_peers : (s.updSeq f).peers = s.peers := rfl
@[simp] theorem State.updSeq_joins : (s.updSeq f).joins = s.joins := rfl
@[simp] theorem State.updSeq_podOut : (s.updSeq f).podOut = s.podOut := rfl
@[simp] theorem State.updSeq_links : (s.updSeq f).links = s.links := rfl
@[simp] theorem State.updSeq_lnksel : (s.updSeq f).lnksel = s.lnksel := rfl
@[simp] theorem State.updSeq_lnkspth : (s.updSeq f).lnkspth = s.lnkspth := rfl
@[simp] theorem State.updSeq_announced : (s.updSeq f).announced = s.announced := rfl
@[simp] theorem State.updSeq_posts : (s.updSeq f).posts = s.posts := rfl
@[simp] theorem State.updSeq_congs : (s.updSeq f).congs = s.congs := rfl
@[simp] theorem State.updSeq_cqs : (s.updSeq f).cqs = s.cqs := rfl
@[simp] theorem State.updSeq_truss : (s.updSeq f).truss = s.truss := rfl
@[simp] theorem State.updSeq_groups : (s.updSeq f).groups = s.groups := rfl
@[simp] theorem State.updSeq_colls : (s.updSeq f).colls = s.colls := rfl
@[simp] theorem State.updSeq_chunks : (s.updSeq f).chunks = s.chunks := rfl
@[simp] theorem State.updSeq_packets : (s.updSeq f).packets = s.packets := rfl
@[simp] theorem State.updSeq_trussBad : (s.updSeq f).trussBad = s.trussBad := rfl
@[simp] theorem State.updSeq_trussDead : (s.updSeq f).trussDead = s.trussDead := rfl
@[simp] theorem State.updSeq_queues : (s.updSeq f).queues = s.queues := rfl
@[simp] theorem State.updSeq_ingress : (s.updSeq f).ingress = s.ingress := rfl
@[simp] theorem State.updSeq_handlers : (s.updSeq f).handlers = s.handlers := rfl
@[simp] theorem State.updSeq_badTiles : (s.updSeq f).badTiles = s.badTiles := rfl
@[simp] theorem State.updSeq_badGrans : (s.updSeq f).badGrans = s.badGrans := rfl
@[simp] theorem State.updSeq_badChans : (s.updSeq f).badChans = s.badChans := rfl
@[simp] theorem State.updSeq_copyNo : (s.updSeq f).copyNo = s.copyNo := rfl
@[simp] theorem State.updSeq_journal : (s.updSeq f).journal = s.journal := rfl
@[simp] theorem State.updSeq_jcount : (s.updSeq f).jcount = s.jcount := rfl
@[simp] theorem State.updSeq_recovery : (s.updSeq f).recovery = s.recovery := rfl
@[simp] theorem State.updSeq_modChain : (s.updSeq f).modChain = s.modChain := rfl
@[simp] theorem State.updSeq_cap : (s.updSeq f).cap = s.cap := rfl
@[simp] theorem State.updSeq_capSince : (s.updSeq f).capSince = s.capSince := rfl
end

section
variable (s : State) (a : Agent) (f : Seq → Seq)
@[simp] theorem State.updSeqOf_agenda : (s.updSeqOf a f).agenda = s.agenda := rfl
@[simp] theorem State.updSeqOf_cur : (s.updSeqOf a f).cur = s.cur := rfl
@[simp] theorem State.updSeqOf_freeCtr : (s.updSeqOf a f).freeCtr = s.freeCtr := rfl
@[simp] theorem State.updSeqOf_late : (s.updSeqOf a f).late = s.late := rfl
@[simp] theorem State.updSeqOf_cycle : (s.updSeqOf a f).cycle = s.cycle := rfl
@[simp] theorem State.updSeqOf_edges : (s.updSeqOf a f).edges = s.edges := rfl
@[simp] theorem State.updSeqOf_edgeAcc : (s.updSeqOf a f).edgeAcc = s.edgeAcc := rfl
@[simp] theorem State.updSeqOf_edge : (s.updSeqOf a f).edge = s.edge := rfl
@[simp] theorem State.updSeqOf_power : (s.updSeqOf a f).power = s.power := rfl
@[simp] theorem State.updSeqOf_powerReq : (s.updSeqOf a f).powerReq = s.powerReq := rfl
@[simp] theorem State.updSeqOf_pkg : (s.updSeqOf a f).pkg = s.pkg := rfl
@[simp] theorem State.updSeqOf_incarnation : (s.updSeqOf a f).incarnation = s.incarnation := rfl
@[simp] theorem State.updSeqOf_mem : (s.updSeqOf a f).mem = s.mem := rfl
@[simp] theorem State.updSeqOf_olds : (s.updSeqOf a f).olds = s.olds := rfl
@[simp] theorem State.updSeqOf_lineKey : (s.updSeqOf a f).lineKey = s.lineKey := rfl
@[simp] theorem State.updSeqOf_lineRes : (s.updSeqOf a f).lineRes = s.lineRes := rfl
@[simp] theorem State.updSeqOf_poison : (s.updSeqOf a f).poison = s.poison := rfl
@[simp] theorem State.updSeqOf_pins : (s.updSeqOf a f).pins = s.pins := rfl
@[simp] theorem State.updSeqOf_tlb : (s.updSeqOf a f).tlb = s.tlb := rfl
@[simp] theorem State.updSeqOf_tiles : (s.updSeqOf a f).tiles = s.tiles := rfl
@[simp] theorem State.updSeqOf_chans : (s.updSeqOf a f).chans = s.chans := rfl
@[simp] theorem State.updSeqOf_copies : (s.updSeqOf a f).copies = s.copies := rfl
@[simp] theorem State.updSeqOf_nextId : (s.updSeqOf a f).nextId = s.nextId := rfl
@[simp] theorem State.updSeqOf_rows : (s.updSeqOf a f).rows = s.rows := rfl
@[simp] theorem State.updSeqOf_cols : (s.updSeqOf a f).cols = s.cols := rfl
@[simp] theorem State.updSeqOf_cbars : (s.updSeqOf a f).cbars = s.cbars := rfl
@[simp] theorem State.updSeqOf_arrivals : (s.updSeqOf a f).arrivals = s.arrivals := rfl
@[simp] theorem State.updSeqOf_instCtr : (s.updSeqOf a f).instCtr = s.instCtr := rfl
@[simp] theorem State.updSeqOf_templates : (s.updSeqOf a f).templates = s.templates := rfl
@[simp] theorem State.updSeqOf_insts : (s.updSeqOf a f).insts = s.insts := rfl
@[simp] theorem State.updSeqOf_recs : (s.updSeqOf a f).recs = s.recs := rfl
@[simp] theorem State.updSeqOf_msgs : (s.updSeqOf a f).msgs = s.msgs := rfl
@[simp] theorem State.updSeqOf_disp : (s.updSeqOf a f).disp = s.disp := rfl
@[simp] theorem State.updSeqOf_pitches : (s.updSeqOf a f).pitches = s.pitches := rfl
@[simp] theorem State.updSeqOf_cores : (s.updSeqOf a f).cores = s.cores := rfl
@[simp] theorem State.updSeqOf_dbgTref : (s.updSeqOf a f).dbgTref = s.dbgTref := rfl
@[simp] theorem State.updSeqOf_bps : (s.updSeqOf a f).bps = s.bps := rfl
@[simp] theorem State.updSeqOf_swbuf : (s.updSeqOf a f).swbuf = s.swbuf := rfl
@[simp] theorem State.updSeqOf_cesTh : (s.updSeqOf a f).cesTh = s.cesTh := rfl
@[simp] theorem State.updSeqOf_outbox : (s.updSeqOf a f).outbox = s.outbox := rfl
@[simp] theorem State.updSeqOf_heldPkts : (s.updSeqOf a f).heldPkts = s.heldPkts := rfl
@[simp] theorem State.updSeqOf_peers : (s.updSeqOf a f).peers = s.peers := rfl
@[simp] theorem State.updSeqOf_joins : (s.updSeqOf a f).joins = s.joins := rfl
@[simp] theorem State.updSeqOf_podOut : (s.updSeqOf a f).podOut = s.podOut := rfl
@[simp] theorem State.updSeqOf_links : (s.updSeqOf a f).links = s.links := rfl
@[simp] theorem State.updSeqOf_lnksel : (s.updSeqOf a f).lnksel = s.lnksel := rfl
@[simp] theorem State.updSeqOf_lnkspth : (s.updSeqOf a f).lnkspth = s.lnkspth := rfl
@[simp] theorem State.updSeqOf_announced : (s.updSeqOf a f).announced = s.announced := rfl
@[simp] theorem State.updSeqOf_posts : (s.updSeqOf a f).posts = s.posts := rfl
@[simp] theorem State.updSeqOf_congs : (s.updSeqOf a f).congs = s.congs := rfl
@[simp] theorem State.updSeqOf_cqs : (s.updSeqOf a f).cqs = s.cqs := rfl
@[simp] theorem State.updSeqOf_truss : (s.updSeqOf a f).truss = s.truss := rfl
@[simp] theorem State.updSeqOf_groups : (s.updSeqOf a f).groups = s.groups := rfl
@[simp] theorem State.updSeqOf_colls : (s.updSeqOf a f).colls = s.colls := rfl
@[simp] theorem State.updSeqOf_chunks : (s.updSeqOf a f).chunks = s.chunks := rfl
@[simp] theorem State.updSeqOf_packets : (s.updSeqOf a f).packets = s.packets := rfl
@[simp] theorem State.updSeqOf_trussBad : (s.updSeqOf a f).trussBad = s.trussBad := rfl
@[simp] theorem State.updSeqOf_trussDead : (s.updSeqOf a f).trussDead = s.trussDead := rfl
@[simp] theorem State.updSeqOf_queues : (s.updSeqOf a f).queues = s.queues := rfl
@[simp] theorem State.updSeqOf_ingress : (s.updSeqOf a f).ingress = s.ingress := rfl
@[simp] theorem State.updSeqOf_handlers : (s.updSeqOf a f).handlers = s.handlers := rfl
@[simp] theorem State.updSeqOf_badTiles : (s.updSeqOf a f).badTiles = s.badTiles := rfl
@[simp] theorem State.updSeqOf_badGrans : (s.updSeqOf a f).badGrans = s.badGrans := rfl
@[simp] theorem State.updSeqOf_badChans : (s.updSeqOf a f).badChans = s.badChans := rfl
@[simp] theorem State.updSeqOf_copyNo : (s.updSeqOf a f).copyNo = s.copyNo := rfl
@[simp] theorem State.updSeqOf_journal : (s.updSeqOf a f).journal = s.journal := rfl
@[simp] theorem State.updSeqOf_jcount : (s.updSeqOf a f).jcount = s.jcount := rfl
@[simp] theorem State.updSeqOf_recovery : (s.updSeqOf a f).recovery = s.recovery := rfl
@[simp] theorem State.updSeqOf_modChain : (s.updSeqOf a f).modChain = s.modChain := rfl
@[simp] theorem State.updSeqOf_cap : (s.updSeqOf a f).cap = s.cap := rfl
@[simp] theorem State.updSeqOf_capSince : (s.updSeqOf a f).capSince = s.capSince := rfl
end

section
variable (s : State) (r : BitVec 5) (v : Word)
@[simp] theorem State.gPut_agenda : (s.gPut r v).agenda = s.agenda := rfl
@[simp] theorem State.gPut_cur : (s.gPut r v).cur = s.cur := rfl
@[simp] theorem State.gPut_freeCtr : (s.gPut r v).freeCtr = s.freeCtr := rfl
@[simp] theorem State.gPut_late : (s.gPut r v).late = s.late := rfl
@[simp] theorem State.gPut_cycle : (s.gPut r v).cycle = s.cycle := rfl
@[simp] theorem State.gPut_edges : (s.gPut r v).edges = s.edges := rfl
@[simp] theorem State.gPut_edgeAcc : (s.gPut r v).edgeAcc = s.edgeAcc := rfl
@[simp] theorem State.gPut_edge : (s.gPut r v).edge = s.edge := rfl
@[simp] theorem State.gPut_power : (s.gPut r v).power = s.power := rfl
@[simp] theorem State.gPut_powerReq : (s.gPut r v).powerReq = s.powerReq := rfl
@[simp] theorem State.gPut_pkg : (s.gPut r v).pkg = s.pkg := rfl
@[simp] theorem State.gPut_incarnation : (s.gPut r v).incarnation = s.incarnation := rfl
@[simp] theorem State.gPut_mem : (s.gPut r v).mem = s.mem := rfl
@[simp] theorem State.gPut_olds : (s.gPut r v).olds = s.olds := rfl
@[simp] theorem State.gPut_lineKey : (s.gPut r v).lineKey = s.lineKey := rfl
@[simp] theorem State.gPut_lineRes : (s.gPut r v).lineRes = s.lineRes := rfl
@[simp] theorem State.gPut_poison : (s.gPut r v).poison = s.poison := rfl
@[simp] theorem State.gPut_pins : (s.gPut r v).pins = s.pins := rfl
@[simp] theorem State.gPut_tlb : (s.gPut r v).tlb = s.tlb := rfl
@[simp] theorem State.gPut_tiles : (s.gPut r v).tiles = s.tiles := rfl
@[simp] theorem State.gPut_chans : (s.gPut r v).chans = s.chans := rfl
@[simp] theorem State.gPut_copies : (s.gPut r v).copies = s.copies := rfl
@[simp] theorem State.gPut_nextId : (s.gPut r v).nextId = s.nextId := rfl
@[simp] theorem State.gPut_rows : (s.gPut r v).rows = s.rows := rfl
@[simp] theorem State.gPut_cols : (s.gPut r v).cols = s.cols := rfl
@[simp] theorem State.gPut_cbars : (s.gPut r v).cbars = s.cbars := rfl
@[simp] theorem State.gPut_arrivals : (s.gPut r v).arrivals = s.arrivals := rfl
@[simp] theorem State.gPut_instCtr : (s.gPut r v).instCtr = s.instCtr := rfl
@[simp] theorem State.gPut_templates : (s.gPut r v).templates = s.templates := rfl
@[simp] theorem State.gPut_insts : (s.gPut r v).insts = s.insts := rfl
@[simp] theorem State.gPut_recs : (s.gPut r v).recs = s.recs := rfl
@[simp] theorem State.gPut_msgs : (s.gPut r v).msgs = s.msgs := rfl
@[simp] theorem State.gPut_disp : (s.gPut r v).disp = s.disp := rfl
@[simp] theorem State.gPut_pitches : (s.gPut r v).pitches = s.pitches := rfl
@[simp] theorem State.gPut_cores : (s.gPut r v).cores = s.cores := rfl
@[simp] theorem State.gPut_dbgTref : (s.gPut r v).dbgTref = s.dbgTref := rfl
@[simp] theorem State.gPut_bps : (s.gPut r v).bps = s.bps := rfl
@[simp] theorem State.gPut_swbuf : (s.gPut r v).swbuf = s.swbuf := rfl
@[simp] theorem State.gPut_cesTh : (s.gPut r v).cesTh = s.cesTh := rfl
@[simp] theorem State.gPut_outbox : (s.gPut r v).outbox = s.outbox := rfl
@[simp] theorem State.gPut_heldPkts : (s.gPut r v).heldPkts = s.heldPkts := rfl
@[simp] theorem State.gPut_peers : (s.gPut r v).peers = s.peers := rfl
@[simp] theorem State.gPut_joins : (s.gPut r v).joins = s.joins := rfl
@[simp] theorem State.gPut_podOut : (s.gPut r v).podOut = s.podOut := rfl
@[simp] theorem State.gPut_links : (s.gPut r v).links = s.links := rfl
@[simp] theorem State.gPut_lnksel : (s.gPut r v).lnksel = s.lnksel := rfl
@[simp] theorem State.gPut_lnkspth : (s.gPut r v).lnkspth = s.lnkspth := rfl
@[simp] theorem State.gPut_announced : (s.gPut r v).announced = s.announced := rfl
@[simp] theorem State.gPut_posts : (s.gPut r v).posts = s.posts := rfl
@[simp] theorem State.gPut_congs : (s.gPut r v).congs = s.congs := rfl
@[simp] theorem State.gPut_cqs : (s.gPut r v).cqs = s.cqs := rfl
@[simp] theorem State.gPut_truss : (s.gPut r v).truss = s.truss := rfl
@[simp] theorem State.gPut_groups : (s.gPut r v).groups = s.groups := rfl
@[simp] theorem State.gPut_colls : (s.gPut r v).colls = s.colls := rfl
@[simp] theorem State.gPut_chunks : (s.gPut r v).chunks = s.chunks := rfl
@[simp] theorem State.gPut_packets : (s.gPut r v).packets = s.packets := rfl
@[simp] theorem State.gPut_trussBad : (s.gPut r v).trussBad = s.trussBad := rfl
@[simp] theorem State.gPut_trussDead : (s.gPut r v).trussDead = s.trussDead := rfl
@[simp] theorem State.gPut_queues : (s.gPut r v).queues = s.queues := rfl
@[simp] theorem State.gPut_ingress : (s.gPut r v).ingress = s.ingress := rfl
@[simp] theorem State.gPut_handlers : (s.gPut r v).handlers = s.handlers := rfl
@[simp] theorem State.gPut_badTiles : (s.gPut r v).badTiles = s.badTiles := rfl
@[simp] theorem State.gPut_badGrans : (s.gPut r v).badGrans = s.badGrans := rfl
@[simp] theorem State.gPut_badChans : (s.gPut r v).badChans = s.badChans := rfl
@[simp] theorem State.gPut_copyNo : (s.gPut r v).copyNo = s.copyNo := rfl
@[simp] theorem State.gPut_journal : (s.gPut r v).journal = s.journal := rfl
@[simp] theorem State.gPut_jcount : (s.gPut r v).jcount = s.jcount := rfl
@[simp] theorem State.gPut_recovery : (s.gPut r v).recovery = s.recovery := rfl
@[simp] theorem State.gPut_modChain : (s.gPut r v).modChain = s.modChain := rfl
@[simp] theorem State.gPut_cap : (s.gPut r v).cap = s.cap := rfl
@[simp] theorem State.gPut_capSince : (s.gPut r v).capSince = s.capSince := rfl
end

section
variable (s : State)
@[simp] theorem State.adv_agenda : s.adv.agenda = s.agenda := rfl
@[simp] theorem State.adv_cur : s.adv.cur = s.cur := rfl
@[simp] theorem State.adv_freeCtr : s.adv.freeCtr = s.freeCtr := rfl
@[simp] theorem State.adv_late : s.adv.late = s.late := rfl
@[simp] theorem State.adv_cycle : s.adv.cycle = s.cycle := rfl
@[simp] theorem State.adv_edges : s.adv.edges = s.edges := rfl
@[simp] theorem State.adv_edgeAcc : s.adv.edgeAcc = s.edgeAcc := rfl
@[simp] theorem State.adv_edge : s.adv.edge = s.edge := rfl
@[simp] theorem State.adv_power : s.adv.power = s.power := rfl
@[simp] theorem State.adv_powerReq : s.adv.powerReq = s.powerReq := rfl
@[simp] theorem State.adv_pkg : s.adv.pkg = s.pkg := rfl
@[simp] theorem State.adv_incarnation : s.adv.incarnation = s.incarnation := rfl
@[simp] theorem State.adv_mem : s.adv.mem = s.mem := rfl
@[simp] theorem State.adv_olds : s.adv.olds = s.olds := rfl
@[simp] theorem State.adv_lineKey : s.adv.lineKey = s.lineKey := rfl
@[simp] theorem State.adv_lineRes : s.adv.lineRes = s.lineRes := rfl
@[simp] theorem State.adv_poison : s.adv.poison = s.poison := rfl
@[simp] theorem State.adv_pins : s.adv.pins = s.pins := rfl
@[simp] theorem State.adv_tlb : s.adv.tlb = s.tlb := rfl
@[simp] theorem State.adv_tiles : s.adv.tiles = s.tiles := rfl
@[simp] theorem State.adv_chans : s.adv.chans = s.chans := rfl
@[simp] theorem State.adv_copies : s.adv.copies = s.copies := rfl
@[simp] theorem State.adv_nextId : s.adv.nextId = s.nextId := rfl
@[simp] theorem State.adv_rows : s.adv.rows = s.rows := rfl
@[simp] theorem State.adv_cols : s.adv.cols = s.cols := rfl
@[simp] theorem State.adv_cbars : s.adv.cbars = s.cbars := rfl
@[simp] theorem State.adv_arrivals : s.adv.arrivals = s.arrivals := rfl
@[simp] theorem State.adv_instCtr : s.adv.instCtr = s.instCtr := rfl
@[simp] theorem State.adv_templates : s.adv.templates = s.templates := rfl
@[simp] theorem State.adv_insts : s.adv.insts = s.insts := rfl
@[simp] theorem State.adv_recs : s.adv.recs = s.recs := rfl
@[simp] theorem State.adv_msgs : s.adv.msgs = s.msgs := rfl
@[simp] theorem State.adv_disp : s.adv.disp = s.disp := rfl
@[simp] theorem State.adv_pitches : s.adv.pitches = s.pitches := rfl
@[simp] theorem State.adv_cores : s.adv.cores = s.cores := rfl
@[simp] theorem State.adv_dbgTref : s.adv.dbgTref = s.dbgTref := rfl
@[simp] theorem State.adv_bps : s.adv.bps = s.bps := rfl
@[simp] theorem State.adv_swbuf : s.adv.swbuf = s.swbuf := rfl
@[simp] theorem State.adv_cesTh : s.adv.cesTh = s.cesTh := rfl
@[simp] theorem State.adv_outbox : s.adv.outbox = s.outbox := rfl
@[simp] theorem State.adv_heldPkts : s.adv.heldPkts = s.heldPkts := rfl
@[simp] theorem State.adv_peers : s.adv.peers = s.peers := rfl
@[simp] theorem State.adv_joins : s.adv.joins = s.joins := rfl
@[simp] theorem State.adv_podOut : s.adv.podOut = s.podOut := rfl
@[simp] theorem State.adv_links : s.adv.links = s.links := rfl
@[simp] theorem State.adv_lnksel : s.adv.lnksel = s.lnksel := rfl
@[simp] theorem State.adv_lnkspth : s.adv.lnkspth = s.lnkspth := rfl
@[simp] theorem State.adv_announced : s.adv.announced = s.announced := rfl
@[simp] theorem State.adv_posts : s.adv.posts = s.posts := rfl
@[simp] theorem State.adv_congs : s.adv.congs = s.congs := rfl
@[simp] theorem State.adv_cqs : s.adv.cqs = s.cqs := rfl
@[simp] theorem State.adv_truss : s.adv.truss = s.truss := rfl
@[simp] theorem State.adv_groups : s.adv.groups = s.groups := rfl
@[simp] theorem State.adv_colls : s.adv.colls = s.colls := rfl
@[simp] theorem State.adv_chunks : s.adv.chunks = s.chunks := rfl
@[simp] theorem State.adv_packets : s.adv.packets = s.packets := rfl
@[simp] theorem State.adv_trussBad : s.adv.trussBad = s.trussBad := rfl
@[simp] theorem State.adv_trussDead : s.adv.trussDead = s.trussDead := rfl
@[simp] theorem State.adv_queues : s.adv.queues = s.queues := rfl
@[simp] theorem State.adv_ingress : s.adv.ingress = s.ingress := rfl
@[simp] theorem State.adv_handlers : s.adv.handlers = s.handlers := rfl
@[simp] theorem State.adv_badTiles : s.adv.badTiles = s.badTiles := rfl
@[simp] theorem State.adv_badGrans : s.adv.badGrans = s.badGrans := rfl
@[simp] theorem State.adv_badChans : s.adv.badChans = s.badChans := rfl
@[simp] theorem State.adv_copyNo : s.adv.copyNo = s.copyNo := rfl
@[simp] theorem State.adv_journal : s.adv.journal = s.journal := rfl
@[simp] theorem State.adv_jcount : s.adv.jcount = s.jcount := rfl
@[simp] theorem State.adv_recovery : s.adv.recovery = s.recovery := rfl
@[simp] theorem State.adv_modChain : s.adv.modChain = s.modChain := rfl
@[simp] theorem State.adv_cap : s.adv.cap = s.cap := rfl
@[simp] theorem State.adv_capSince : s.adv.capSince = s.capSince := rfl
end

section
variable (s : State) (w : Wait)
@[simp] theorem State.block_agenda : (s.block w).agenda = s.agenda := rfl
@[simp] theorem State.block_cur : (s.block w).cur = s.cur := rfl
@[simp] theorem State.block_freeCtr : (s.block w).freeCtr = s.freeCtr := rfl
@[simp] theorem State.block_late : (s.block w).late = s.late := rfl
@[simp] theorem State.block_cycle : (s.block w).cycle = s.cycle := rfl
@[simp] theorem State.block_edges : (s.block w).edges = s.edges := rfl
@[simp] theorem State.block_edgeAcc : (s.block w).edgeAcc = s.edgeAcc := rfl
@[simp] theorem State.block_edge : (s.block w).edge = s.edge := rfl
@[simp] theorem State.block_power : (s.block w).power = s.power := rfl
@[simp] theorem State.block_powerReq : (s.block w).powerReq = s.powerReq := rfl
@[simp] theorem State.block_pkg : (s.block w).pkg = s.pkg := rfl
@[simp] theorem State.block_incarnation : (s.block w).incarnation = s.incarnation := rfl
@[simp] theorem State.block_mem : (s.block w).mem = s.mem := rfl
@[simp] theorem State.block_olds : (s.block w).olds = s.olds := rfl
@[simp] theorem State.block_lineKey : (s.block w).lineKey = s.lineKey := rfl
@[simp] theorem State.block_lineRes : (s.block w).lineRes = s.lineRes := rfl
@[simp] theorem State.block_poison : (s.block w).poison = s.poison := rfl
@[simp] theorem State.block_pins : (s.block w).pins = s.pins := rfl
@[simp] theorem State.block_tlb : (s.block w).tlb = s.tlb := rfl
@[simp] theorem State.block_tiles : (s.block w).tiles = s.tiles := rfl
@[simp] theorem State.block_chans : (s.block w).chans = s.chans := rfl
@[simp] theorem State.block_copies : (s.block w).copies = s.copies := rfl
@[simp] theorem State.block_nextId : (s.block w).nextId = s.nextId := rfl
@[simp] theorem State.block_rows : (s.block w).rows = s.rows := rfl
@[simp] theorem State.block_cols : (s.block w).cols = s.cols := rfl
@[simp] theorem State.block_cbars : (s.block w).cbars = s.cbars := rfl
@[simp] theorem State.block_arrivals : (s.block w).arrivals = s.arrivals := rfl
@[simp] theorem State.block_instCtr : (s.block w).instCtr = s.instCtr := rfl
@[simp] theorem State.block_templates : (s.block w).templates = s.templates := rfl
@[simp] theorem State.block_insts : (s.block w).insts = s.insts := rfl
@[simp] theorem State.block_recs : (s.block w).recs = s.recs := rfl
@[simp] theorem State.block_msgs : (s.block w).msgs = s.msgs := rfl
@[simp] theorem State.block_disp : (s.block w).disp = s.disp := rfl
@[simp] theorem State.block_pitches : (s.block w).pitches = s.pitches := rfl
@[simp] theorem State.block_cores : (s.block w).cores = s.cores := rfl
@[simp] theorem State.block_dbgTref : (s.block w).dbgTref = s.dbgTref := rfl
@[simp] theorem State.block_bps : (s.block w).bps = s.bps := rfl
@[simp] theorem State.block_swbuf : (s.block w).swbuf = s.swbuf := rfl
@[simp] theorem State.block_cesTh : (s.block w).cesTh = s.cesTh := rfl
@[simp] theorem State.block_outbox : (s.block w).outbox = s.outbox := rfl
@[simp] theorem State.block_heldPkts : (s.block w).heldPkts = s.heldPkts := rfl
@[simp] theorem State.block_peers : (s.block w).peers = s.peers := rfl
@[simp] theorem State.block_joins : (s.block w).joins = s.joins := rfl
@[simp] theorem State.block_podOut : (s.block w).podOut = s.podOut := rfl
@[simp] theorem State.block_links : (s.block w).links = s.links := rfl
@[simp] theorem State.block_lnksel : (s.block w).lnksel = s.lnksel := rfl
@[simp] theorem State.block_lnkspth : (s.block w).lnkspth = s.lnkspth := rfl
@[simp] theorem State.block_announced : (s.block w).announced = s.announced := rfl
@[simp] theorem State.block_posts : (s.block w).posts = s.posts := rfl
@[simp] theorem State.block_congs : (s.block w).congs = s.congs := rfl
@[simp] theorem State.block_cqs : (s.block w).cqs = s.cqs := rfl
@[simp] theorem State.block_truss : (s.block w).truss = s.truss := rfl
@[simp] theorem State.block_groups : (s.block w).groups = s.groups := rfl
@[simp] theorem State.block_colls : (s.block w).colls = s.colls := rfl
@[simp] theorem State.block_chunks : (s.block w).chunks = s.chunks := rfl
@[simp] theorem State.block_packets : (s.block w).packets = s.packets := rfl
@[simp] theorem State.block_trussBad : (s.block w).trussBad = s.trussBad := rfl
@[simp] theorem State.block_trussDead : (s.block w).trussDead = s.trussDead := rfl
@[simp] theorem State.block_queues : (s.block w).queues = s.queues := rfl
@[simp] theorem State.block_ingress : (s.block w).ingress = s.ingress := rfl
@[simp] theorem State.block_handlers : (s.block w).handlers = s.handlers := rfl
@[simp] theorem State.block_badTiles : (s.block w).badTiles = s.badTiles := rfl
@[simp] theorem State.block_badGrans : (s.block w).badGrans = s.badGrans := rfl
@[simp] theorem State.block_badChans : (s.block w).badChans = s.badChans := rfl
@[simp] theorem State.block_copyNo : (s.block w).copyNo = s.copyNo := rfl
@[simp] theorem State.block_journal : (s.block w).journal = s.journal := rfl
@[simp] theorem State.block_jcount : (s.block w).jcount = s.jcount := rfl
@[simp] theorem State.block_recovery : (s.block w).recovery = s.recovery := rfl
@[simp] theorem State.block_modChain : (s.block w).modChain = s.modChain := rfl
@[simp] theorem State.block_cap : (s.block w).cap = s.cap := rfl
@[simp] theorem State.block_capSince : (s.block w).capSince = s.capSince := rfl
end

section
variable (s : State) (k : Nat) (x : Tile)
@[simp] theorem State.setTile_agenda : (s.setTile k x).agenda = s.agenda := rfl
@[simp] theorem State.setTile_cur : (s.setTile k x).cur = s.cur := rfl
@[simp] theorem State.setTile_freeCtr : (s.setTile k x).freeCtr = s.freeCtr := rfl
@[simp] theorem State.setTile_late : (s.setTile k x).late = s.late := rfl
@[simp] theorem State.setTile_cycle : (s.setTile k x).cycle = s.cycle := rfl
@[simp] theorem State.setTile_edges : (s.setTile k x).edges = s.edges := rfl
@[simp] theorem State.setTile_edgeAcc : (s.setTile k x).edgeAcc = s.edgeAcc := rfl
@[simp] theorem State.setTile_edge : (s.setTile k x).edge = s.edge := rfl
@[simp] theorem State.setTile_power : (s.setTile k x).power = s.power := rfl
@[simp] theorem State.setTile_powerReq : (s.setTile k x).powerReq = s.powerReq := rfl
@[simp] theorem State.setTile_pkg : (s.setTile k x).pkg = s.pkg := rfl
@[simp] theorem State.setTile_incarnation : (s.setTile k x).incarnation = s.incarnation := rfl
@[simp] theorem State.setTile_mem : (s.setTile k x).mem = s.mem := rfl
@[simp] theorem State.setTile_olds : (s.setTile k x).olds = s.olds := rfl
@[simp] theorem State.setTile_lineKey : (s.setTile k x).lineKey = s.lineKey := rfl
@[simp] theorem State.setTile_lineRes : (s.setTile k x).lineRes = s.lineRes := rfl
@[simp] theorem State.setTile_poison : (s.setTile k x).poison = s.poison := rfl
@[simp] theorem State.setTile_pins : (s.setTile k x).pins = s.pins := rfl
@[simp] theorem State.setTile_tlb : (s.setTile k x).tlb = s.tlb := rfl
@[simp] theorem State.setTile_strands : (s.setTile k x).strands = s.strands := rfl
@[simp] theorem State.setTile_chans : (s.setTile k x).chans = s.chans := rfl
@[simp] theorem State.setTile_copies : (s.setTile k x).copies = s.copies := rfl
@[simp] theorem State.setTile_nextId : (s.setTile k x).nextId = s.nextId := rfl
@[simp] theorem State.setTile_rows : (s.setTile k x).rows = s.rows := rfl
@[simp] theorem State.setTile_cols : (s.setTile k x).cols = s.cols := rfl
@[simp] theorem State.setTile_cbars : (s.setTile k x).cbars = s.cbars := rfl
@[simp] theorem State.setTile_arrivals : (s.setTile k x).arrivals = s.arrivals := rfl
@[simp] theorem State.setTile_instCtr : (s.setTile k x).instCtr = s.instCtr := rfl
@[simp] theorem State.setTile_templates : (s.setTile k x).templates = s.templates := rfl
@[simp] theorem State.setTile_insts : (s.setTile k x).insts = s.insts := rfl
@[simp] theorem State.setTile_recs : (s.setTile k x).recs = s.recs := rfl
@[simp] theorem State.setTile_msgs : (s.setTile k x).msgs = s.msgs := rfl
@[simp] theorem State.setTile_disp : (s.setTile k x).disp = s.disp := rfl
@[simp] theorem State.setTile_pitches : (s.setTile k x).pitches = s.pitches := rfl
@[simp] theorem State.setTile_cores : (s.setTile k x).cores = s.cores := rfl
@[simp] theorem State.setTile_dbgTref : (s.setTile k x).dbgTref = s.dbgTref := rfl
@[simp] theorem State.setTile_bps : (s.setTile k x).bps = s.bps := rfl
@[simp] theorem State.setTile_swbuf : (s.setTile k x).swbuf = s.swbuf := rfl
@[simp] theorem State.setTile_cesTh : (s.setTile k x).cesTh = s.cesTh := rfl
@[simp] theorem State.setTile_outbox : (s.setTile k x).outbox = s.outbox := rfl
@[simp] theorem State.setTile_heldPkts : (s.setTile k x).heldPkts = s.heldPkts := rfl
@[simp] theorem State.setTile_peers : (s.setTile k x).peers = s.peers := rfl
@[simp] theorem State.setTile_joins : (s.setTile k x).joins = s.joins := rfl
@[simp] theorem State.setTile_podOut : (s.setTile k x).podOut = s.podOut := rfl
@[simp] theorem State.setTile_links : (s.setTile k x).links = s.links := rfl
@[simp] theorem State.setTile_lnksel : (s.setTile k x).lnksel = s.lnksel := rfl
@[simp] theorem State.setTile_lnkspth : (s.setTile k x).lnkspth = s.lnkspth := rfl
@[simp] theorem State.setTile_announced : (s.setTile k x).announced = s.announced := rfl
@[simp] theorem State.setTile_posts : (s.setTile k x).posts = s.posts := rfl
@[simp] theorem State.setTile_congs : (s.setTile k x).congs = s.congs := rfl
@[simp] theorem State.setTile_cqs : (s.setTile k x).cqs = s.cqs := rfl
@[simp] theorem State.setTile_truss : (s.setTile k x).truss = s.truss := rfl
@[simp] theorem State.setTile_groups : (s.setTile k x).groups = s.groups := rfl
@[simp] theorem State.setTile_colls : (s.setTile k x).colls = s.colls := rfl
@[simp] theorem State.setTile_chunks : (s.setTile k x).chunks = s.chunks := rfl
@[simp] theorem State.setTile_packets : (s.setTile k x).packets = s.packets := rfl
@[simp] theorem State.setTile_trussBad : (s.setTile k x).trussBad = s.trussBad := rfl
@[simp] theorem State.setTile_trussDead : (s.setTile k x).trussDead = s.trussDead := rfl
@[simp] theorem State.setTile_queues : (s.setTile k x).queues = s.queues := rfl
@[simp] theorem State.setTile_ingress : (s.setTile k x).ingress = s.ingress := rfl
@[simp] theorem State.setTile_handlers : (s.setTile k x).handlers = s.handlers := rfl
@[simp] theorem State.setTile_badTiles : (s.setTile k x).badTiles = s.badTiles := rfl
@[simp] theorem State.setTile_badGrans : (s.setTile k x).badGrans = s.badGrans := rfl
@[simp] theorem State.setTile_badChans : (s.setTile k x).badChans = s.badChans := rfl
@[simp] theorem State.setTile_copyNo : (s.setTile k x).copyNo = s.copyNo := rfl
@[simp] theorem State.setTile_journal : (s.setTile k x).journal = s.journal := rfl
@[simp] theorem State.setTile_jcount : (s.setTile k x).jcount = s.jcount := rfl
@[simp] theorem State.setTile_recovery : (s.setTile k x).recovery = s.recovery := rfl
@[simp] theorem State.setTile_modChain : (s.setTile k x).modChain = s.modChain := rfl
@[simp] theorem State.setTile_cap : (s.setTile k x).cap = s.cap := rfl
@[simp] theorem State.setTile_capSince : (s.setTile k x).capSince = s.capSince := rfl
end

section
variable (s : State) (k : Nat) (f : Tile → Tile)
@[simp] theorem State.updTile_agenda : (s.updTile k f).agenda = s.agenda := rfl
@[simp] theorem State.updTile_cur : (s.updTile k f).cur = s.cur := rfl
@[simp] theorem State.updTile_freeCtr : (s.updTile k f).freeCtr = s.freeCtr := rfl
@[simp] theorem State.updTile_late : (s.updTile k f).late = s.late := rfl
@[simp] theorem State.updTile_cycle : (s.updTile k f).cycle = s.cycle := rfl
@[simp] theorem State.updTile_edges : (s.updTile k f).edges = s.edges := rfl
@[simp] theorem State.updTile_edgeAcc : (s.updTile k f).edgeAcc = s.edgeAcc := rfl
@[simp] theorem State.updTile_edge : (s.updTile k f).edge = s.edge := rfl
@[simp] theorem State.updTile_power : (s.updTile k f).power = s.power := rfl
@[simp] theorem State.updTile_powerReq : (s.updTile k f).powerReq = s.powerReq := rfl
@[simp] theorem State.updTile_pkg : (s.updTile k f).pkg = s.pkg := rfl
@[simp] theorem State.updTile_incarnation : (s.updTile k f).incarnation = s.incarnation := rfl
@[simp] theorem State.updTile_mem : (s.updTile k f).mem = s.mem := rfl
@[simp] theorem State.updTile_olds : (s.updTile k f).olds = s.olds := rfl
@[simp] theorem State.updTile_lineKey : (s.updTile k f).lineKey = s.lineKey := rfl
@[simp] theorem State.updTile_lineRes : (s.updTile k f).lineRes = s.lineRes := rfl
@[simp] theorem State.updTile_poison : (s.updTile k f).poison = s.poison := rfl
@[simp] theorem State.updTile_pins : (s.updTile k f).pins = s.pins := rfl
@[simp] theorem State.updTile_tlb : (s.updTile k f).tlb = s.tlb := rfl
@[simp] theorem State.updTile_strands : (s.updTile k f).strands = s.strands := rfl
@[simp] theorem State.updTile_chans : (s.updTile k f).chans = s.chans := rfl
@[simp] theorem State.updTile_copies : (s.updTile k f).copies = s.copies := rfl
@[simp] theorem State.updTile_nextId : (s.updTile k f).nextId = s.nextId := rfl
@[simp] theorem State.updTile_rows : (s.updTile k f).rows = s.rows := rfl
@[simp] theorem State.updTile_cols : (s.updTile k f).cols = s.cols := rfl
@[simp] theorem State.updTile_cbars : (s.updTile k f).cbars = s.cbars := rfl
@[simp] theorem State.updTile_arrivals : (s.updTile k f).arrivals = s.arrivals := rfl
@[simp] theorem State.updTile_instCtr : (s.updTile k f).instCtr = s.instCtr := rfl
@[simp] theorem State.updTile_templates : (s.updTile k f).templates = s.templates := rfl
@[simp] theorem State.updTile_insts : (s.updTile k f).insts = s.insts := rfl
@[simp] theorem State.updTile_recs : (s.updTile k f).recs = s.recs := rfl
@[simp] theorem State.updTile_msgs : (s.updTile k f).msgs = s.msgs := rfl
@[simp] theorem State.updTile_disp : (s.updTile k f).disp = s.disp := rfl
@[simp] theorem State.updTile_pitches : (s.updTile k f).pitches = s.pitches := rfl
@[simp] theorem State.updTile_cores : (s.updTile k f).cores = s.cores := rfl
@[simp] theorem State.updTile_dbgTref : (s.updTile k f).dbgTref = s.dbgTref := rfl
@[simp] theorem State.updTile_bps : (s.updTile k f).bps = s.bps := rfl
@[simp] theorem State.updTile_swbuf : (s.updTile k f).swbuf = s.swbuf := rfl
@[simp] theorem State.updTile_cesTh : (s.updTile k f).cesTh = s.cesTh := rfl
@[simp] theorem State.updTile_outbox : (s.updTile k f).outbox = s.outbox := rfl
@[simp] theorem State.updTile_heldPkts : (s.updTile k f).heldPkts = s.heldPkts := rfl
@[simp] theorem State.updTile_peers : (s.updTile k f).peers = s.peers := rfl
@[simp] theorem State.updTile_joins : (s.updTile k f).joins = s.joins := rfl
@[simp] theorem State.updTile_podOut : (s.updTile k f).podOut = s.podOut := rfl
@[simp] theorem State.updTile_links : (s.updTile k f).links = s.links := rfl
@[simp] theorem State.updTile_lnksel : (s.updTile k f).lnksel = s.lnksel := rfl
@[simp] theorem State.updTile_lnkspth : (s.updTile k f).lnkspth = s.lnkspth := rfl
@[simp] theorem State.updTile_announced : (s.updTile k f).announced = s.announced := rfl
@[simp] theorem State.updTile_posts : (s.updTile k f).posts = s.posts := rfl
@[simp] theorem State.updTile_congs : (s.updTile k f).congs = s.congs := rfl
@[simp] theorem State.updTile_cqs : (s.updTile k f).cqs = s.cqs := rfl
@[simp] theorem State.updTile_truss : (s.updTile k f).truss = s.truss := rfl
@[simp] theorem State.updTile_groups : (s.updTile k f).groups = s.groups := rfl
@[simp] theorem State.updTile_colls : (s.updTile k f).colls = s.colls := rfl
@[simp] theorem State.updTile_chunks : (s.updTile k f).chunks = s.chunks := rfl
@[simp] theorem State.updTile_packets : (s.updTile k f).packets = s.packets := rfl
@[simp] theorem State.updTile_trussBad : (s.updTile k f).trussBad = s.trussBad := rfl
@[simp] theorem State.updTile_trussDead : (s.updTile k f).trussDead = s.trussDead := rfl
@[simp] theorem State.updTile_queues : (s.updTile k f).queues = s.queues := rfl
@[simp] theorem State.updTile_ingress : (s.updTile k f).ingress = s.ingress := rfl
@[simp] theorem State.updTile_handlers : (s.updTile k f).handlers = s.handlers := rfl
@[simp] theorem State.updTile_badTiles : (s.updTile k f).badTiles = s.badTiles := rfl
@[simp] theorem State.updTile_badGrans : (s.updTile k f).badGrans = s.badGrans := rfl
@[simp] theorem State.updTile_badChans : (s.updTile k f).badChans = s.badChans := rfl
@[simp] theorem State.updTile_copyNo : (s.updTile k f).copyNo = s.copyNo := rfl
@[simp] theorem State.updTile_journal : (s.updTile k f).journal = s.journal := rfl
@[simp] theorem State.updTile_jcount : (s.updTile k f).jcount = s.jcount := rfl
@[simp] theorem State.updTile_recovery : (s.updTile k f).recovery = s.recovery := rfl
@[simp] theorem State.updTile_modChain : (s.updTile k f).modChain = s.modChain := rfl
@[simp] theorem State.updTile_cap : (s.updTile k f).cap = s.cap := rfl
@[simp] theorem State.updTile_capSince : (s.updTile k f).capSince = s.capSince := rfl
end

section
variable (s : State) (k : Nat) (f : Pitch → Pitch)
@[simp] theorem State.updPitch_agenda : (s.updPitch k f).agenda = s.agenda := rfl
@[simp] theorem State.updPitch_cur : (s.updPitch k f).cur = s.cur := rfl
@[simp] theorem State.updPitch_freeCtr : (s.updPitch k f).freeCtr = s.freeCtr := rfl
@[simp] theorem State.updPitch_late : (s.updPitch k f).late = s.late := rfl
@[simp] theorem State.updPitch_cycle : (s.updPitch k f).cycle = s.cycle := rfl
@[simp] theorem State.updPitch_edges : (s.updPitch k f).edges = s.edges := rfl
@[simp] theorem State.updPitch_edgeAcc : (s.updPitch k f).edgeAcc = s.edgeAcc := rfl
@[simp] theorem State.updPitch_edge : (s.updPitch k f).edge = s.edge := rfl
@[simp] theorem State.updPitch_power : (s.updPitch k f).power = s.power := rfl
@[simp] theorem State.updPitch_powerReq : (s.updPitch k f).powerReq = s.powerReq := rfl
@[simp] theorem State.updPitch_pkg : (s.updPitch k f).pkg = s.pkg := rfl
@[simp] theorem State.updPitch_incarnation : (s.updPitch k f).incarnation = s.incarnation := rfl
@[simp] theorem State.updPitch_mem : (s.updPitch k f).mem = s.mem := rfl
@[simp] theorem State.updPitch_olds : (s.updPitch k f).olds = s.olds := rfl
@[simp] theorem State.updPitch_lineKey : (s.updPitch k f).lineKey = s.lineKey := rfl
@[simp] theorem State.updPitch_lineRes : (s.updPitch k f).lineRes = s.lineRes := rfl
@[simp] theorem State.updPitch_poison : (s.updPitch k f).poison = s.poison := rfl
@[simp] theorem State.updPitch_pins : (s.updPitch k f).pins = s.pins := rfl
@[simp] theorem State.updPitch_tlb : (s.updPitch k f).tlb = s.tlb := rfl
@[simp] theorem State.updPitch_strands : (s.updPitch k f).strands = s.strands := rfl
@[simp] theorem State.updPitch_tiles : (s.updPitch k f).tiles = s.tiles := rfl
@[simp] theorem State.updPitch_chans : (s.updPitch k f).chans = s.chans := rfl
@[simp] theorem State.updPitch_copies : (s.updPitch k f).copies = s.copies := rfl
@[simp] theorem State.updPitch_nextId : (s.updPitch k f).nextId = s.nextId := rfl
@[simp] theorem State.updPitch_rows : (s.updPitch k f).rows = s.rows := rfl
@[simp] theorem State.updPitch_cols : (s.updPitch k f).cols = s.cols := rfl
@[simp] theorem State.updPitch_cbars : (s.updPitch k f).cbars = s.cbars := rfl
@[simp] theorem State.updPitch_arrivals : (s.updPitch k f).arrivals = s.arrivals := rfl
@[simp] theorem State.updPitch_instCtr : (s.updPitch k f).instCtr = s.instCtr := rfl
@[simp] theorem State.updPitch_templates : (s.updPitch k f).templates = s.templates := rfl
@[simp] theorem State.updPitch_insts : (s.updPitch k f).insts = s.insts := rfl
@[simp] theorem State.updPitch_recs : (s.updPitch k f).recs = s.recs := rfl
@[simp] theorem State.updPitch_msgs : (s.updPitch k f).msgs = s.msgs := rfl
@[simp] theorem State.updPitch_disp : (s.updPitch k f).disp = s.disp := rfl
@[simp] theorem State.updPitch_cores : (s.updPitch k f).cores = s.cores := rfl
@[simp] theorem State.updPitch_dbgTref : (s.updPitch k f).dbgTref = s.dbgTref := rfl
@[simp] theorem State.updPitch_bps : (s.updPitch k f).bps = s.bps := rfl
@[simp] theorem State.updPitch_swbuf : (s.updPitch k f).swbuf = s.swbuf := rfl
@[simp] theorem State.updPitch_cesTh : (s.updPitch k f).cesTh = s.cesTh := rfl
@[simp] theorem State.updPitch_outbox : (s.updPitch k f).outbox = s.outbox := rfl
@[simp] theorem State.updPitch_heldPkts : (s.updPitch k f).heldPkts = s.heldPkts := rfl
@[simp] theorem State.updPitch_peers : (s.updPitch k f).peers = s.peers := rfl
@[simp] theorem State.updPitch_joins : (s.updPitch k f).joins = s.joins := rfl
@[simp] theorem State.updPitch_podOut : (s.updPitch k f).podOut = s.podOut := rfl
@[simp] theorem State.updPitch_links : (s.updPitch k f).links = s.links := rfl
@[simp] theorem State.updPitch_lnksel : (s.updPitch k f).lnksel = s.lnksel := rfl
@[simp] theorem State.updPitch_lnkspth : (s.updPitch k f).lnkspth = s.lnkspth := rfl
@[simp] theorem State.updPitch_announced : (s.updPitch k f).announced = s.announced := rfl
@[simp] theorem State.updPitch_posts : (s.updPitch k f).posts = s.posts := rfl
@[simp] theorem State.updPitch_congs : (s.updPitch k f).congs = s.congs := rfl
@[simp] theorem State.updPitch_cqs : (s.updPitch k f).cqs = s.cqs := rfl
@[simp] theorem State.updPitch_truss : (s.updPitch k f).truss = s.truss := rfl
@[simp] theorem State.updPitch_groups : (s.updPitch k f).groups = s.groups := rfl
@[simp] theorem State.updPitch_colls : (s.updPitch k f).colls = s.colls := rfl
@[simp] theorem State.updPitch_chunks : (s.updPitch k f).chunks = s.chunks := rfl
@[simp] theorem State.updPitch_packets : (s.updPitch k f).packets = s.packets := rfl
@[simp] theorem State.updPitch_trussBad : (s.updPitch k f).trussBad = s.trussBad := rfl
@[simp] theorem State.updPitch_trussDead : (s.updPitch k f).trussDead = s.trussDead := rfl
@[simp] theorem State.updPitch_queues : (s.updPitch k f).queues = s.queues := rfl
@[simp] theorem State.updPitch_ingress : (s.updPitch k f).ingress = s.ingress := rfl
@[simp] theorem State.updPitch_handlers : (s.updPitch k f).handlers = s.handlers := rfl
@[simp] theorem State.updPitch_badTiles : (s.updPitch k f).badTiles = s.badTiles := rfl
@[simp] theorem State.updPitch_badGrans : (s.updPitch k f).badGrans = s.badGrans := rfl
@[simp] theorem State.updPitch_badChans : (s.updPitch k f).badChans = s.badChans := rfl
@[simp] theorem State.updPitch_copyNo : (s.updPitch k f).copyNo = s.copyNo := rfl
@[simp] theorem State.updPitch_journal : (s.updPitch k f).journal = s.journal := rfl
@[simp] theorem State.updPitch_jcount : (s.updPitch k f).jcount = s.jcount := rfl
@[simp] theorem State.updPitch_recovery : (s.updPitch k f).recovery = s.recovery := rfl
@[simp] theorem State.updPitch_modChain : (s.updPitch k f).modChain = s.modChain := rfl
@[simp] theorem State.updPitch_cap : (s.updPitch k f).cap = s.cap := rfl
@[simp] theorem State.updPitch_capSince : (s.updPitch k f).capSince = s.capSince := rfl
end

section
variable (s : State) (k : Nat) (f : Rec → Rec)
@[simp] theorem State.updRec_agenda : (s.updRec k f).agenda = s.agenda := rfl
@[simp] theorem State.updRec_cur : (s.updRec k f).cur = s.cur := rfl
@[simp] theorem State.updRec_freeCtr : (s.updRec k f).freeCtr = s.freeCtr := rfl
@[simp] theorem State.updRec_late : (s.updRec k f).late = s.late := rfl
@[simp] theorem State.updRec_cycle : (s.updRec k f).cycle = s.cycle := rfl
@[simp] theorem State.updRec_edges : (s.updRec k f).edges = s.edges := rfl
@[simp] theorem State.updRec_edgeAcc : (s.updRec k f).edgeAcc = s.edgeAcc := rfl
@[simp] theorem State.updRec_edge : (s.updRec k f).edge = s.edge := rfl
@[simp] theorem State.updRec_power : (s.updRec k f).power = s.power := rfl
@[simp] theorem State.updRec_powerReq : (s.updRec k f).powerReq = s.powerReq := rfl
@[simp] theorem State.updRec_pkg : (s.updRec k f).pkg = s.pkg := rfl
@[simp] theorem State.updRec_incarnation : (s.updRec k f).incarnation = s.incarnation := rfl
@[simp] theorem State.updRec_mem : (s.updRec k f).mem = s.mem := rfl
@[simp] theorem State.updRec_olds : (s.updRec k f).olds = s.olds := rfl
@[simp] theorem State.updRec_lineKey : (s.updRec k f).lineKey = s.lineKey := rfl
@[simp] theorem State.updRec_lineRes : (s.updRec k f).lineRes = s.lineRes := rfl
@[simp] theorem State.updRec_poison : (s.updRec k f).poison = s.poison := rfl
@[simp] theorem State.updRec_pins : (s.updRec k f).pins = s.pins := rfl
@[simp] theorem State.updRec_tlb : (s.updRec k f).tlb = s.tlb := rfl
@[simp] theorem State.updRec_strands : (s.updRec k f).strands = s.strands := rfl
@[simp] theorem State.updRec_tiles : (s.updRec k f).tiles = s.tiles := rfl
@[simp] theorem State.updRec_chans : (s.updRec k f).chans = s.chans := rfl
@[simp] theorem State.updRec_copies : (s.updRec k f).copies = s.copies := rfl
@[simp] theorem State.updRec_nextId : (s.updRec k f).nextId = s.nextId := rfl
@[simp] theorem State.updRec_rows : (s.updRec k f).rows = s.rows := rfl
@[simp] theorem State.updRec_cols : (s.updRec k f).cols = s.cols := rfl
@[simp] theorem State.updRec_cbars : (s.updRec k f).cbars = s.cbars := rfl
@[simp] theorem State.updRec_arrivals : (s.updRec k f).arrivals = s.arrivals := rfl
@[simp] theorem State.updRec_instCtr : (s.updRec k f).instCtr = s.instCtr := rfl
@[simp] theorem State.updRec_templates : (s.updRec k f).templates = s.templates := rfl
@[simp] theorem State.updRec_insts : (s.updRec k f).insts = s.insts := rfl
@[simp] theorem State.updRec_msgs : (s.updRec k f).msgs = s.msgs := rfl
@[simp] theorem State.updRec_disp : (s.updRec k f).disp = s.disp := rfl
@[simp] theorem State.updRec_pitches : (s.updRec k f).pitches = s.pitches := rfl
@[simp] theorem State.updRec_cores : (s.updRec k f).cores = s.cores := rfl
@[simp] theorem State.updRec_dbgTref : (s.updRec k f).dbgTref = s.dbgTref := rfl
@[simp] theorem State.updRec_bps : (s.updRec k f).bps = s.bps := rfl
@[simp] theorem State.updRec_swbuf : (s.updRec k f).swbuf = s.swbuf := rfl
@[simp] theorem State.updRec_cesTh : (s.updRec k f).cesTh = s.cesTh := rfl
@[simp] theorem State.updRec_outbox : (s.updRec k f).outbox = s.outbox := rfl
@[simp] theorem State.updRec_heldPkts : (s.updRec k f).heldPkts = s.heldPkts := rfl
@[simp] theorem State.updRec_peers : (s.updRec k f).peers = s.peers := rfl
@[simp] theorem State.updRec_joins : (s.updRec k f).joins = s.joins := rfl
@[simp] theorem State.updRec_podOut : (s.updRec k f).podOut = s.podOut := rfl
@[simp] theorem State.updRec_links : (s.updRec k f).links = s.links := rfl
@[simp] theorem State.updRec_lnksel : (s.updRec k f).lnksel = s.lnksel := rfl
@[simp] theorem State.updRec_lnkspth : (s.updRec k f).lnkspth = s.lnkspth := rfl
@[simp] theorem State.updRec_announced : (s.updRec k f).announced = s.announced := rfl
@[simp] theorem State.updRec_posts : (s.updRec k f).posts = s.posts := rfl
@[simp] theorem State.updRec_congs : (s.updRec k f).congs = s.congs := rfl
@[simp] theorem State.updRec_cqs : (s.updRec k f).cqs = s.cqs := rfl
@[simp] theorem State.updRec_truss : (s.updRec k f).truss = s.truss := rfl
@[simp] theorem State.updRec_groups : (s.updRec k f).groups = s.groups := rfl
@[simp] theorem State.updRec_colls : (s.updRec k f).colls = s.colls := rfl
@[simp] theorem State.updRec_chunks : (s.updRec k f).chunks = s.chunks := rfl
@[simp] theorem State.updRec_packets : (s.updRec k f).packets = s.packets := rfl
@[simp] theorem State.updRec_trussBad : (s.updRec k f).trussBad = s.trussBad := rfl
@[simp] theorem State.updRec_trussDead : (s.updRec k f).trussDead = s.trussDead := rfl
@[simp] theorem State.updRec_queues : (s.updRec k f).queues = s.queues := rfl
@[simp] theorem State.updRec_ingress : (s.updRec k f).ingress = s.ingress := rfl
@[simp] theorem State.updRec_handlers : (s.updRec k f).handlers = s.handlers := rfl
@[simp] theorem State.updRec_badTiles : (s.updRec k f).badTiles = s.badTiles := rfl
@[simp] theorem State.updRec_badGrans : (s.updRec k f).badGrans = s.badGrans := rfl
@[simp] theorem State.updRec_badChans : (s.updRec k f).badChans = s.badChans := rfl
@[simp] theorem State.updRec_copyNo : (s.updRec k f).copyNo = s.copyNo := rfl
@[simp] theorem State.updRec_journal : (s.updRec k f).journal = s.journal := rfl
@[simp] theorem State.updRec_jcount : (s.updRec k f).jcount = s.jcount := rfl
@[simp] theorem State.updRec_recovery : (s.updRec k f).recovery = s.recovery := rfl
@[simp] theorem State.updRec_modChain : (s.updRec k f).modChain = s.modChain := rfl
@[simp] theorem State.updRec_cap : (s.updRec k f).cap = s.cap := rfl
@[simp] theorem State.updRec_capSince : (s.updRec k f).capSince = s.capSince := rfl
end

section
variable (s : State) (k : Nat) (f : Chan → Chan)
@[simp] theorem State.updChan_agenda : (s.updChan k f).agenda = s.agenda := rfl
@[simp] theorem State.updChan_cur : (s.updChan k f).cur = s.cur := rfl
@[simp] theorem State.updChan_freeCtr : (s.updChan k f).freeCtr = s.freeCtr := rfl
@[simp] theorem State.updChan_late : (s.updChan k f).late = s.late := rfl
@[simp] theorem State.updChan_cycle : (s.updChan k f).cycle = s.cycle := rfl
@[simp] theorem State.updChan_edges : (s.updChan k f).edges = s.edges := rfl
@[simp] theorem State.updChan_edgeAcc : (s.updChan k f).edgeAcc = s.edgeAcc := rfl
@[simp] theorem State.updChan_edge : (s.updChan k f).edge = s.edge := rfl
@[simp] theorem State.updChan_power : (s.updChan k f).power = s.power := rfl
@[simp] theorem State.updChan_powerReq : (s.updChan k f).powerReq = s.powerReq := rfl
@[simp] theorem State.updChan_pkg : (s.updChan k f).pkg = s.pkg := rfl
@[simp] theorem State.updChan_incarnation : (s.updChan k f).incarnation = s.incarnation := rfl
@[simp] theorem State.updChan_mem : (s.updChan k f).mem = s.mem := rfl
@[simp] theorem State.updChan_olds : (s.updChan k f).olds = s.olds := rfl
@[simp] theorem State.updChan_lineKey : (s.updChan k f).lineKey = s.lineKey := rfl
@[simp] theorem State.updChan_lineRes : (s.updChan k f).lineRes = s.lineRes := rfl
@[simp] theorem State.updChan_poison : (s.updChan k f).poison = s.poison := rfl
@[simp] theorem State.updChan_pins : (s.updChan k f).pins = s.pins := rfl
@[simp] theorem State.updChan_tlb : (s.updChan k f).tlb = s.tlb := rfl
@[simp] theorem State.updChan_strands : (s.updChan k f).strands = s.strands := rfl
@[simp] theorem State.updChan_tiles : (s.updChan k f).tiles = s.tiles := rfl
@[simp] theorem State.updChan_copies : (s.updChan k f).copies = s.copies := rfl
@[simp] theorem State.updChan_nextId : (s.updChan k f).nextId = s.nextId := rfl
@[simp] theorem State.updChan_rows : (s.updChan k f).rows = s.rows := rfl
@[simp] theorem State.updChan_cols : (s.updChan k f).cols = s.cols := rfl
@[simp] theorem State.updChan_cbars : (s.updChan k f).cbars = s.cbars := rfl
@[simp] theorem State.updChan_arrivals : (s.updChan k f).arrivals = s.arrivals := rfl
@[simp] theorem State.updChan_instCtr : (s.updChan k f).instCtr = s.instCtr := rfl
@[simp] theorem State.updChan_templates : (s.updChan k f).templates = s.templates := rfl
@[simp] theorem State.updChan_insts : (s.updChan k f).insts = s.insts := rfl
@[simp] theorem State.updChan_recs : (s.updChan k f).recs = s.recs := rfl
@[simp] theorem State.updChan_msgs : (s.updChan k f).msgs = s.msgs := rfl
@[simp] theorem State.updChan_disp : (s.updChan k f).disp = s.disp := rfl
@[simp] theorem State.updChan_pitches : (s.updChan k f).pitches = s.pitches := rfl
@[simp] theorem State.updChan_cores : (s.updChan k f).cores = s.cores := rfl
@[simp] theorem State.updChan_dbgTref : (s.updChan k f).dbgTref = s.dbgTref := rfl
@[simp] theorem State.updChan_bps : (s.updChan k f).bps = s.bps := rfl
@[simp] theorem State.updChan_swbuf : (s.updChan k f).swbuf = s.swbuf := rfl
@[simp] theorem State.updChan_cesTh : (s.updChan k f).cesTh = s.cesTh := rfl
@[simp] theorem State.updChan_outbox : (s.updChan k f).outbox = s.outbox := rfl
@[simp] theorem State.updChan_heldPkts : (s.updChan k f).heldPkts = s.heldPkts := rfl
@[simp] theorem State.updChan_peers : (s.updChan k f).peers = s.peers := rfl
@[simp] theorem State.updChan_joins : (s.updChan k f).joins = s.joins := rfl
@[simp] theorem State.updChan_podOut : (s.updChan k f).podOut = s.podOut := rfl
@[simp] theorem State.updChan_links : (s.updChan k f).links = s.links := rfl
@[simp] theorem State.updChan_lnksel : (s.updChan k f).lnksel = s.lnksel := rfl
@[simp] theorem State.updChan_lnkspth : (s.updChan k f).lnkspth = s.lnkspth := rfl
@[simp] theorem State.updChan_announced : (s.updChan k f).announced = s.announced := rfl
@[simp] theorem State.updChan_posts : (s.updChan k f).posts = s.posts := rfl
@[simp] theorem State.updChan_congs : (s.updChan k f).congs = s.congs := rfl
@[simp] theorem State.updChan_cqs : (s.updChan k f).cqs = s.cqs := rfl
@[simp] theorem State.updChan_truss : (s.updChan k f).truss = s.truss := rfl
@[simp] theorem State.updChan_groups : (s.updChan k f).groups = s.groups := rfl
@[simp] theorem State.updChan_colls : (s.updChan k f).colls = s.colls := rfl
@[simp] theorem State.updChan_chunks : (s.updChan k f).chunks = s.chunks := rfl
@[simp] theorem State.updChan_packets : (s.updChan k f).packets = s.packets := rfl
@[simp] theorem State.updChan_trussBad : (s.updChan k f).trussBad = s.trussBad := rfl
@[simp] theorem State.updChan_trussDead : (s.updChan k f).trussDead = s.trussDead := rfl
@[simp] theorem State.updChan_queues : (s.updChan k f).queues = s.queues := rfl
@[simp] theorem State.updChan_ingress : (s.updChan k f).ingress = s.ingress := rfl
@[simp] theorem State.updChan_handlers : (s.updChan k f).handlers = s.handlers := rfl
@[simp] theorem State.updChan_badTiles : (s.updChan k f).badTiles = s.badTiles := rfl
@[simp] theorem State.updChan_badGrans : (s.updChan k f).badGrans = s.badGrans := rfl
@[simp] theorem State.updChan_badChans : (s.updChan k f).badChans = s.badChans := rfl
@[simp] theorem State.updChan_copyNo : (s.updChan k f).copyNo = s.copyNo := rfl
@[simp] theorem State.updChan_journal : (s.updChan k f).journal = s.journal := rfl
@[simp] theorem State.updChan_jcount : (s.updChan k f).jcount = s.jcount := rfl
@[simp] theorem State.updChan_recovery : (s.updChan k f).recovery = s.recovery := rfl
@[simp] theorem State.updChan_modChain : (s.updChan k f).modChain = s.modChain := rfl
@[simp] theorem State.updChan_cap : (s.updChan k f).cap = s.cap := rfl
@[simp] theorem State.updChan_capSince : (s.updChan k f).capSince = s.capSince := rfl
end

section
variable (s : State) (k : Nat) (f : Core → Core)
@[simp] theorem State.updCoreRegs_agenda : (s.updCoreRegs k f).agenda = s.agenda := rfl
@[simp] theorem State.updCoreRegs_cur : (s.updCoreRegs k f).cur = s.cur := rfl
@[simp] theorem State.updCoreRegs_freeCtr : (s.updCoreRegs k f).freeCtr = s.freeCtr := rfl
@[simp] theorem State.updCoreRegs_late : (s.updCoreRegs k f).late = s.late := rfl
@[simp] theorem State.updCoreRegs_cycle : (s.updCoreRegs k f).cycle = s.cycle := rfl
@[simp] theorem State.updCoreRegs_edges : (s.updCoreRegs k f).edges = s.edges := rfl
@[simp] theorem State.updCoreRegs_edgeAcc : (s.updCoreRegs k f).edgeAcc = s.edgeAcc := rfl
@[simp] theorem State.updCoreRegs_edge : (s.updCoreRegs k f).edge = s.edge := rfl
@[simp] theorem State.updCoreRegs_power : (s.updCoreRegs k f).power = s.power := rfl
@[simp] theorem State.updCoreRegs_powerReq : (s.updCoreRegs k f).powerReq = s.powerReq := rfl
@[simp] theorem State.updCoreRegs_pkg : (s.updCoreRegs k f).pkg = s.pkg := rfl
@[simp] theorem State.updCoreRegs_incarnation : (s.updCoreRegs k f).incarnation = s.incarnation := rfl
@[simp] theorem State.updCoreRegs_mem : (s.updCoreRegs k f).mem = s.mem := rfl
@[simp] theorem State.updCoreRegs_olds : (s.updCoreRegs k f).olds = s.olds := rfl
@[simp] theorem State.updCoreRegs_lineKey : (s.updCoreRegs k f).lineKey = s.lineKey := rfl
@[simp] theorem State.updCoreRegs_lineRes : (s.updCoreRegs k f).lineRes = s.lineRes := rfl
@[simp] theorem State.updCoreRegs_poison : (s.updCoreRegs k f).poison = s.poison := rfl
@[simp] theorem State.updCoreRegs_pins : (s.updCoreRegs k f).pins = s.pins := rfl
@[simp] theorem State.updCoreRegs_tlb : (s.updCoreRegs k f).tlb = s.tlb := rfl
@[simp] theorem State.updCoreRegs_strands : (s.updCoreRegs k f).strands = s.strands := rfl
@[simp] theorem State.updCoreRegs_tiles : (s.updCoreRegs k f).tiles = s.tiles := rfl
@[simp] theorem State.updCoreRegs_chans : (s.updCoreRegs k f).chans = s.chans := rfl
@[simp] theorem State.updCoreRegs_copies : (s.updCoreRegs k f).copies = s.copies := rfl
@[simp] theorem State.updCoreRegs_nextId : (s.updCoreRegs k f).nextId = s.nextId := rfl
@[simp] theorem State.updCoreRegs_rows : (s.updCoreRegs k f).rows = s.rows := rfl
@[simp] theorem State.updCoreRegs_cols : (s.updCoreRegs k f).cols = s.cols := rfl
@[simp] theorem State.updCoreRegs_cbars : (s.updCoreRegs k f).cbars = s.cbars := rfl
@[simp] theorem State.updCoreRegs_arrivals : (s.updCoreRegs k f).arrivals = s.arrivals := rfl
@[simp] theorem State.updCoreRegs_instCtr : (s.updCoreRegs k f).instCtr = s.instCtr := rfl
@[simp] theorem State.updCoreRegs_templates : (s.updCoreRegs k f).templates = s.templates := rfl
@[simp] theorem State.updCoreRegs_insts : (s.updCoreRegs k f).insts = s.insts := rfl
@[simp] theorem State.updCoreRegs_recs : (s.updCoreRegs k f).recs = s.recs := rfl
@[simp] theorem State.updCoreRegs_msgs : (s.updCoreRegs k f).msgs = s.msgs := rfl
@[simp] theorem State.updCoreRegs_disp : (s.updCoreRegs k f).disp = s.disp := rfl
@[simp] theorem State.updCoreRegs_pitches : (s.updCoreRegs k f).pitches = s.pitches := rfl
@[simp] theorem State.updCoreRegs_dbgTref : (s.updCoreRegs k f).dbgTref = s.dbgTref := rfl
@[simp] theorem State.updCoreRegs_bps : (s.updCoreRegs k f).bps = s.bps := rfl
@[simp] theorem State.updCoreRegs_swbuf : (s.updCoreRegs k f).swbuf = s.swbuf := rfl
@[simp] theorem State.updCoreRegs_cesTh : (s.updCoreRegs k f).cesTh = s.cesTh := rfl
@[simp] theorem State.updCoreRegs_outbox : (s.updCoreRegs k f).outbox = s.outbox := rfl
@[simp] theorem State.updCoreRegs_heldPkts : (s.updCoreRegs k f).heldPkts = s.heldPkts := rfl
@[simp] theorem State.updCoreRegs_peers : (s.updCoreRegs k f).peers = s.peers := rfl
@[simp] theorem State.updCoreRegs_joins : (s.updCoreRegs k f).joins = s.joins := rfl
@[simp] theorem State.updCoreRegs_podOut : (s.updCoreRegs k f).podOut = s.podOut := rfl
@[simp] theorem State.updCoreRegs_links : (s.updCoreRegs k f).links = s.links := rfl
@[simp] theorem State.updCoreRegs_lnksel : (s.updCoreRegs k f).lnksel = s.lnksel := rfl
@[simp] theorem State.updCoreRegs_lnkspth : (s.updCoreRegs k f).lnkspth = s.lnkspth := rfl
@[simp] theorem State.updCoreRegs_announced : (s.updCoreRegs k f).announced = s.announced := rfl
@[simp] theorem State.updCoreRegs_posts : (s.updCoreRegs k f).posts = s.posts := rfl
@[simp] theorem State.updCoreRegs_congs : (s.updCoreRegs k f).congs = s.congs := rfl
@[simp] theorem State.updCoreRegs_cqs : (s.updCoreRegs k f).cqs = s.cqs := rfl
@[simp] theorem State.updCoreRegs_truss : (s.updCoreRegs k f).truss = s.truss := rfl
@[simp] theorem State.updCoreRegs_groups : (s.updCoreRegs k f).groups = s.groups := rfl
@[simp] theorem State.updCoreRegs_colls : (s.updCoreRegs k f).colls = s.colls := rfl
@[simp] theorem State.updCoreRegs_chunks : (s.updCoreRegs k f).chunks = s.chunks := rfl
@[simp] theorem State.updCoreRegs_packets : (s.updCoreRegs k f).packets = s.packets := rfl
@[simp] theorem State.updCoreRegs_trussBad : (s.updCoreRegs k f).trussBad = s.trussBad := rfl
@[simp] theorem State.updCoreRegs_trussDead : (s.updCoreRegs k f).trussDead = s.trussDead := rfl
@[simp] theorem State.updCoreRegs_queues : (s.updCoreRegs k f).queues = s.queues := rfl
@[simp] theorem State.updCoreRegs_ingress : (s.updCoreRegs k f).ingress = s.ingress := rfl
@[simp] theorem State.updCoreRegs_handlers : (s.updCoreRegs k f).handlers = s.handlers := rfl
@[simp] theorem State.updCoreRegs_badTiles : (s.updCoreRegs k f).badTiles = s.badTiles := rfl
@[simp] theorem State.updCoreRegs_badGrans : (s.updCoreRegs k f).badGrans = s.badGrans := rfl
@[simp] theorem State.updCoreRegs_badChans : (s.updCoreRegs k f).badChans = s.badChans := rfl
@[simp] theorem State.updCoreRegs_copyNo : (s.updCoreRegs k f).copyNo = s.copyNo := rfl
@[simp] theorem State.updCoreRegs_journal : (s.updCoreRegs k f).journal = s.journal := rfl
@[simp] theorem State.updCoreRegs_jcount : (s.updCoreRegs k f).jcount = s.jcount := rfl
@[simp] theorem State.updCoreRegs_recovery : (s.updCoreRegs k f).recovery = s.recovery := rfl
@[simp] theorem State.updCoreRegs_modChain : (s.updCoreRegs k f).modChain = s.modChain := rfl
@[simp] theorem State.updCoreRegs_cap : (s.updCoreRegs k f).cap = s.cap := rfl
@[simp] theorem State.updCoreRegs_capSince : (s.updCoreRegs k f).capSince = s.capSince := rfl
end

section
variable (s : State) (c : List (Nat × Byte))
@[simp] theorem State.putCells_agenda : (s.putCells c).agenda = s.agenda := rfl
@[simp] theorem State.putCells_cur : (s.putCells c).cur = s.cur := rfl
@[simp] theorem State.putCells_freeCtr : (s.putCells c).freeCtr = s.freeCtr := rfl
@[simp] theorem State.putCells_late : (s.putCells c).late = s.late := rfl
@[simp] theorem State.putCells_cycle : (s.putCells c).cycle = s.cycle := rfl
@[simp] theorem State.putCells_edges : (s.putCells c).edges = s.edges := rfl
@[simp] theorem State.putCells_edgeAcc : (s.putCells c).edgeAcc = s.edgeAcc := rfl
@[simp] theorem State.putCells_edge : (s.putCells c).edge = s.edge := rfl
@[simp] theorem State.putCells_power : (s.putCells c).power = s.power := rfl
@[simp] theorem State.putCells_powerReq : (s.putCells c).powerReq = s.powerReq := rfl
@[simp] theorem State.putCells_pkg : (s.putCells c).pkg = s.pkg := rfl
@[simp] theorem State.putCells_incarnation : (s.putCells c).incarnation = s.incarnation := rfl
@[simp] theorem State.putCells_lineKey : (s.putCells c).lineKey = s.lineKey := rfl
@[simp] theorem State.putCells_lineRes : (s.putCells c).lineRes = s.lineRes := rfl
@[simp] theorem State.putCells_poison : (s.putCells c).poison = s.poison := rfl
@[simp] theorem State.putCells_pins : (s.putCells c).pins = s.pins := rfl
@[simp] theorem State.putCells_tlb : (s.putCells c).tlb = s.tlb := rfl
@[simp] theorem State.putCells_strands : (s.putCells c).strands = s.strands := rfl
@[simp] theorem State.putCells_tiles : (s.putCells c).tiles = s.tiles := rfl
@[simp] theorem State.putCells_chans : (s.putCells c).chans = s.chans := rfl
@[simp] theorem State.putCells_copies : (s.putCells c).copies = s.copies := rfl
@[simp] theorem State.putCells_nextId : (s.putCells c).nextId = s.nextId := rfl
@[simp] theorem State.putCells_rows : (s.putCells c).rows = s.rows := rfl
@[simp] theorem State.putCells_cols : (s.putCells c).cols = s.cols := rfl
@[simp] theorem State.putCells_cbars : (s.putCells c).cbars = s.cbars := rfl
@[simp] theorem State.putCells_arrivals : (s.putCells c).arrivals = s.arrivals := rfl
@[simp] theorem State.putCells_instCtr : (s.putCells c).instCtr = s.instCtr := rfl
@[simp] theorem State.putCells_templates : (s.putCells c).templates = s.templates := rfl
@[simp] theorem State.putCells_insts : (s.putCells c).insts = s.insts := rfl
@[simp] theorem State.putCells_recs : (s.putCells c).recs = s.recs := rfl
@[simp] theorem State.putCells_msgs : (s.putCells c).msgs = s.msgs := rfl
@[simp] theorem State.putCells_disp : (s.putCells c).disp = s.disp := rfl
@[simp] theorem State.putCells_pitches : (s.putCells c).pitches = s.pitches := rfl
@[simp] theorem State.putCells_cores : (s.putCells c).cores = s.cores := rfl
@[simp] theorem State.putCells_dbgTref : (s.putCells c).dbgTref = s.dbgTref := rfl
@[simp] theorem State.putCells_bps : (s.putCells c).bps = s.bps := rfl
@[simp] theorem State.putCells_swbuf : (s.putCells c).swbuf = s.swbuf := rfl
@[simp] theorem State.putCells_cesTh : (s.putCells c).cesTh = s.cesTh := rfl
@[simp] theorem State.putCells_outbox : (s.putCells c).outbox = s.outbox := rfl
@[simp] theorem State.putCells_heldPkts : (s.putCells c).heldPkts = s.heldPkts := rfl
@[simp] theorem State.putCells_peers : (s.putCells c).peers = s.peers := rfl
@[simp] theorem State.putCells_joins : (s.putCells c).joins = s.joins := rfl
@[simp] theorem State.putCells_podOut : (s.putCells c).podOut = s.podOut := rfl
@[simp] theorem State.putCells_links : (s.putCells c).links = s.links := rfl
@[simp] theorem State.putCells_lnksel : (s.putCells c).lnksel = s.lnksel := rfl
@[simp] theorem State.putCells_lnkspth : (s.putCells c).lnkspth = s.lnkspth := rfl
@[simp] theorem State.putCells_announced : (s.putCells c).announced = s.announced := rfl
@[simp] theorem State.putCells_posts : (s.putCells c).posts = s.posts := rfl
@[simp] theorem State.putCells_congs : (s.putCells c).congs = s.congs := rfl
@[simp] theorem State.putCells_cqs : (s.putCells c).cqs = s.cqs := rfl
@[simp] theorem State.putCells_truss : (s.putCells c).truss = s.truss := rfl
@[simp] theorem State.putCells_groups : (s.putCells c).groups = s.groups := rfl
@[simp] theorem State.putCells_colls : (s.putCells c).colls = s.colls := rfl
@[simp] theorem State.putCells_chunks : (s.putCells c).chunks = s.chunks := rfl
@[simp] theorem State.putCells_packets : (s.putCells c).packets = s.packets := rfl
@[simp] theorem State.putCells_trussBad : (s.putCells c).trussBad = s.trussBad := rfl
@[simp] theorem State.putCells_trussDead : (s.putCells c).trussDead = s.trussDead := rfl
@[simp] theorem State.putCells_queues : (s.putCells c).queues = s.queues := rfl
@[simp] theorem State.putCells_ingress : (s.putCells c).ingress = s.ingress := rfl
@[simp] theorem State.putCells_handlers : (s.putCells c).handlers = s.handlers := rfl
@[simp] theorem State.putCells_badTiles : (s.putCells c).badTiles = s.badTiles := rfl
@[simp] theorem State.putCells_badGrans : (s.putCells c).badGrans = s.badGrans := rfl
@[simp] theorem State.putCells_badChans : (s.putCells c).badChans = s.badChans := rfl
@[simp] theorem State.putCells_copyNo : (s.putCells c).copyNo = s.copyNo := rfl
@[simp] theorem State.putCells_journal : (s.putCells c).journal = s.journal := rfl
@[simp] theorem State.putCells_jcount : (s.putCells c).jcount = s.jcount := rfl
@[simp] theorem State.putCells_recovery : (s.putCells c).recovery = s.recovery := rfl
@[simp] theorem State.putCells_modChain : (s.putCells c).modChain = s.modChain := rfl
@[simp] theorem State.putCells_cap : (s.putCells c).cap = s.cap := rfl
@[simp] theorem State.putCells_capSince : (s.putCells c).capSince = s.capSince := rfl
end

section
variable (s : State) (k : Nat) (b : List Byte)
@[simp] theorem State.wrBytes_agenda : (s.wrBytes k b).agenda = s.agenda := rfl
@[simp] theorem State.wrBytes_cur : (s.wrBytes k b).cur = s.cur := rfl
@[simp] theorem State.wrBytes_freeCtr : (s.wrBytes k b).freeCtr = s.freeCtr := rfl
@[simp] theorem State.wrBytes_late : (s.wrBytes k b).late = s.late := rfl
@[simp] theorem State.wrBytes_cycle : (s.wrBytes k b).cycle = s.cycle := rfl
@[simp] theorem State.wrBytes_edges : (s.wrBytes k b).edges = s.edges := rfl
@[simp] theorem State.wrBytes_edgeAcc : (s.wrBytes k b).edgeAcc = s.edgeAcc := rfl
@[simp] theorem State.wrBytes_edge : (s.wrBytes k b).edge = s.edge := rfl
@[simp] theorem State.wrBytes_power : (s.wrBytes k b).power = s.power := rfl
@[simp] theorem State.wrBytes_powerReq : (s.wrBytes k b).powerReq = s.powerReq := rfl
@[simp] theorem State.wrBytes_pkg : (s.wrBytes k b).pkg = s.pkg := rfl
@[simp] theorem State.wrBytes_incarnation : (s.wrBytes k b).incarnation = s.incarnation := rfl
@[simp] theorem State.wrBytes_lineKey : (s.wrBytes k b).lineKey = s.lineKey := rfl
@[simp] theorem State.wrBytes_lineRes : (s.wrBytes k b).lineRes = s.lineRes := rfl
@[simp] theorem State.wrBytes_poison : (s.wrBytes k b).poison = s.poison := rfl
@[simp] theorem State.wrBytes_pins : (s.wrBytes k b).pins = s.pins := rfl
@[simp] theorem State.wrBytes_tlb : (s.wrBytes k b).tlb = s.tlb := rfl
@[simp] theorem State.wrBytes_strands : (s.wrBytes k b).strands = s.strands := rfl
@[simp] theorem State.wrBytes_tiles : (s.wrBytes k b).tiles = s.tiles := rfl
@[simp] theorem State.wrBytes_chans : (s.wrBytes k b).chans = s.chans := rfl
@[simp] theorem State.wrBytes_copies : (s.wrBytes k b).copies = s.copies := rfl
@[simp] theorem State.wrBytes_nextId : (s.wrBytes k b).nextId = s.nextId := rfl
@[simp] theorem State.wrBytes_rows : (s.wrBytes k b).rows = s.rows := rfl
@[simp] theorem State.wrBytes_cols : (s.wrBytes k b).cols = s.cols := rfl
@[simp] theorem State.wrBytes_cbars : (s.wrBytes k b).cbars = s.cbars := rfl
@[simp] theorem State.wrBytes_arrivals : (s.wrBytes k b).arrivals = s.arrivals := rfl
@[simp] theorem State.wrBytes_instCtr : (s.wrBytes k b).instCtr = s.instCtr := rfl
@[simp] theorem State.wrBytes_templates : (s.wrBytes k b).templates = s.templates := rfl
@[simp] theorem State.wrBytes_insts : (s.wrBytes k b).insts = s.insts := rfl
@[simp] theorem State.wrBytes_recs : (s.wrBytes k b).recs = s.recs := rfl
@[simp] theorem State.wrBytes_msgs : (s.wrBytes k b).msgs = s.msgs := rfl
@[simp] theorem State.wrBytes_disp : (s.wrBytes k b).disp = s.disp := rfl
@[simp] theorem State.wrBytes_pitches : (s.wrBytes k b).pitches = s.pitches := rfl
@[simp] theorem State.wrBytes_cores : (s.wrBytes k b).cores = s.cores := rfl
@[simp] theorem State.wrBytes_dbgTref : (s.wrBytes k b).dbgTref = s.dbgTref := rfl
@[simp] theorem State.wrBytes_bps : (s.wrBytes k b).bps = s.bps := rfl
@[simp] theorem State.wrBytes_swbuf : (s.wrBytes k b).swbuf = s.swbuf := rfl
@[simp] theorem State.wrBytes_cesTh : (s.wrBytes k b).cesTh = s.cesTh := rfl
@[simp] theorem State.wrBytes_outbox : (s.wrBytes k b).outbox = s.outbox := rfl
@[simp] theorem State.wrBytes_heldPkts : (s.wrBytes k b).heldPkts = s.heldPkts := rfl
@[simp] theorem State.wrBytes_peers : (s.wrBytes k b).peers = s.peers := rfl
@[simp] theorem State.wrBytes_joins : (s.wrBytes k b).joins = s.joins := rfl
@[simp] theorem State.wrBytes_podOut : (s.wrBytes k b).podOut = s.podOut := rfl
@[simp] theorem State.wrBytes_links : (s.wrBytes k b).links = s.links := rfl
@[simp] theorem State.wrBytes_lnksel : (s.wrBytes k b).lnksel = s.lnksel := rfl
@[simp] theorem State.wrBytes_lnkspth : (s.wrBytes k b).lnkspth = s.lnkspth := rfl
@[simp] theorem State.wrBytes_announced : (s.wrBytes k b).announced = s.announced := rfl
@[simp] theorem State.wrBytes_posts : (s.wrBytes k b).posts = s.posts := rfl
@[simp] theorem State.wrBytes_congs : (s.wrBytes k b).congs = s.congs := rfl
@[simp] theorem State.wrBytes_cqs : (s.wrBytes k b).cqs = s.cqs := rfl
@[simp] theorem State.wrBytes_truss : (s.wrBytes k b).truss = s.truss := rfl
@[simp] theorem State.wrBytes_groups : (s.wrBytes k b).groups = s.groups := rfl
@[simp] theorem State.wrBytes_colls : (s.wrBytes k b).colls = s.colls := rfl
@[simp] theorem State.wrBytes_chunks : (s.wrBytes k b).chunks = s.chunks := rfl
@[simp] theorem State.wrBytes_packets : (s.wrBytes k b).packets = s.packets := rfl
@[simp] theorem State.wrBytes_trussBad : (s.wrBytes k b).trussBad = s.trussBad := rfl
@[simp] theorem State.wrBytes_trussDead : (s.wrBytes k b).trussDead = s.trussDead := rfl
@[simp] theorem State.wrBytes_queues : (s.wrBytes k b).queues = s.queues := rfl
@[simp] theorem State.wrBytes_ingress : (s.wrBytes k b).ingress = s.ingress := rfl
@[simp] theorem State.wrBytes_handlers : (s.wrBytes k b).handlers = s.handlers := rfl
@[simp] theorem State.wrBytes_badTiles : (s.wrBytes k b).badTiles = s.badTiles := rfl
@[simp] theorem State.wrBytes_badGrans : (s.wrBytes k b).badGrans = s.badGrans := rfl
@[simp] theorem State.wrBytes_badChans : (s.wrBytes k b).badChans = s.badChans := rfl
@[simp] theorem State.wrBytes_copyNo : (s.wrBytes k b).copyNo = s.copyNo := rfl
@[simp] theorem State.wrBytes_journal : (s.wrBytes k b).journal = s.journal := rfl
@[simp] theorem State.wrBytes_jcount : (s.wrBytes k b).jcount = s.jcount := rfl
@[simp] theorem State.wrBytes_recovery : (s.wrBytes k b).recovery = s.recovery := rfl
@[simp] theorem State.wrBytes_modChain : (s.wrBytes k b).modChain = s.modChain := rfl
@[simp] theorem State.wrBytes_cap : (s.wrBytes k b).cap = s.cap := rfl
@[simp] theorem State.wrBytes_capSince : (s.wrBytes k b).capSince = s.capSince := rfl
end

section
variable (s : State) (k n v : Nat)
@[simp] theorem State.wr_agenda : (s.wr k n v).agenda = s.agenda := rfl
@[simp] theorem State.wr_cur : (s.wr k n v).cur = s.cur := rfl
@[simp] theorem State.wr_freeCtr : (s.wr k n v).freeCtr = s.freeCtr := rfl
@[simp] theorem State.wr_late : (s.wr k n v).late = s.late := rfl
@[simp] theorem State.wr_cycle : (s.wr k n v).cycle = s.cycle := rfl
@[simp] theorem State.wr_edges : (s.wr k n v).edges = s.edges := rfl
@[simp] theorem State.wr_edgeAcc : (s.wr k n v).edgeAcc = s.edgeAcc := rfl
@[simp] theorem State.wr_edge : (s.wr k n v).edge = s.edge := rfl
@[simp] theorem State.wr_power : (s.wr k n v).power = s.power := rfl
@[simp] theorem State.wr_powerReq : (s.wr k n v).powerReq = s.powerReq := rfl
@[simp] theorem State.wr_pkg : (s.wr k n v).pkg = s.pkg := rfl
@[simp] theorem State.wr_incarnation : (s.wr k n v).incarnation = s.incarnation := rfl
@[simp] theorem State.wr_lineKey : (s.wr k n v).lineKey = s.lineKey := rfl
@[simp] theorem State.wr_lineRes : (s.wr k n v).lineRes = s.lineRes := rfl
@[simp] theorem State.wr_poison : (s.wr k n v).poison = s.poison := rfl
@[simp] theorem State.wr_pins : (s.wr k n v).pins = s.pins := rfl
@[simp] theorem State.wr_tlb : (s.wr k n v).tlb = s.tlb := rfl
@[simp] theorem State.wr_strands : (s.wr k n v).strands = s.strands := rfl
@[simp] theorem State.wr_tiles : (s.wr k n v).tiles = s.tiles := rfl
@[simp] theorem State.wr_chans : (s.wr k n v).chans = s.chans := rfl
@[simp] theorem State.wr_copies : (s.wr k n v).copies = s.copies := rfl
@[simp] theorem State.wr_nextId : (s.wr k n v).nextId = s.nextId := rfl
@[simp] theorem State.wr_rows : (s.wr k n v).rows = s.rows := rfl
@[simp] theorem State.wr_cols : (s.wr k n v).cols = s.cols := rfl
@[simp] theorem State.wr_cbars : (s.wr k n v).cbars = s.cbars := rfl
@[simp] theorem State.wr_arrivals : (s.wr k n v).arrivals = s.arrivals := rfl
@[simp] theorem State.wr_instCtr : (s.wr k n v).instCtr = s.instCtr := rfl
@[simp] theorem State.wr_templates : (s.wr k n v).templates = s.templates := rfl
@[simp] theorem State.wr_insts : (s.wr k n v).insts = s.insts := rfl
@[simp] theorem State.wr_recs : (s.wr k n v).recs = s.recs := rfl
@[simp] theorem State.wr_msgs : (s.wr k n v).msgs = s.msgs := rfl
@[simp] theorem State.wr_disp : (s.wr k n v).disp = s.disp := rfl
@[simp] theorem State.wr_pitches : (s.wr k n v).pitches = s.pitches := rfl
@[simp] theorem State.wr_cores : (s.wr k n v).cores = s.cores := rfl
@[simp] theorem State.wr_dbgTref : (s.wr k n v).dbgTref = s.dbgTref := rfl
@[simp] theorem State.wr_bps : (s.wr k n v).bps = s.bps := rfl
@[simp] theorem State.wr_swbuf : (s.wr k n v).swbuf = s.swbuf := rfl
@[simp] theorem State.wr_cesTh : (s.wr k n v).cesTh = s.cesTh := rfl
@[simp] theorem State.wr_outbox : (s.wr k n v).outbox = s.outbox := rfl
@[simp] theorem State.wr_heldPkts : (s.wr k n v).heldPkts = s.heldPkts := rfl
@[simp] theorem State.wr_peers : (s.wr k n v).peers = s.peers := rfl
@[simp] theorem State.wr_joins : (s.wr k n v).joins = s.joins := rfl
@[simp] theorem State.wr_podOut : (s.wr k n v).podOut = s.podOut := rfl
@[simp] theorem State.wr_links : (s.wr k n v).links = s.links := rfl
@[simp] theorem State.wr_lnksel : (s.wr k n v).lnksel = s.lnksel := rfl
@[simp] theorem State.wr_lnkspth : (s.wr k n v).lnkspth = s.lnkspth := rfl
@[simp] theorem State.wr_announced : (s.wr k n v).announced = s.announced := rfl
@[simp] theorem State.wr_posts : (s.wr k n v).posts = s.posts := rfl
@[simp] theorem State.wr_congs : (s.wr k n v).congs = s.congs := rfl
@[simp] theorem State.wr_cqs : (s.wr k n v).cqs = s.cqs := rfl
@[simp] theorem State.wr_truss : (s.wr k n v).truss = s.truss := rfl
@[simp] theorem State.wr_groups : (s.wr k n v).groups = s.groups := rfl
@[simp] theorem State.wr_colls : (s.wr k n v).colls = s.colls := rfl
@[simp] theorem State.wr_chunks : (s.wr k n v).chunks = s.chunks := rfl
@[simp] theorem State.wr_packets : (s.wr k n v).packets = s.packets := rfl
@[simp] theorem State.wr_trussBad : (s.wr k n v).trussBad = s.trussBad := rfl
@[simp] theorem State.wr_trussDead : (s.wr k n v).trussDead = s.trussDead := rfl
@[simp] theorem State.wr_queues : (s.wr k n v).queues = s.queues := rfl
@[simp] theorem State.wr_ingress : (s.wr k n v).ingress = s.ingress := rfl
@[simp] theorem State.wr_handlers : (s.wr k n v).handlers = s.handlers := rfl
@[simp] theorem State.wr_badTiles : (s.wr k n v).badTiles = s.badTiles := rfl
@[simp] theorem State.wr_badGrans : (s.wr k n v).badGrans = s.badGrans := rfl
@[simp] theorem State.wr_badChans : (s.wr k n v).badChans = s.badChans := rfl
@[simp] theorem State.wr_copyNo : (s.wr k n v).copyNo = s.copyNo := rfl
@[simp] theorem State.wr_journal : (s.wr k n v).journal = s.journal := rfl
@[simp] theorem State.wr_jcount : (s.wr k n v).jcount = s.jcount := rfl
@[simp] theorem State.wr_recovery : (s.wr k n v).recovery = s.recovery := rfl
@[simp] theorem State.wr_modChain : (s.wr k n v).modChain = s.modChain := rfl
@[simp] theorem State.wr_cap : (s.wr k n v).cap = s.cap := rfl
@[simp] theorem State.wr_capSince : (s.wr k n v).capSince = s.capSince := rfl
end

end Sys2Proof.Machine
end

