-- ==== Sys2Proof/Laws/Tables.lean ====
section
/-! SUPPORT. Tables.lean: tables and registers: what a read gives after a write. -/

namespace Sys2Proof.Machine

@[simp] theorem Tbl.find_put_self {α : Type} (a : Nat) (x : α) : ∀ t : Tbl α, Tbl.find (Tbl.put t a x) a = some x
  | [] => by simp [Tbl.put, Tbl.find]
  | (k, v) :: r => by
    by_cases h : k = a
    · simp [Tbl.put, Tbl.find, h]
    · by_cases hl : a < k
      · simp [Tbl.put, Tbl.find, h, hl]
      · simp [Tbl.put, Tbl.find, h, hl, Tbl.find_put_self a x r]

@[simp] theorem Tbl.find_put_ne {α : Type} {a b : Nat} (x : α) (h : b ≠ a) : ∀ t : Tbl α, Tbl.find (Tbl.put t a x) b = Tbl.find t b
  | [] => by simp [Tbl.put, Tbl.find, Ne.symm h]
  | (k, v) :: r => by
    by_cases hk : k = a
    · subst hk; simp [Tbl.put, Tbl.find, Ne.symm h]
    · by_cases hl : a < k
      · simp [Tbl.put, Tbl.find, hk, hl, Ne.symm h]
      · simp [Tbl.put, Tbl.find, hk, hl, Tbl.find_put_ne x h r]

theorem Tbl.mem_of_find {α : Type} {a : Nat} {x : α} : ∀ {t : Tbl α}, Tbl.find t a = some x → (a, x) ∈ t
  | [], h => by simp [Tbl.find] at h
  | (k, v) :: r, h => by
    simp only [Tbl.find] at h
    split at h
    · next e => cases h; subst e; exact List.mem_cons_self
    · exact List.mem_cons_of_mem _ (Tbl.mem_of_find h)
@[simp] theorem Tbl.get_put_self {α : Type} (t : Tbl α) (a : Nat) (x d : α) : Tbl.get (Tbl.put t a x) a d = x := by simp [Tbl.get]
theorem Tbl.get_put_ne {α : Type} (t : Tbl α) {a b : Nat} (x d : α) (h : b ≠ a) : Tbl.get (Tbl.put t a x) b d = Tbl.get t b d := by
  simp [Tbl.get, h]

/-! ## Strands and sequencers -/

@[simp] theorem State.strand_setStrand_self (s : State) (k : Nat) (x : Strand) : (s.setStrand k x).strand k = x := Tbl.get_put_self ..
theorem State.strand_setStrand_ne (s : State) {k j : Nat} (x : Strand) (h : j ≠ k) : (s.setStrand k x).strand j = s.strand j :=
  Tbl.get_put_ne _ _ _ h
@[simp] theorem State.strand_updStrand_self (s : State) (k : Nat) (f : Strand → Strand) :
    (s.updStrand k f).strand k = f (s.strand k) := Tbl.get_put_self ..
theorem State.strand_updStrand_ne (s : State) {k j : Nat} (f : Strand → Strand) (h : j ≠ k) :
    (s.updStrand k f).strand j = s.strand j := Tbl.get_put_ne _ _ _ h
@[simp] theorem State.me_updMe (s : State) (f : Strand → Strand) : (s.updMe f).me = f s.me := Tbl.get_put_self ..
@[simp] theorem State.core_updCore (s : State) (f : StrandCore → StrandCore) : (s.updCore f).core = f s.core := by
  simp [State.core, State.updCore]
@[simp] theorem StrandCore.seq_setSeq (c : StrandCore) (e : Bool) (q : Seq) : (c.setSeq e q).seq e = q := by
  cases e <;> rfl
@[simp] theorem StrandCore.seq_setSeq_not (c : StrandCore) (e : Bool) (q : Seq) : (c.setSeq e q).seq (!e) = c.seq (!e) := by
  cases e <;> rfl
@[simp] theorem State.seq_updSeq (s : State) (f : Seq → Seq) : (s.updSeq f).seq = f s.seq := by
  simp only [State.seq, State.updSeq, State.setSeq, State.core_updCore, State.updCore_cur, StrandCore.seq_setSeq]
@[simp] theorem State.seq_adv (s : State) : s.adv.seq = s.seq.adv := State.seq_updSeq ..
@[simp] theorem State.seq_block (s : State) (w : Wait) : (s.block w).seq.wait = some w := by simp [State.block]

/-! ## Other tables -/

@[simp] theorem State.tile_updTile_self (s : State) (k : Nat) (f : Tile → Tile) : (s.updTile k f).tile k = f (s.tile k) :=
  Tbl.get_put_self ..
theorem State.tile_updTile_ne (s : State) {k j : Nat} (f : Tile → Tile) (h : j ≠ k) : (s.updTile k f).tile j = s.tile j :=
  Tbl.get_put_ne _ _ _ h
@[simp] theorem State.pitch_updPitch_self (s : State) (k : Nat) (f : Pitch → Pitch) : (s.updPitch k f).pitch k = f (s.pitch k) :=
  Tbl.get_put_self ..
theorem State.pitch_updPitch_ne (s : State) {k j : Nat} (f : Pitch → Pitch) (h : j ≠ k) : (s.updPitch k f).pitch j = s.pitch j :=
  Tbl.get_put_ne _ _ _ h
@[simp] theorem State.recOf_updRec_self (s : State) (k : Nat) (f : Rec → Rec) : (s.updRec k f).recOf k = f (s.recOf k) :=
  Tbl.get_put_self ..
theorem State.recOf_updRec_ne (s : State) {k j : Nat} (f : Rec → Rec) (h : j ≠ k) : (s.updRec k f).recOf j = s.recOf j :=
  Tbl.get_put_ne _ _ _ h

/-! ## Reads that an update of another part leaves -/

@[simp] theorem State.tile_updStrand (s : State) (k j : Nat) (f : Strand → Strand) : (s.updStrand k f).tile j = s.tile j := rfl
@[simp] theorem State.pitch_updStrand (s : State) (k j : Nat) (f : Strand → Strand) : (s.updStrand k f).pitch j = s.pitch j := rfl
@[simp] theorem State.byte_updStrand (s : State) (k j : Nat) (f : Strand → Strand) : (s.updStrand k f).byte j = s.byte j := rfl
@[simp] theorem State.byte_updTile (s : State) (k j : Nat) (f : Tile → Tile) : (s.updTile k f).byte j = s.byte j := rfl
@[simp] theorem State.byte_updPitch (s : State) (k j : Nat) (f : Pitch → Pitch) : (s.updPitch k f).byte j = s.byte j := rfl
@[simp] theorem State.byte_updRec (s : State) (k j : Nat) (f : Rec → Rec) : (s.updRec k f).byte j = s.byte j := rfl
@[simp] theorem State.byte_updChan (s : State) (k j : Nat) (f : Chan → Chan) : (s.updChan k f).byte j = s.byte j := rfl
@[simp] theorem State.byte_adv (s : State) (j : Nat) : s.adv.byte j = s.byte j := rfl
@[simp] theorem State.byte_gPut (s : State) (r : BitVec 5) (v : Word) (j : Nat) : (s.gPut r v).byte j = s.byte j := rfl
@[simp] theorem State.strand_updTile (s : State) (k j : Nat) (f : Tile → Tile) : (s.updTile k f).strand j = s.strand j := rfl
@[simp] theorem State.strand_updPitch (s : State) (k j : Nat) (f : Pitch → Pitch) : (s.updPitch k f).strand j = s.strand j := rfl
@[simp] theorem State.strand_putCells (s : State) (c : List (Nat × Byte)) (j : Nat) : (s.putCells c).strand j = s.strand j := rfl
@[simp] theorem State.tile_putCells (s : State) (c : List (Nat × Byte)) (j : Nat) : (s.putCells c).tile j = s.tile j := rfl

end Sys2Proof.Machine
end

