-- ==== Sys2Proof/Laws/Ops.lean ====
section
/-! SUPPORT. Ops.lean: what each shared operation can do, said once: traps, faults, moving on, the checks at a block's entry,
and a step. -/

namespace Sys2Proof.Machine

/-- A trap (13: R334) stays pending in a save, parks the strand in a handler or without one, and enters the handler otherwise.
`held` is the state whose sequencer stands at the resume index. -/
theorem State.takeTrapAt_cases (s : State) (c : Cause) (arg : Word) (resume : Nat) :
    ∃ held : State, held = s.updSeq (fun q => { q with idx := resume, fetched := false, wait := none, woken := false }) ∧
    ((s.me.saveReq.isSome = true ∧ s.takeTrapAt c arg resume = held.setPend c arg) ∨
    (s.me.saveReq.isSome = false ∧ (s.seq.tcause.getLsbD 8 = true ∨ s.seq.trapVec = 0) ∧
      s.takeTrapAt c arg resume =
        ((held.faultRecord s.cur c 0 arg [0, 0, 0, 0] akTrap).setPend c arg).park s.sid (.trap c)) ∨
    (s.me.saveReq.isSome = false ∧ s.seq.tcause.getLsbD 8 = false ∧ s.seq.trapVec ≠ 0 ∧
      s.takeTrapAt c arg resume = s.updSeq (fun q => q.takeTrap c arg resume q.pending))) := by
  refine ⟨_, rfl, ?_⟩
  by_cases hs : s.me.saveReq.isSome = true
  · exact .inl ⟨hs, by unfold State.takeTrapAt; rw [if_pos hs]⟩
  · have hs' : s.me.saveReq.isSome = false := by simpa using hs
    by_cases ht : (s.seq.tcause.getLsbD 8 || s.seq.trapVec == 0) = true
    · exact .inr (.inl ⟨hs', by simpa only [Bool.or_eq_true, beq_iff_eq] using ht,
        by unfold State.takeTrapAt; rw [if_neg hs, if_pos ht]⟩)
    · have ht' := ht
      simp only [Bool.or_eq_true, beq_iff_eq, not_or] at ht'
      exact .inr (.inr ⟨hs', by simpa using ht'.1, ht'.2, by unfold State.takeTrapAt; rw [if_neg hs, if_neg ht]⟩)

/-- A w0 fault (10: R226) posts its record and parks the strand; in a save the fault only stays pending. -/
theorem State.w0Fault_cases (s : State) (c : Cause) (addr : Word) (ak : Nat) :
    ∃ u : State, u = ((s.logWalkOf s.sid c addr).faultRecord s.cur c 0 addr [0, 0, 0, 0] ak).setPend c addr ∧
      (s.w0Fault c addr ak = u ∨ s.w0Fault c addr ak = u.park u.sid .w0) := by
  refine ⟨_, rfl, ?_⟩
  unfold State.w0Fault
  by_cases h : (((s.logWalkOf s.sid c addr).faultRecord s.cur c 0 addr [0, 0, 0, 0] ak).setPend c addr).me.saveReq.isSome = true
  · exact .inl (if_pos h)
  · exact .inr (by simp only; rw [if_neg h])

/-- What parking changes: the strand's state and why it parked. -/
@[simp] theorem State.park_strand (s : State) (k : Nat) (p : Park) :
    (s.park k p).strand k = { s.strand k with scstate := 2, park := p } := State.strand_updStrand_self ..
@[simp] theorem State.park_byte (s : State) (k j : Nat) (p : Park) : (s.park k p).byte j = s.byte j := rfl

/-- A sequencer moves on inside its block, or to the next block (09: R207). -/
theorem Seq.adv_cases (q : Seq) :
    (q.idx + 1 < q.block.length ∧ q.adv = { q with idx := q.idx + 1, wait := none, woken := false }) ∨
    (q.block.length ≤ q.idx + 1 ∧ q.adv = q.enter (q.pending.getD q.next)) := by
  unfold Seq.adv
  by_cases h : q.idx + 1 < q.block.length
  · exact .inl ⟨h, by simp [h]⟩
  · exact .inr ⟨by omega, by simp [h]⟩

@[simp] theorem Seq.adv_g (q : Seq) : q.adv.g = q.g := by
  rcases q.adv_cases with ⟨_, h⟩ | ⟨_, h⟩ <;> rw [h] <;> rfl
@[simp] theorem Seq.adv_res (q : Seq) : q.adv.res = q.res := by
  rcases q.adv_cases with ⟨_, h⟩ | ⟨_, h⟩ <;> rw [h] <;> rfl
@[simp] theorem Seq.adv_wait (q : Seq) : q.adv.wait = none := by
  rcases q.adv_cases with ⟨_, h⟩ | ⟨_, h⟩ <;> rw [h] <;> rfl
@[simp] theorem State.g_adv (s : State) (r : BitVec 5) : s.adv.g r = s.g r := by
  simp [State.g, Seq.gGet]

/-! Knowledge of writes (03: R98-R109) changes `olds` alone. -/

theorem State.updOlds_eq (s : State) (f : OldVal → OldVal) : s.updOlds f = { s with olds := s.olds.map f } := rfl
@[simp] theorem State.byte_updOlds (s : State) (f : OldVal → OldVal) (k : Nat) : (s.updOlds f).byte k = s.byte k := rfl
@[simp] theorem State.strand_updOlds (s : State) (f : OldVal → OldVal) (k : Nat) : (s.updOlds f).strand k = s.strand k := rfl
@[simp] theorem State.tile_updOlds (s : State) (f : OldVal → OldVal) (k : Nat) : (s.updOlds f).tile k = s.tile k := rfl
theorem State.releaseBy_frame (s : State) (x : Who) (scope : Nat) (all : Bool) :
    ∃ l, s.releaseBy x scope all = { s with olds := l } := ⟨_, rfl⟩
theorem State.acquireBy_frame (s : State) (y : Who) (scope : Nat) (all : Bool) :
    ∃ l, s.acquireBy y scope all = { s with olds := l } := ⟨_, rfl⟩
theorem State.learnCells_frame (s : State) (ps : List Party) (named : Nat → Bool) (seen : OldVal → Bool) :
    ∃ l, s.learnCells ps named seen = { s with olds := l } := ⟨_, rfl⟩
theorem State.collSync_frame (s : State) (gid : Nat) : ∃ l, s.collSync gid = { s with olds := l } := ⟨_, rfl⟩

/-- What follows an instruction that answered a next state is that state's own. -/
theorem afterExec_next {a : Agent} {o : Host.Outcome State Fault Refusal} {t : State} (h : afterExec a o = .next t) :
    ∃ u, o = .next u ∧ t = u.afterIssue a := by
  cases o with
  | next u => exact ⟨u, rfl, by simpa [afterExec] using h.symm⟩
  | fault f => simp [afterExec] at h
  | refused r => simp [afterExec] at h

/-- A sequencer's turn is nothing, an instruction of its block, the entry to a block, or a stop wave (02: R54). -/
theorem State.turn_cases (s : State) (a : Agent) :
    (s.mayIssue a = false ∧ s.turn a = .none) ∨
    (s.mayIssue a = true ∧ (s.begin a).stopDue a = true ∧ s.turn a = .stopWave (s.begin a)) ∨
    (s.mayIssue a = true ∧ (s.begin a).stopDue a = false ∧ ∃ i u, s.turn a = .run i u ∧
      (((s.begin a).seq.instr = some i ∧ u = (s.begin a).regOrder a i) ∨
        (i = .blockEntry ∧ u = (s.begin a).updSeq (fun q => { q with fetched := false })))) := by
  unfold State.turn
  by_cases hm : s.mayIssue a = true
  · by_cases hd : (s.begin a).stopDue a = true
    · exact .inr (.inl ⟨hm, hd, by simp [hm, hd]⟩)
    · refine .inr (.inr ⟨hm, by simpa using hd, ?_⟩)
      simp only [hm, hd, Bool.not_true, Bool.false_eq_true, if_false]
      cases hh : (s.begin a).seq.instr with
      | none => exact ⟨_, _, rfl, .inr ⟨rfl, rfl⟩⟩
      | some i => exact ⟨_, _, rfl, .inl ⟨rfl, rfl⟩⟩
  · exact .inl ⟨by simpa using hm, by simp [hm]⟩

/-- A step: the next cycle, or the first move of the agenda: a turn, an access performed, a translation taken up, or an event. -/
theorem step_cases (s : State) :
    (s.agenda = [] ∧ step s = exec .tick s) ∨
    ∃ m l, s.agenda = m :: l ∧ step s = moveStep m (s.nextMove m l) := by
  unfold step
  cases h : s.agenda with
  | nil => exact .inl ⟨rfl, rfl⟩
  | cons m l => exact .inr ⟨m, l, rfl, rfl⟩

end Sys2Proof.Machine
end

