-- ==== Sys2Proof/Laws/PerInstr.lean ====
section
/-! SUPPORT. PerInstr.lean: per-instruction lemmas: an encoded instruction decodes to itself. -/

namespace Sys2Proof.Laws

/-! Fields of a concatenation, at the widths of the formats (07: R179, R180). -/
@[simp] theorem hi_1_1 (x : BitVec 1) (y : BitVec 1) : hi 1 1 (x ++ y : BitVec 2) = x := hi_append 1 1 x y
@[simp] theorem lo_1_1 (x : BitVec 1) (y : BitVec 1) : lo 1 1 (x ++ y : BitVec 2) = y := lo_append 1 1 x y
@[simp] theorem hi_1_3 (x : BitVec 1) (y : BitVec 3) : hi 1 3 (x ++ y : BitVec 4) = x := hi_append 1 3 x y
@[simp] theorem lo_1_3 (x : BitVec 1) (y : BitVec 3) : lo 1 3 (x ++ y : BitVec 4) = y := lo_append 1 3 x y
@[simp] theorem hi_1_4 (x : BitVec 1) (y : BitVec 4) : hi 1 4 (x ++ y : BitVec 5) = x := hi_append 1 4 x y
@[simp] theorem lo_1_4 (x : BitVec 1) (y : BitVec 4) : lo 1 4 (x ++ y : BitVec 5) = y := lo_append 1 4 x y
@[simp] theorem hi_1_5 (x : BitVec 1) (y : BitVec 5) : hi 1 5 (x ++ y : BitVec 6) = x := hi_append 1 5 x y
@[simp] theorem lo_1_5 (x : BitVec 1) (y : BitVec 5) : lo 1 5 (x ++ y : BitVec 6) = y := lo_append 1 5 x y
@[simp] theorem hi_1_9 (x : BitVec 1) (y : BitVec 9) : hi 1 9 (x ++ y : BitVec 10) = x := hi_append 1 9 x y
@[simp] theorem lo_1_9 (x : BitVec 1) (y : BitVec 9) : lo 1 9 (x ++ y : BitVec 10) = y := lo_append 1 9 x y
@[simp] theorem hi_1_10 (x : BitVec 1) (y : BitVec 10) : hi 1 10 (x ++ y : BitVec 11) = x := hi_append 1 10 x y
@[simp] theorem lo_1_10 (x : BitVec 1) (y : BitVec 10) : lo 1 10 (x ++ y : BitVec 11) = y := lo_append 1 10 x y
@[simp] theorem hi_1_25 (x : BitVec 1) (y : BitVec 25) : hi 1 25 (x ++ y : BitVec 26) = x := hi_append 1 25 x y
@[simp] theorem lo_1_25 (x : BitVec 1) (y : BitVec 25) : lo 1 25 (x ++ y : BitVec 26) = y := lo_append 1 25 x y
@[simp] theorem hi_2_1 (x : BitVec 2) (y : BitVec 1) : hi 2 1 (x ++ y : BitVec 3) = x := hi_append 2 1 x y
@[simp] theorem lo_2_1 (x : BitVec 2) (y : BitVec 1) : lo 2 1 (x ++ y : BitVec 3) = y := lo_append 2 1 x y
@[simp] theorem hi_2_2 (x : BitVec 2) (y : BitVec 2) : hi 2 2 (x ++ y : BitVec 4) = x := hi_append 2 2 x y
@[simp] theorem lo_2_2 (x : BitVec 2) (y : BitVec 2) : lo 2 2 (x ++ y : BitVec 4) = y := lo_append 2 2 x y
@[simp] theorem hi_2_3 (x : BitVec 2) (y : BitVec 3) : hi 2 3 (x ++ y : BitVec 5) = x := hi_append 2 3 x y
@[simp] theorem lo_2_3 (x : BitVec 2) (y : BitVec 3) : lo 2 3 (x ++ y : BitVec 5) = y := lo_append 2 3 x y
@[simp] theorem hi_2_4 (x : BitVec 2) (y : BitVec 4) : hi 2 4 (x ++ y : BitVec 6) = x := hi_append 2 4 x y
@[simp] theorem lo_2_4 (x : BitVec 2) (y : BitVec 4) : lo 2 4 (x ++ y : BitVec 6) = y := lo_append 2 4 x y
@[simp] theorem hi_2_5 (x : BitVec 2) (y : BitVec 5) : hi 2 5 (x ++ y : BitVec 7) = x := hi_append 2 5 x y
@[simp] theorem lo_2_5 (x : BitVec 2) (y : BitVec 5) : lo 2 5 (x ++ y : BitVec 7) = y := lo_append 2 5 x y
@[simp] theorem hi_2_6 (x : BitVec 2) (y : BitVec 6) : hi 2 6 (x ++ y : BitVec 8) = x := hi_append 2 6 x y
@[simp] theorem lo_2_6 (x : BitVec 2) (y : BitVec 6) : lo 2 6 (x ++ y : BitVec 8) = y := lo_append 2 6 x y
@[simp] theorem hi_2_15 (x : BitVec 2) (y : BitVec 15) : hi 2 15 (x ++ y : BitVec 17) = x := hi_append 2 15 x y
@[simp] theorem lo_2_15 (x : BitVec 2) (y : BitVec 15) : lo 2 15 (x ++ y : BitVec 17) = y := lo_append 2 15 x y
@[simp] theorem hi_2_17 (x : BitVec 2) (y : BitVec 17) : hi 2 17 (x ++ y : BitVec 19) = x := hi_append 2 17 x y
@[simp] theorem lo_2_17 (x : BitVec 2) (y : BitVec 17) : lo 2 17 (x ++ y : BitVec 19) = y := lo_append 2 17 x y
@[simp] theorem hi_2_19 (x : BitVec 2) (y : BitVec 19) : hi 2 19 (x ++ y : BitVec 21) = x := hi_append 2 19 x y
@[simp] theorem lo_2_19 (x : BitVec 2) (y : BitVec 19) : lo 2 19 (x ++ y : BitVec 21) = y := lo_append 2 19 x y
@[simp] theorem hi_2_24 (x : BitVec 2) (y : BitVec 24) : hi 2 24 (x ++ y : BitVec 26) = x := hi_append 2 24 x y
@[simp] theorem lo_2_24 (x : BitVec 2) (y : BitVec 24) : lo 2 24 (x ++ y : BitVec 26) = y := lo_append 2 24 x y
@[simp] theorem hi_2_26 (x : BitVec 2) (y : BitVec 26) : hi 2 26 (x ++ y : BitVec 28) = x := hi_append 2 26 x y
@[simp] theorem lo_2_26 (x : BitVec 2) (y : BitVec 26) : lo 2 26 (x ++ y : BitVec 28) = y := lo_append 2 26 x y
@[simp] theorem hi_3_2 (x : BitVec 3) (y : BitVec 2) : hi 3 2 (x ++ y : BitVec 5) = x := hi_append 3 2 x y
@[simp] theorem lo_3_2 (x : BitVec 3) (y : BitVec 2) : lo 3 2 (x ++ y : BitVec 5) = y := lo_append 3 2 x y
@[simp] theorem hi_3_3 (x : BitVec 3) (y : BitVec 3) : hi 3 3 (x ++ y : BitVec 6) = x := hi_append 3 3 x y
@[simp] theorem lo_3_3 (x : BitVec 3) (y : BitVec 3) : lo 3 3 (x ++ y : BitVec 6) = y := lo_append 3 3 x y
@[simp] theorem hi_3_5 (x : BitVec 3) (y : BitVec 5) : hi 3 5 (x ++ y : BitVec 8) = x := hi_append 3 5 x y
@[simp] theorem lo_3_5 (x : BitVec 3) (y : BitVec 5) : lo 3 5 (x ++ y : BitVec 8) = y := lo_append 3 5 x y
@[simp] theorem hi_3_6 (x : BitVec 3) (y : BitVec 6) : hi 3 6 (x ++ y : BitVec 9) = x := hi_append 3 6 x y
@[simp] theorem lo_3_6 (x : BitVec 3) (y : BitVec 6) : lo 3 6 (x ++ y : BitVec 9) = y := lo_append 3 6 x y
@[simp] theorem hi_3_15 (x : BitVec 3) (y : BitVec 15) : hi 3 15 (x ++ y : BitVec 18) = x := hi_append 3 15 x y
@[simp] theorem lo_3_15 (x : BitVec 3) (y : BitVec 15) : lo 3 15 (x ++ y : BitVec 18) = y := lo_append 3 15 x y
@[simp] theorem hi_3_17 (x : BitVec 3) (y : BitVec 17) : hi 3 17 (x ++ y : BitVec 20) = x := hi_append 3 17 x y
@[simp] theorem lo_3_17 (x : BitVec 3) (y : BitVec 17) : lo 3 17 (x ++ y : BitVec 20) = y := lo_append 3 17 x y
@[simp] theorem hi_3_24 (x : BitVec 3) (y : BitVec 24) : hi 3 24 (x ++ y : BitVec 27) = x := hi_append 3 24 x y
@[simp] theorem lo_3_24 (x : BitVec 3) (y : BitVec 24) : lo 3 24 (x ++ y : BitVec 27) = y := lo_append 3 24 x y
@[simp] theorem hi_3_28 (x : BitVec 3) (y : BitVec 28) : hi 3 28 (x ++ y : BitVec 31) = x := hi_append 3 28 x y
@[simp] theorem lo_3_28 (x : BitVec 3) (y : BitVec 28) : lo 3 28 (x ++ y : BitVec 31) = y := lo_append 3 28 x y
@[simp] theorem hi_4_1 (x : BitVec 4) (y : BitVec 1) : hi 4 1 (x ++ y : BitVec 5) = x := hi_append 4 1 x y
@[simp] theorem lo_4_1 (x : BitVec 4) (y : BitVec 1) : lo 4 1 (x ++ y : BitVec 5) = y := lo_append 4 1 x y
@[simp] theorem hi_4_4 (x : BitVec 4) (y : BitVec 4) : hi 4 4 (x ++ y : BitVec 8) = x := hi_append 4 4 x y
@[simp] theorem lo_4_4 (x : BitVec 4) (y : BitVec 4) : lo 4 4 (x ++ y : BitVec 8) = y := lo_append 4 4 x y
@[simp] theorem hi_4_5 (x : BitVec 4) (y : BitVec 5) : hi 4 5 (x ++ y : BitVec 9) = x := hi_append 4 5 x y
@[simp] theorem lo_4_5 (x : BitVec 4) (y : BitVec 5) : lo 4 5 (x ++ y : BitVec 9) = y := lo_append 4 5 x y
@[simp] theorem hi_4_8 (x : BitVec 4) (y : BitVec 8) : hi 4 8 (x ++ y : BitVec 12) = x := hi_append 4 8 x y
@[simp] theorem lo_4_8 (x : BitVec 4) (y : BitVec 8) : lo 4 8 (x ++ y : BitVec 12) = y := lo_append 4 8 x y
@[simp] theorem hi_4_18 (x : BitVec 4) (y : BitVec 18) : hi 4 18 (x ++ y : BitVec 22) = x := hi_append 4 18 x y
@[simp] theorem lo_4_18 (x : BitVec 4) (y : BitVec 18) : lo 4 18 (x ++ y : BitVec 22) = y := lo_append 4 18 x y
@[simp] theorem hi_4_20 (x : BitVec 4) (y : BitVec 20) : hi 4 20 (x ++ y : BitVec 24) = x := hi_append 4 20 x y
@[simp] theorem lo_4_20 (x : BitVec 4) (y : BitVec 20) : lo 4 20 (x ++ y : BitVec 24) = y := lo_append 4 20 x y
@[simp] theorem hi_5_5 (x : BitVec 5) (y : BitVec 5) : hi 5 5 (x ++ y : BitVec 10) = x := hi_append 5 5 x y
@[simp] theorem lo_5_5 (x : BitVec 5) (y : BitVec 5) : lo 5 5 (x ++ y : BitVec 10) = y := lo_append 5 5 x y
@[simp] theorem hi_5_10 (x : BitVec 5) (y : BitVec 10) : hi 5 10 (x ++ y : BitVec 15) = x := hi_append 5 10 x y
@[simp] theorem lo_5_10 (x : BitVec 5) (y : BitVec 10) : lo 5 10 (x ++ y : BitVec 15) = y := lo_append 5 10 x y
@[simp] theorem hi_5_15 (x : BitVec 5) (y : BitVec 15) : hi 5 15 (x ++ y : BitVec 20) = x := hi_append 5 15 x y
@[simp] theorem lo_5_15 (x : BitVec 5) (y : BitVec 15) : lo 5 15 (x ++ y : BitVec 20) = y := lo_append 5 15 x y
@[simp] theorem hi_6_4 (x : BitVec 6) (y : BitVec 4) : hi 6 4 (x ++ y : BitVec 10) = x := hi_append 6 4 x y
@[simp] theorem lo_6_4 (x : BitVec 6) (y : BitVec 4) : lo 6 4 (x ++ y : BitVec 10) = y := lo_append 6 4 x y
@[simp] theorem hi_6_10 (x : BitVec 6) (y : BitVec 10) : hi 6 10 (x ++ y : BitVec 16) = x := hi_append 6 10 x y
@[simp] theorem lo_6_10 (x : BitVec 6) (y : BitVec 10) : lo 6 10 (x ++ y : BitVec 16) = y := lo_append 6 10 x y
@[simp] theorem hi_7_3 (x : BitVec 7) (y : BitVec 3) : hi 7 3 (x ++ y : BitVec 10) = x := hi_append 7 3 x y
@[simp] theorem lo_7_3 (x : BitVec 7) (y : BitVec 3) : lo 7 3 (x ++ y : BitVec 10) = y := lo_append 7 3 x y
@[simp] theorem hi_7_4 (x : BitVec 7) (y : BitVec 4) : hi 7 4 (x ++ y : BitVec 11) = x := hi_append 7 4 x y
@[simp] theorem lo_7_4 (x : BitVec 7) (y : BitVec 4) : lo 7 4 (x ++ y : BitVec 11) = y := lo_append 7 4 x y
@[simp] theorem hi_7_6 (x : BitVec 7) (y : BitVec 6) : hi 7 6 (x ++ y : BitVec 13) = x := hi_append 7 6 x y
@[simp] theorem lo_7_6 (x : BitVec 7) (y : BitVec 6) : lo 7 6 (x ++ y : BitVec 13) = y := lo_append 7 6 x y
@[simp] theorem hi_7_11 (x : BitVec 7) (y : BitVec 11) : hi 7 11 (x ++ y : BitVec 18) = x := hi_append 7 11 x y
@[simp] theorem lo_7_11 (x : BitVec 7) (y : BitVec 11) : lo 7 11 (x ++ y : BitVec 18) = y := lo_append 7 11 x y
@[simp] theorem hi_7_18 (x : BitVec 7) (y : BitVec 18) : hi 7 18 (x ++ y : BitVec 25) = x := hi_append 7 18 x y
@[simp] theorem lo_7_18 (x : BitVec 7) (y : BitVec 18) : lo 7 18 (x ++ y : BitVec 25) = y := lo_append 7 18 x y
@[simp] theorem hi_8_2 (x : BitVec 8) (y : BitVec 2) : hi 8 2 (x ++ y : BitVec 10) = x := hi_append 8 2 x y
@[simp] theorem lo_8_2 (x : BitVec 8) (y : BitVec 2) : lo 8 2 (x ++ y : BitVec 10) = y := lo_append 8 2 x y
@[simp] theorem hi_8_8 (x : BitVec 8) (y : BitVec 8) : hi 8 8 (x ++ y : BitVec 16) = x := hi_append 8 8 x y
@[simp] theorem lo_8_8 (x : BitVec 8) (y : BitVec 8) : lo 8 8 (x ++ y : BitVec 16) = y := lo_append 8 8 x y
@[simp] theorem hi_8_56 (x : BitVec 8) (y : BitVec 56) : hi 8 56 (x ++ y : BitVec 64) = x := hi_append 8 56 x y
@[simp] theorem lo_8_56 (x : BitVec 8) (y : BitVec 56) : lo 8 56 (x ++ y : BitVec 64) = y := lo_append 8 56 x y
@[simp] theorem hi_9_1 (x : BitVec 9) (y : BitVec 1) : hi 9 1 (x ++ y : BitVec 10) = x := hi_append 9 1 x y
@[simp] theorem lo_9_1 (x : BitVec 9) (y : BitVec 1) : lo 9 1 (x ++ y : BitVec 10) = y := lo_append 9 1 x y
@[simp] theorem hi_9_31 (x : BitVec 9) (y : BitVec 31) : hi 9 31 (x ++ y : BitVec 40) = x := hi_append 9 31 x y
@[simp] theorem lo_9_31 (x : BitVec 9) (y : BitVec 31) : lo 9 31 (x ++ y : BitVec 40) = y := lo_append 9 31 x y
@[simp] theorem hi_10_15 (x : BitVec 10) (y : BitVec 15) : hi 10 15 (x ++ y : BitVec 25) = x := hi_append 10 15 x y
@[simp] theorem lo_10_15 (x : BitVec 10) (y : BitVec 15) : lo 10 15 (x ++ y : BitVec 25) = y := lo_append 10 15 x y
@[simp] theorem hi_10_22 (x : BitVec 10) (y : BitVec 22) : hi 10 22 (x ++ y : BitVec 32) = x := hi_append 10 22 x y
@[simp] theorem lo_10_22 (x : BitVec 10) (y : BitVec 22) : lo 10 22 (x ++ y : BitVec 32) = y := lo_append 10 22 x y
@[simp] theorem hi_14_13 (x : BitVec 14) (y : BitVec 13) : hi 14 13 (x ++ y : BitVec 27) = x := hi_append 14 13 x y
@[simp] theorem lo_14_13 (x : BitVec 14) (y : BitVec 13) : lo 14 13 (x ++ y : BitVec 27) = y := lo_append 14 13 x y
@[simp] theorem hi_14_42 (x : BitVec 14) (y : BitVec 42) : hi 14 42 (x ++ y : BitVec 56) = x := hi_append 14 42 x y
@[simp] theorem lo_14_42 (x : BitVec 14) (y : BitVec 42) : lo 14 42 (x ++ y : BitVec 56) = y := lo_append 14 42 x y
@[simp] theorem hi_15_12 (x : BitVec 15) (y : BitVec 12) : hi 15 12 (x ++ y : BitVec 27) = x := hi_append 15 12 x y
@[simp] theorem lo_15_12 (x : BitVec 15) (y : BitVec 12) : lo 15 12 (x ++ y : BitVec 27) = y := lo_append 15 12 x y
@[simp] theorem hi_16_26 (x : BitVec 16) (y : BitVec 26) : hi 16 26 (x ++ y : BitVec 42) = x := hi_append 16 26 x y
@[simp] theorem lo_16_26 (x : BitVec 16) (y : BitVec 26) : lo 16 26 (x ++ y : BitVec 42) = y := lo_append 16 26 x y
@[simp] theorem hi_20_12 (x : BitVec 20) (y : BitVec 12) : hi 20 12 (x ++ y : BitVec 32) = x := hi_append 20 12 x y
@[simp] theorem lo_20_12 (x : BitVec 20) (y : BitVec 12) : lo 20 12 (x ++ y : BitVec 32) = y := lo_append 20 12 x y
@[simp] theorem hi_20_20 (x : BitVec 20) (y : BitVec 20) : hi 20 20 (x ++ y : BitVec 40) = x := hi_append 20 20 x y
@[simp] theorem lo_20_20 (x : BitVec 20) (y : BitVec 20) : lo 20 20 (x ++ y : BitVec 40) = y := lo_append 20 20 x y
@[simp] theorem hi_21_6 (x : BitVec 21) (y : BitVec 6) : hi 21 6 (x ++ y : BitVec 27) = x := hi_append 21 6 x y
@[simp] theorem lo_21_6 (x : BitVec 21) (y : BitVec 6) : lo 21 6 (x ++ y : BitVec 27) = y := lo_append 21 6 x y
@[simp] theorem hi_22_10 (x : BitVec 22) (y : BitVec 10) : hi 22 10 (x ++ y : BitVec 32) = x := hi_append 22 10 x y
@[simp] theorem lo_22_10 (x : BitVec 22) (y : BitVec 10) : lo 22 10 (x ++ y : BitVec 32) = y := lo_append 22 10 x y
@[simp] theorem hi_23_4 (x : BitVec 23) (y : BitVec 4) : hi 23 4 (x ++ y : BitVec 27) = x := hi_append 23 4 x y
@[simp] theorem lo_23_4 (x : BitVec 23) (y : BitVec 4) : lo 23 4 (x ++ y : BitVec 27) = y := lo_append 23 4 x y
@[simp] theorem hi_24_40 (x : BitVec 24) (y : BitVec 40) : hi 24 40 (x ++ y : BitVec 64) = x := hi_append 24 40 x y
@[simp] theorem lo_24_40 (x : BitVec 24) (y : BitVec 40) : lo 24 40 (x ++ y : BitVec 64) = y := lo_append 24 40 x y
@[simp] theorem hi_25_7 (x : BitVec 25) (y : BitVec 7) : hi 25 7 (x ++ y : BitVec 32) = x := hi_append 25 7 x y
@[simp] theorem lo_25_7 (x : BitVec 25) (y : BitVec 7) : lo 25 7 (x ++ y : BitVec 32) = y := lo_append 25 7 x y
@[simp] theorem hi_27_5 (x : BitVec 27) (y : BitVec 5) : hi 27 5 (x ++ y : BitVec 32) = x := hi_append 27 5 x y
@[simp] theorem lo_27_5 (x : BitVec 27) (y : BitVec 5) : lo 27 5 (x ++ y : BitVec 32) = y := lo_append 27 5 x y
@[simp] theorem hi_32_32 (x : BitVec 32) (y : BitVec 32) : hi 32 32 (x ++ y : BitVec 64) = x := hi_append 32 32 x y
@[simp] theorem lo_32_32 (x : BitVec 32) (y : BitVec 32) : lo 32 32 (x ++ y : BitVec 64) = y := lo_append 32 32 x y
@[simp] theorem hi_39_25 (x : BitVec 39) (y : BitVec 25) : hi 39 25 (x ++ y : BitVec 64) = x := hi_append 39 25 x y
@[simp] theorem lo_39_25 (x : BitVec 39) (y : BitVec 25) : lo 39 25 (x ++ y : BitVec 64) = y := lo_append 39 25 x y
@[simp] theorem hi_43_21 (x : BitVec 43) (y : BitVec 21) : hi 43 21 (x ++ y : BitVec 64) = x := hi_append 43 21 x y
@[simp] theorem lo_43_21 (x : BitVec 43) (y : BitVec 21) : lo 43 21 (x ++ y : BitVec 64) = y := lo_append 43 21 x y
@[simp] theorem hi_46_18 (x : BitVec 46) (y : BitVec 18) : hi 46 18 (x ++ y : BitVec 64) = x := hi_append 46 18 x y
@[simp] theorem lo_46_18 (x : BitVec 46) (y : BitVec 18) : lo 46 18 (x ++ y : BitVec 64) = y := lo_append 46 18 x y
@[simp] theorem hi_48_16 (x : BitVec 48) (y : BitVec 16) : hi 48 16 (x ++ y : BitVec 64) = x := hi_append 48 16 x y
@[simp] theorem lo_48_16 (x : BitVec 48) (y : BitVec 16) : lo 48 16 (x ++ y : BitVec 64) = y := lo_append 48 16 x y
@[simp] theorem hi_54_10 (x : BitVec 54) (y : BitVec 10) : hi 54 10 (x ++ y : BitVec 64) = x := hi_append 54 10 x y
@[simp] theorem lo_54_10 (x : BitVec 54) (y : BitVec 10) : lo 54 10 (x ++ y : BitVec 64) = y := lo_append 54 10 x y

/-- A head and tail whose fields give a well-formed instruction decode to it. -/
theorem decode_of_fields {r : Raw} {i : Instr} (ho : opcAssigned r.opc = true) (hf : r.fields = some i) (hw : i.wf = true) : decode r = .ok i := by
  simp [decode, ho, hf, hw]

/-! The opcode of a packed head. -/
theorem opc_packZ (o : BitVec 8) (f : BitVec 6) : (packZ o f).opc = o := by simp [-BitVec.reduceAppend, packZ, packHead, Raw.opc]
theorem opc_packD (o : BitVec 8) (m : BitVec 1) (n : BitVec 5) : (packD o m n).opc = o := by simp [packD, packHead, Raw.opc]
theorem opc_packR (o : BitVec 8) (s : BitVec 1) (d : BitVec 5) (m : BitVec 6) (b a : BitVec 5) : (packR o s d m b a).opc = o := by
  simp [packR, packHead, Raw.opc]
theorem opc_packI (o : BitVec 8) (s : BitVec 1) (d : BitVec 5) (imm : BitVec 27) (a : BitVec 5) : (packI o s d imm a).opc = o := by
  simp [packI, packHead, Raw.opc]
theorem opc_packV (o : BitVec 8) (s : BitVec 1) (d : BitVec 5) (m : BitVec 10) (t : BitVec 4) (p : BitVec 3) (c b a : BitVec 5) :
    (packV o s d m t p c b a).opc = o := by
  simp [packV, packHead, Raw.opc]
theorem opc_packL (o : BitVec 8) (s : BitVec 1) (d : BitVec 5) (x : BitVec 64) : (packL o s d x).opc = o := by simp [packL, packHead, Raw.opc]
theorem opc_packX (o : BitVec 8) (s : BitVec 1) (d : BitVec 5) (x : BitVec 64) : (packX o s d x).opc = o := by simp [packX, packHead, Raw.opc]

/-! The part of the opcode map that a head's high opcode bits select. -/

theorem fields_0 {r : Raw} (h : hi 4 4 r.opc = 0x0#4) : r.fields = decode0 r := by simp [Raw.fields, h]
theorem fields_1 {r : Raw} (h : hi 4 4 r.opc = 0x1#4) : r.fields = decode1 r := by simp [Raw.fields, h]
theorem fields_2 {r : Raw} (h : hi 4 4 r.opc = 0x2#4) : r.fields = decode2 r := by simp [Raw.fields, h]
theorem fields_3 {r : Raw} (h : hi 4 4 r.opc = 0x3#4) : r.fields = decode3 r := by simp [Raw.fields, h]
theorem fields_4 {r : Raw} (h : hi 4 4 r.opc = 0x4#4) : r.fields = decode4 r := by simp [Raw.fields, h]
theorem fields_5 {r : Raw} (h : hi 4 4 r.opc = 0x5#4) : r.fields = decode5 r := by simp [Raw.fields, h]
theorem fields_6 {r : Raw} (h : hi 4 4 r.opc = 0x6#4) : r.fields = decode6 r := by simp [Raw.fields, h]
theorem fields_7 {r : Raw} (h : hi 4 4 r.opc = 0x7#4) : r.fields = decode7 r := by simp [Raw.fields, h]
theorem fields_8 {r : Raw} (h : hi 4 4 r.opc = 0x8#4) : r.fields = decode8 r := by simp [Raw.fields, h]
theorem fields_9 {r : Raw} (h : hi 4 4 r.opc = 0x9#4) : r.fields = decode9 r := by simp [Raw.fields, h]
theorem fields_A {r : Raw} (h : hi 4 4 r.opc = 0xA#4) : r.fields = decodeA r := by simp [Raw.fields, h]
theorem fields_B {r : Raw} (h : hi 4 4 r.opc = 0xB#4) : r.fields = decodeB r := by simp [Raw.fields, h]
theorem fields_C {r : Raw} (h : hi 4 4 r.opc = 0xC#4) : r.fields = decodeC r := by simp [Raw.fields, h]
theorem fields_D {r : Raw} (h : hi 4 4 r.opc = 0xD#4) : r.fields = decodeD r := by simp [Raw.fields, h]
theorem fields_E {r : Raw} (h : hi 4 4 r.opc = 0xE#4) : r.fields = decodeE r := by simp [Raw.fields, h]
theorem fields_F {r : Raw} (h : hi 4 4 r.opc = 0xF#4) : r.fields = decodeF r := by simp [Raw.fields, h]
end Sys2Proof.Laws

namespace Sys2Proof.Laws.RoundTrip

/-- A well-formed instruction that has an encoding decodes to itself (07: R178-R182). -/
def Statement (i : Instr) : Prop := i.wf = true → ∀ r, encode i = some r → decode r = .ok i

theorem nop : Statement .nop := by
  intro hw r h; cases h
  refine decode_of_fields ?_ ?_ hw
  · rw [opc_packZ]; rfl
  · refine (fields_0 (by rw [opc_packZ]; rfl)).trans ?_
    simp [-BitVec.reduceAppend, decode0, packZ, packHead, Raw.opc, Raw.tl, Raw.f6, Raw.zF]
theorem br : ∀ x0, Statement (.br x0) := by
  intro x0 hw r h; cases h
  refine decode_of_fields ?_ ?_ hw
  · rw [opc_packI]; rfl
  · refine (fields_0 (by rw [opc_packI]; rfl)).trans ?_
    simp [-BitVec.reduceAppend, decode0, packI, packHead, Raw.opc, Raw.tl, Raw.f6, Raw.iS, Raw.iD, Raw.iImm, Raw.iA, Raw.t32]
theorem brReg : ∀ x0, Statement (.brReg x0) := by
  intro x0 hw r h; cases h
  refine decode_of_fields ?_ ?_ hw
  · rw [opc_packI]; rfl
  · refine (fields_0 (by rw [opc_packI]; rfl)).trans ?_
    simp [-BitVec.reduceAppend, decode0, packI, packHead, Raw.opc, Raw.tl, Raw.f6, Raw.iS, Raw.iD, Raw.iImm, Raw.iA, Raw.t32]
theorem brz : ∀ x0 x1, Statement (.brz x0 x1) := by
  intro x0 x1 hw r h; cases h
  refine decode_of_fields ?_ ?_ hw
  · rw [opc_packI]; rfl
  · refine (fields_0 (by rw [opc_packI]; rfl)).trans ?_
    simp [-BitVec.reduceAppend, decode0, packI, packHead, Raw.opc, Raw.tl, Raw.f6, Raw.iS, Raw.iD, Raw.iImm, Raw.iA, Raw.t32]
theorem brnz : ∀ x0 x1, Statement (.brnz x0 x1) := by
  intro x0 x1 hw r h; cases h
  refine decode_of_fields ?_ ?_ hw
  · rw [opc_packI]; rfl
  · refine (fields_0 (by rw [opc_packI]; rfl)).trans ?_
    simp [-BitVec.reduceAppend, decode0, packI, packHead, Raw.opc, Raw.tl, Raw.f6, Raw.iS, Raw.iD, Raw.iImm, Raw.iA, Raw.t32]
theorem brbq : ∀ x0, Statement (.brbq x0) := by
  intro x0 hw r h; cases h
  refine decode_of_fields ?_ ?_ hw
  · rw [opc_packI]; rfl
  · refine (fields_0 (by rw [opc_packI]; rfl)).trans ?_
    simp [-BitVec.reduceAppend, decode0, packI, packHead, Raw.opc, Raw.tl, Raw.f6, Raw.iS, Raw.iD, Raw.iImm, Raw.iA, Raw.t32]
theorem brbqZ : ∀ x0, Statement (.brbqZ x0) := by
  intro x0 hw r h; cases h
  refine decode_of_fields ?_ ?_ hw
  · rw [opc_packI]; rfl
  · refine (fields_0 (by rw [opc_packI]; rfl)).trans ?_
    simp [-BitVec.reduceAppend, decode0, packI, packHead, Raw.opc, Raw.tl, Raw.f6, Raw.iS, Raw.iD, Raw.iImm, Raw.iA, Raw.t32]
theorem call : ∀ x0 x1, Statement (.call x0 x1) := by
  intro x0 x1 hw r h; cases h
  refine decode_of_fields ?_ ?_ hw
  · rw [opc_packI]; rfl
  · refine (fields_0 (by rw [opc_packI]; rfl)).trans ?_
    simp [-BitVec.reduceAppend, decode0, packI, packHead, Raw.opc, Raw.tl, Raw.f6, Raw.iS, Raw.iD, Raw.iImm, Raw.iA, Raw.t32]
theorem callReg : ∀ x0 x1, Statement (.callReg x0 x1) := by
  intro x0 x1 hw r h; cases h
  refine decode_of_fields ?_ ?_ hw
  · rw [opc_packI]; rfl
  · refine (fields_0 (by rw [opc_packI]; rfl)).trans ?_
    simp [-BitVec.reduceAppend, decode0, packI, packHead, Raw.opc, Raw.tl, Raw.f6, Raw.iS, Raw.iD, Raw.iImm, Raw.iA, Raw.t32]
theorem ret : ∀ x0, Statement (.ret x0) := by
  intro x0 hw r h; cases h
  refine decode_of_fields ?_ ?_ hw
  · rw [opc_packD]; rfl
  · refine (fields_0 (by rw [opc_packD]; rfl)).trans ?_
    simp [-BitVec.reduceAppend, decode0, packD, packHead, Raw.opc, Raw.tl, Raw.f6, Raw.dMod, Raw.dN]
theorem loopb : ∀ x0 x1, Statement (.loopb x0 x1) := by
  intro x0 x1 hw r h; cases h
  refine decode_of_fields ?_ ?_ hw
  · rw [opc_packI]; rfl
  · refine (fields_0 (by rw [opc_packI]; rfl)).trans ?_
    simp [-BitVec.reduceAppend, decode0, packI, packHead, Raw.opc, Raw.tl, Raw.f6, Raw.iS, Raw.iD, Raw.iImm, Raw.iA, Raw.t32]
theorem pushbq : ∀ x0, Statement (.pushbq x0) := by
  intro x0 hw r h; cases h
  refine decode_of_fields ?_ ?_ hw
  · rw [opc_packD]; rfl
  · refine (fields_0 (by rw [opc_packD]; rfl)).trans ?_
    simp [-BitVec.reduceAppend, decode0, packD, packHead, Raw.opc, Raw.tl, Raw.f6, Raw.dMod, Raw.dN]
theorem pushbqNz : ∀ x0, Statement (.pushbqNz x0) := by
  intro x0 hw r h; cases h
  refine decode_of_fields ?_ ?_ hw
  · rw [opc_packD]; rfl
  · refine (fields_0 (by rw [opc_packD]; rfl)).trans ?_
    simp [-BitVec.reduceAppend, decode0, packD, packHead, Raw.opc, Raw.tl, Raw.f6, Raw.dMod, Raw.dN]
theorem yield : Statement .yield := by
  intro hw r h; cases h
  refine decode_of_fields ?_ ?_ hw
  · rw [opc_packZ]; rfl
  · refine (fields_0 (by rw [opc_packZ]; rfl)).trans ?_
    simp [-BitVec.reduceAppend, decode0, packZ, packHead, Raw.opc, Raw.tl, Raw.f6, Raw.zF]
theorem sleepc : ∀ x0, Statement (.sleepc x0) := by
  intro x0 hw r h; cases h
  refine decode_of_fields ?_ ?_ hw
  · rw [opc_packD]; rfl
  · refine (fields_0 (by rw [opc_packD]; rfl)).trans ?_
    simp [-BitVec.reduceAppend, decode0, packD, packHead, Raw.opc, Raw.tl, Raw.f6, Raw.dMod, Raw.dN]
theorem sleepcRel : ∀ x0, Statement (.sleepcRel x0) := by
  intro x0 hw r h; cases h
  refine decode_of_fields ?_ ?_ hw
  · rw [opc_packD]; rfl
  · refine (fields_0 (by rw [opc_packD]; rfl)).trans ?_
    simp [-BitVec.reduceAppend, decode0, packD, packHead, Raw.opc, Raw.tl, Raw.f6, Raw.dMod, Raw.dN]
theorem traps : ∀ x0, Statement (.traps x0) := by
  intro x0 hw r h; cases h
  refine decode_of_fields ?_ ?_ hw
  · rw [opc_packZ]; rfl
  · refine (fields_0 (by rw [opc_packZ]; rfl)).trans ?_
    simp [-BitVec.reduceAppend, decode0, packZ, packHead, Raw.opc, Raw.tl, Raw.f6, Raw.zF]
theorem brk : ∀ x0, Statement (.brk x0) := by
  intro x0 hw r h; cases h
  refine decode_of_fields ?_ ?_ hw
  · rw [opc_packZ]; rfl
  · refine (fields_0 (by rw [opc_packZ]; rfl)).trans ?_
    simp [-BitVec.reduceAppend, decode0, packZ, packHead, Raw.opc, Raw.tl, Raw.f6, Raw.zF]
theorem ill : ∀ x0, Statement (.ill x0) := by
  intro x0 hw r h; cases h
  refine decode_of_fields ?_ ?_ hw
  · rw [opc_packZ]; rfl
  · refine (fields_0 (by rw [opc_packZ]; rfl)).trans ?_
    simp [-BitVec.reduceAppend, decode0, packZ, packHead, Raw.opc, Raw.tl, Raw.f6, Raw.zF]
theorem add : ∀ x0 x1 x2, Statement (.add x0 x1 x2) := by
  intro x0 x1 x2 hw r h; cases h
  refine decode_of_fields ?_ ?_ hw
  · rw [opc_packR]; rfl
  · refine (fields_1 (by rw [opc_packR]; rfl)).trans ?_
    simp [-BitVec.reduceAppend, decode1, packR, packHead, Raw.opc, Raw.tl, Raw.f6, Raw.rS, Raw.rD, Raw.rM, Raw.rB, Raw.rA, Raw.t16]
theorem sub : ∀ x0 x1 x2, Statement (.sub x0 x1 x2) := by
  intro x0 x1 x2 hw r h; cases h
  refine decode_of_fields ?_ ?_ hw
  · rw [opc_packR]; rfl
  · refine (fields_1 (by rw [opc_packR]; rfl)).trans ?_
    simp [-BitVec.reduceAppend, decode1, packR, packHead, Raw.opc, Raw.tl, Raw.f6, Raw.rS, Raw.rD, Raw.rM, Raw.rB, Raw.rA, Raw.t16]
theorem mul : ∀ x0 x1 x2, Statement (.mul x0 x1 x2) := by
  intro x0 x1 x2 hw r h; cases h
  refine decode_of_fields ?_ ?_ hw
  · rw [opc_packR]; rfl
  · refine (fields_1 (by rw [opc_packR]; rfl)).trans ?_
    simp [-BitVec.reduceAppend, decode1, packR, packHead, Raw.opc, Raw.tl, Raw.f6, Raw.rS, Raw.rD, Raw.rM, Raw.rB, Raw.rA, Raw.t16]
theorem mulh : ∀ x0 x1 x2, Statement (.mulh x0 x1 x2) := by
  intro x0 x1 x2 hw r h; cases h
  refine decode_of_fields ?_ ?_ hw
  · rw [opc_packR]; rfl
  · refine (fields_1 (by rw [opc_packR]; rfl)).trans ?_
    simp [-BitVec.reduceAppend, decode1, packR, packHead, Raw.opc, Raw.tl, Raw.f6, Raw.rS, Raw.rD, Raw.rM, Raw.rB, Raw.rA, Raw.t16]
theorem mulhn : ∀ x0 x1 x2, Statement (.mulhn x0 x1 x2) := by
  intro x0 x1 x2 hw r h; cases h
  refine decode_of_fields ?_ ?_ hw
  · rw [opc_packR]; rfl
  · refine (fields_1 (by rw [opc_packR]; rfl)).trans ?_
    simp [-BitVec.reduceAppend, decode1, packR, packHead, Raw.opc, Raw.tl, Raw.f6, Raw.rS, Raw.rD, Raw.rM, Raw.rB, Raw.rA, Raw.t16]
theorem div : ∀ x0 x1 x2, Statement (.div x0 x1 x2) := by
  intro x0 x1 x2 hw r h; cases h
  refine decode_of_fields ?_ ?_ hw
  · rw [opc_packR]; rfl
  · refine (fields_1 (by rw [opc_packR]; rfl)).trans ?_
    simp [-BitVec.reduceAppend, decode1, packR, packHead, Raw.opc, Raw.tl, Raw.f6, Raw.rS, Raw.rD, Raw.rM, Raw.rB, Raw.rA, Raw.t16]
theorem divn : ∀ x0 x1 x2, Statement (.divn x0 x1 x2) := by
  intro x0 x1 x2 hw r h; cases h
  refine decode_of_fields ?_ ?_ hw
  · rw [opc_packR]; rfl
  · refine (fields_1 (by rw [opc_packR]; rfl)).trans ?_
    simp [-BitVec.reduceAppend, decode1, packR, packHead, Raw.opc, Raw.tl, Raw.f6, Raw.rS, Raw.rD, Raw.rM, Raw.rB, Raw.rA, Raw.t16]
theorem rem : ∀ x0 x1 x2, Statement (.rem x0 x1 x2) := by
  intro x0 x1 x2 hw r h; cases h
  refine decode_of_fields ?_ ?_ hw
  · rw [opc_packR]; rfl
  · refine (fields_1 (by rw [opc_packR]; rfl)).trans ?_
    simp [-BitVec.reduceAppend, decode1, packR, packHead, Raw.opc, Raw.tl, Raw.f6, Raw.rS, Raw.rD, Raw.rM, Raw.rB, Raw.rA, Raw.t16]
theorem remn : ∀ x0 x1 x2, Statement (.remn x0 x1 x2) := by
  intro x0 x1 x2 hw r h; cases h
  refine decode_of_fields ?_ ?_ hw
  · rw [opc_packR]; rfl
  · refine (fields_1 (by rw [opc_packR]; rfl)).trans ?_
    simp [-BitVec.reduceAppend, decode1, packR, packHead, Raw.opc, Raw.tl, Raw.f6, Raw.rS, Raw.rD, Raw.rM, Raw.rB, Raw.rA, Raw.t16]
theorem and : ∀ x0 x1 x2, Statement (.and x0 x1 x2) := by
  intro x0 x1 x2 hw r h; cases h
  refine decode_of_fields ?_ ?_ hw
  · rw [opc_packR]; rfl
  · refine (fields_1 (by rw [opc_packR]; rfl)).trans ?_
    simp [-BitVec.reduceAppend, decode1, packR, packHead, Raw.opc, Raw.tl, Raw.f6, Raw.rS, Raw.rD, Raw.rM, Raw.rB, Raw.rA, Raw.t16]
theorem or : ∀ x0 x1 x2, Statement (.or x0 x1 x2) := by
  intro x0 x1 x2 hw r h; cases h
  refine decode_of_fields ?_ ?_ hw
  · rw [opc_packR]; rfl
  · refine (fields_1 (by rw [opc_packR]; rfl)).trans ?_
    simp [-BitVec.reduceAppend, decode1, packR, packHead, Raw.opc, Raw.tl, Raw.f6, Raw.rS, Raw.rD, Raw.rM, Raw.rB, Raw.rA, Raw.t16]
theorem xor : ∀ x0 x1 x2, Statement (.xor x0 x1 x2) := by
  intro x0 x1 x2 hw r h; cases h
  refine decode_of_fields ?_ ?_ hw
  · rw [opc_packR]; rfl
  · refine (fields_1 (by rw [opc_packR]; rfl)).trans ?_
    simp [-BitVec.reduceAppend, decode1, packR, packHead, Raw.opc, Raw.tl, Raw.f6, Raw.rS, Raw.rD, Raw.rM, Raw.rB, Raw.rA, Raw.t16]
theorem andn : ∀ x0 x1 x2, Statement (.andn x0 x1 x2) := by
  intro x0 x1 x2 hw r h; cases h
  refine decode_of_fields ?_ ?_ hw
  · rw [opc_packR]; rfl
  · refine (fields_1 (by rw [opc_packR]; rfl)).trans ?_
    simp [-BitVec.reduceAppend, decode1, packR, packHead, Raw.opc, Raw.tl, Raw.f6, Raw.rS, Raw.rD, Raw.rM, Raw.rB, Raw.rA, Raw.t16]
theorem shl : ∀ x0 x1 x2, Statement (.shl x0 x1 x2) := by
  intro x0 x1 x2 hw r h; cases h
  refine decode_of_fields ?_ ?_ hw
  · rw [opc_packR]; rfl
  · refine (fields_1 (by rw [opc_packR]; rfl)).trans ?_
    simp [-BitVec.reduceAppend, decode1, packR, packHead, Raw.opc, Raw.tl, Raw.f6, Raw.rS, Raw.rD, Raw.rM, Raw.rB, Raw.rA, Raw.t16]
theorem shr : ∀ x0 x1 x2, Statement (.shr x0 x1 x2) := by
  intro x0 x1 x2 hw r h; cases h
  refine decode_of_fields ?_ ?_ hw
  · rw [opc_packR]; rfl
  · refine (fields_1 (by rw [opc_packR]; rfl)).trans ?_
    simp [-BitVec.reduceAppend, decode1, packR, packHead, Raw.opc, Raw.tl, Raw.f6, Raw.rS, Raw.rD, Raw.rM, Raw.rB, Raw.rA, Raw.t16]
theorem sar : ∀ x0 x1 x2, Statement (.sar x0 x1 x2) := by
  intro x0 x1 x2 hw r h; cases h
  refine decode_of_fields ?_ ?_ hw
  · rw [opc_packR]; rfl
  · refine (fields_1 (by rw [opc_packR]; rfl)).trans ?_
    simp [-BitVec.reduceAppend, decode1, packR, packHead, Raw.opc, Raw.tl, Raw.f6, Raw.rS, Raw.rD, Raw.rM, Raw.rB, Raw.rA, Raw.t16]
theorem ror : ∀ x0 x1 x2, Statement (.ror x0 x1 x2) := by
  intro x0 x1 x2 hw r h; cases h
  refine decode_of_fields ?_ ?_ hw
  · rw [opc_packR]; rfl
  · refine (fields_2 (by rw [opc_packR]; rfl)).trans ?_
    simp [-BitVec.reduceAppend, decode2, packR, packHead, Raw.opc, Raw.tl, Raw.f6, Raw.rS, Raw.rD, Raw.rM, Raw.rB, Raw.rA, Raw.t16]
theorem min : ∀ x0 x1 x2, Statement (.min x0 x1 x2) := by
  intro x0 x1 x2 hw r h; cases h
  refine decode_of_fields ?_ ?_ hw
  · rw [opc_packR]; rfl
  · refine (fields_2 (by rw [opc_packR]; rfl)).trans ?_
    simp [-BitVec.reduceAppend, decode2, packR, packHead, Raw.opc, Raw.tl, Raw.f6, Raw.rS, Raw.rD, Raw.rM, Raw.rB, Raw.rA, Raw.t16]
theorem max : ∀ x0 x1 x2, Statement (.max x0 x1 x2) := by
  intro x0 x1 x2 hw r h; cases h
  refine decode_of_fields ?_ ?_ hw
  · rw [opc_packR]; rfl
  · refine (fields_2 (by rw [opc_packR]; rfl)).trans ?_
    simp [-BitVec.reduceAppend, decode2, packR, packHead, Raw.opc, Raw.tl, Raw.f6, Raw.rS, Raw.rD, Raw.rM, Raw.rB, Raw.rA, Raw.t16]
theorem minn : ∀ x0 x1 x2, Statement (.minn x0 x1 x2) := by
  intro x0 x1 x2 hw r h; cases h
  refine decode_of_fields ?_ ?_ hw
  · rw [opc_packR]; rfl
  · refine (fields_2 (by rw [opc_packR]; rfl)).trans ?_
    simp [-BitVec.reduceAppend, decode2, packR, packHead, Raw.opc, Raw.tl, Raw.f6, Raw.rS, Raw.rD, Raw.rM, Raw.rB, Raw.rA, Raw.t16]
theorem maxn : ∀ x0 x1 x2, Statement (.maxn x0 x1 x2) := by
  intro x0 x1 x2 hw r h; cases h
  refine decode_of_fields ?_ ?_ hw
  · rw [opc_packR]; rfl
  · refine (fields_2 (by rw [opc_packR]; rfl)).trans ?_
    simp [-BitVec.reduceAppend, decode2, packR, packHead, Raw.opc, Raw.tl, Raw.f6, Raw.rS, Raw.rD, Raw.rM, Raw.rB, Raw.rA, Raw.t16]
theorem cmp : ∀ x0 x1 x2 x3, Statement (.cmp x0 x1 x2 x3) := by
  intro x0 x1 x2 x3 hw r h; cases h
  refine decode_of_fields ?_ ?_ hw
  · rw [opc_packR]; rfl
  · refine (fields_2 (by rw [opc_packR]; rfl)).trans ?_
    simp [-BitVec.reduceAppend, decode2, packR, packHead, Raw.opc, Raw.tl, Raw.f6, Raw.rS, Raw.rD, Raw.rM, Raw.rB, Raw.rA, Raw.t16]
theorem sel : ∀ x0 x1 x2 x3, Statement (.sel x0 x1 x2 x3) := by
  intro x0 x1 x2 x3 hw r h; cases h
  refine decode_of_fields ?_ ?_ hw
  · rw [opc_packR]; rfl
  · refine (fields_2 (by rw [opc_packR]; rfl)).trans ?_
    simp [-BitVec.reduceAppend, decode2, packR, packHead, Raw.opc, Raw.tl, Raw.f6, Raw.rS, Raw.rD, Raw.rM, Raw.rB, Raw.rA, Raw.t16]
theorem clz : ∀ x0 x1, Statement (.clz x0 x1) := by
  intro x0 x1 hw r h; cases h
  refine decode_of_fields ?_ ?_ hw
  · rw [opc_packR]; rfl
  · refine (fields_2 (by rw [opc_packR]; rfl)).trans ?_
    simp [-BitVec.reduceAppend, decode2, packR, packHead, Raw.opc, Raw.tl, Raw.f6, Raw.rS, Raw.rD, Raw.rM, Raw.rB, Raw.rA, Raw.t16]
theorem popc : ∀ x0 x1, Statement (.popc x0 x1) := by
  intro x0 x1 hw r h; cases h
  refine decode_of_fields ?_ ?_ hw
  · rw [opc_packR]; rfl
  · refine (fields_2 (by rw [opc_packR]; rfl)).trans ?_
    simp [-BitVec.reduceAppend, decode2, packR, packHead, Raw.opc, Raw.tl, Raw.f6, Raw.rS, Raw.rD, Raw.rM, Raw.rB, Raw.rA, Raw.t16]
theorem bext : ∀ x0 x1 x2 x3, Statement (.bext x0 x1 x2 x3) := by
  intro x0 x1 x2 x3 hw r h; cases h
  refine decode_of_fields ?_ ?_ hw
  · rw [opc_packI]; rfl
  · refine (fields_2 (by rw [opc_packI]; rfl)).trans ?_
    simp [-BitVec.reduceAppend, decode2, packI, packHead, Raw.opc, Raw.tl, Raw.f6, Raw.iS, Raw.iD, Raw.iImm, Raw.iA, Raw.t32]
theorem bextS : ∀ x0 x1 x2 x3, Statement (.bextS x0 x1 x2 x3) := by
  intro x0 x1 x2 x3 hw r h; cases h
  refine decode_of_fields ?_ ?_ hw
  · rw [opc_packI]; rfl
  · refine (fields_2 (by rw [opc_packI]; rfl)).trans ?_
    simp [-BitVec.reduceAppend, decode2, packI, packHead, Raw.opc, Raw.tl, Raw.f6, Raw.iS, Raw.iD, Raw.iImm, Raw.iA, Raw.t32]
theorem bins : ∀ x0 x1 x2 x3, Statement (.bins x0 x1 x2 x3) := by
  intro x0 x1 x2 x3 hw r h; cases h
  refine decode_of_fields ?_ ?_ hw
  · rw [opc_packI]; rfl
  · refine (fields_2 (by rw [opc_packI]; rfl)).trans ?_
    simp [-BitVec.reduceAppend, decode2, packI, packHead, Raw.opc, Raw.tl, Raw.f6, Raw.iS, Raw.iD, Raw.iImm, Raw.iA, Raw.t32]
theorem exts : ∀ x0 x1 x2, Statement (.exts x0 x1 x2) := by
  intro x0 x1 x2 hw r h; cases h
  refine decode_of_fields ?_ ?_ hw
  · rw [opc_packR]; rfl
  · refine (fields_2 (by rw [opc_packR]; rfl)).trans ?_
    simp [-BitVec.reduceAppend, decode2, packR, packHead, Raw.opc, Raw.tl, Raw.f6, Raw.rS, Raw.rD, Raw.rM, Raw.rB, Raw.rA, Raw.t16]
theorem addi : ∀ x0 x1 x2, Statement (.addi x0 x1 x2) := by
  intro x0 x1 x2 hw r h; cases h
  refine decode_of_fields ?_ ?_ hw
  · rw [opc_packI]; rfl
  · refine (fields_2 (by rw [opc_packI]; rfl)).trans ?_
    simp [-BitVec.reduceAppend, decode2, packI, packHead, Raw.opc, Raw.tl, Raw.f6, Raw.iS, Raw.iD, Raw.iImm, Raw.iA, Raw.t32]
theorem andi : ∀ x0 x1 x2, Statement (.andi x0 x1 x2) := by
  intro x0 x1 x2 hw r h; cases h
  refine decode_of_fields ?_ ?_ hw
  · rw [opc_packI]; rfl
  · refine (fields_2 (by rw [opc_packI]; rfl)).trans ?_
    simp [-BitVec.reduceAppend, decode2, packI, packHead, Raw.opc, Raw.tl, Raw.f6, Raw.iS, Raw.iD, Raw.iImm, Raw.iA, Raw.t32]
theorem ori : ∀ x0 x1 x2, Statement (.ori x0 x1 x2) := by
  intro x0 x1 x2 hw r h; cases h
  refine decode_of_fields ?_ ?_ hw
  · rw [opc_packI]; rfl
  · refine (fields_2 (by rw [opc_packI]; rfl)).trans ?_
    simp [-BitVec.reduceAppend, decode2, packI, packHead, Raw.opc, Raw.tl, Raw.f6, Raw.iS, Raw.iD, Raw.iImm, Raw.iA, Raw.t32]
theorem xori : ∀ x0 x1 x2, Statement (.xori x0 x1 x2) := by
  intro x0 x1 x2 hw r h; cases h
  refine decode_of_fields ?_ ?_ hw
  · rw [opc_packI]; rfl
  · refine (fields_2 (by rw [opc_packI]; rfl)).trans ?_
    simp [-BitVec.reduceAppend, decode2, packI, packHead, Raw.opc, Raw.tl, Raw.f6, Raw.iS, Raw.iD, Raw.iImm, Raw.iA, Raw.t32]
theorem shli : ∀ x0 x1 x2, Statement (.shli x0 x1 x2) := by
  intro x0 x1 x2 hw r h; cases h
  refine decode_of_fields ?_ ?_ hw
  · rw [opc_packI]; rfl
  · refine (fields_3 (by rw [opc_packI]; rfl)).trans ?_
    simp [-BitVec.reduceAppend, decode3, packI, packHead, Raw.opc, Raw.tl, Raw.f6, Raw.iS, Raw.iD, Raw.iImm, Raw.iA, Raw.t32]
theorem shri : ∀ x0 x1 x2, Statement (.shri x0 x1 x2) := by
  intro x0 x1 x2 hw r h; cases h
  refine decode_of_fields ?_ ?_ hw
  · rw [opc_packI]; rfl
  · refine (fields_3 (by rw [opc_packI]; rfl)).trans ?_
    simp [-BitVec.reduceAppend, decode3, packI, packHead, Raw.opc, Raw.tl, Raw.f6, Raw.iS, Raw.iD, Raw.iImm, Raw.iA, Raw.t32]
theorem sari : ∀ x0 x1 x2, Statement (.sari x0 x1 x2) := by
  intro x0 x1 x2 hw r h; cases h
  refine decode_of_fields ?_ ?_ hw
  · rw [opc_packI]; rfl
  · refine (fields_3 (by rw [opc_packI]; rfl)).trans ?_
    simp [-BitVec.reduceAppend, decode3, packI, packHead, Raw.opc, Raw.tl, Raw.f6, Raw.iS, Raw.iD, Raw.iImm, Raw.iA, Raw.t32]
theorem cmpi : ∀ x0 x1 x2 x3, Statement (.cmpi x0 x1 x2 x3) := by
  intro x0 x1 x2 x3 hw r h; cases h
  refine decode_of_fields ?_ ?_ hw
  · rw [opc_packI]; rfl
  · refine (fields_3 (by rw [opc_packI]; rfl)).trans ?_
    simp [-BitVec.reduceAppend, decode3, packI, packHead, Raw.opc, Raw.tl, Raw.f6, Raw.iS, Raw.iD, Raw.iImm, Raw.iA, Raw.t32]
theorem li : ∀ x0 x1, Statement (.li x0 x1) := by
  intro x0 x1 hw r h; cases h
  refine decode_of_fields ?_ ?_ hw
  · rw [opc_packI]; rfl
  · refine (fields_3 (by rw [opc_packI]; rfl)).trans ?_
    simp [-BitVec.reduceAppend, decode3, packI, packHead, Raw.opc, Raw.tl, Raw.f6, Raw.iS, Raw.iD, Raw.iImm, Raw.iA, Raw.t32]
theorem lil : ∀ x0 x1, Statement (.lil x0 x1) := by
  intro x0 x1 hw r h; cases h
  refine decode_of_fields ?_ ?_ hw
  · rw [opc_packL]; rfl
  · refine (fields_3 (by rw [opc_packL]; rfl)).trans ?_
    simp [-BitVec.reduceAppend, decode3, packL, packHead, Raw.opc, Raw.tl, Raw.f6, Raw.lS, Raw.lD, Raw.lImm]
theorem mov : ∀ x0 x1, Statement (.mov x0 x1) := by
  intro x0 x1 hw r h; cases h
  refine decode_of_fields ?_ ?_ hw
  · rw [opc_packR]; rfl
  · refine (fields_3 (by rw [opc_packR]; rfl)).trans ?_
    simp [-BitVec.reduceAppend, decode3, packR, packHead, Raw.opc, Raw.tl, Raw.f6, Raw.rS, Raw.rD, Raw.rM, Raw.rB, Raw.rA, Raw.t16]
theorem addsat : ∀ x0 x1 x2, Statement (.addsat x0 x1 x2) := by
  intro x0 x1 x2 hw r h; cases h
  refine decode_of_fields ?_ ?_ hw
  · rw [opc_packR]; rfl
  · refine (fields_3 (by rw [opc_packR]; rfl)).trans ?_
    simp [-BitVec.reduceAppend, decode3, packR, packHead, Raw.opc, Raw.tl, Raw.f6, Raw.rS, Raw.rD, Raw.rM, Raw.rB, Raw.rA, Raw.t16]
theorem addsatN : ∀ x0 x1 x2, Statement (.addsatN x0 x1 x2) := by
  intro x0 x1 x2 hw r h; cases h
  refine decode_of_fields ?_ ?_ hw
  · rw [opc_packR]; rfl
  · refine (fields_3 (by rw [opc_packR]; rfl)).trans ?_
    simp [-BitVec.reduceAppend, decode3, packR, packHead, Raw.opc, Raw.tl, Raw.f6, Raw.rS, Raw.rD, Raw.rM, Raw.rB, Raw.rA, Raw.t16]
theorem madd : ∀ x0 x1 x2 x3, Statement (.madd x0 x1 x2 x3) := by
  intro x0 x1 x2 x3 hw r h; cases h
  refine decode_of_fields ?_ ?_ hw
  · rw [opc_packR]; rfl
  · refine (fields_3 (by rw [opc_packR]; rfl)).trans ?_
    simp [-BitVec.reduceAppend, decode3, packR, packHead, Raw.opc, Raw.tl, Raw.f6, Raw.rS, Raw.rD, Raw.rM, Raw.rB, Raw.rA, Raw.t16]
theorem lea : ∀ x0 x1 x2, Statement (.lea x0 x1 x2) := by
  intro x0 x1 x2 hw r h; cases h
  refine decode_of_fields ?_ ?_ hw
  · rw [opc_packI]; rfl
  · refine (fields_3 (by rw [opc_packI]; rfl)).trans ?_
    simp [-BitVec.reduceAppend, decode3, packI, packHead, Raw.opc, Raw.tl, Raw.f6, Raw.iS, Raw.iD, Raw.iImm, Raw.iA, Raw.t32]
theorem leaLabel : ∀ x0 x1, Statement (.leaLabel x0 x1) := by
  intro x0 x1 hw r h; cases h
  refine decode_of_fields ?_ ?_ hw
  · rw [opc_packI]; rfl
  · refine (fields_3 (by rw [opc_packI]; rfl)).trans ?_
    simp [-BitVec.reduceAppend, decode3, packI, packHead, Raw.opc, Raw.tl, Raw.f6, Raw.iS, Raw.iD, Raw.iImm, Raw.iA, Raw.t32]
theorem fadd : ∀ x0 x1 x2, Statement (.fadd x0 x1 x2) := by
  intro x0 x1 x2 hw r h; cases h
  refine decode_of_fields ?_ ?_ hw
  · rw [opc_packR]; rfl
  · refine (fields_4 (by rw [opc_packR]; rfl)).trans ?_
    simp [-BitVec.reduceAppend, decode4, packR, packHead, Raw.opc, Raw.tl, Raw.f6, Raw.rS, Raw.rD, Raw.rM, Raw.rB, Raw.rA, Raw.t16]
theorem fsub : ∀ x0 x1 x2, Statement (.fsub x0 x1 x2) := by
  intro x0 x1 x2 hw r h; cases h
  refine decode_of_fields ?_ ?_ hw
  · rw [opc_packR]; rfl
  · refine (fields_4 (by rw [opc_packR]; rfl)).trans ?_
    simp [-BitVec.reduceAppend, decode4, packR, packHead, Raw.opc, Raw.tl, Raw.f6, Raw.rS, Raw.rD, Raw.rM, Raw.rB, Raw.rA, Raw.t16]
theorem fmul : ∀ x0 x1 x2, Statement (.fmul x0 x1 x2) := by
  intro x0 x1 x2 hw r h; cases h
  refine decode_of_fields ?_ ?_ hw
  · rw [opc_packR]; rfl
  · refine (fields_4 (by rw [opc_packR]; rfl)).trans ?_
    simp [-BitVec.reduceAppend, decode4, packR, packHead, Raw.opc, Raw.tl, Raw.f6, Raw.rS, Raw.rD, Raw.rM, Raw.rB, Raw.rA, Raw.t16]
theorem ffma : ∀ x0 x1 x2 x3, Statement (.ffma x0 x1 x2 x3) := by
  intro x0 x1 x2 x3 hw r h; cases h
  refine decode_of_fields ?_ ?_ hw
  · rw [opc_packR]; rfl
  · refine (fields_4 (by rw [opc_packR]; rfl)).trans ?_
    simp [-BitVec.reduceAppend, decode4, packR, packHead, Raw.opc, Raw.tl, Raw.f6, Raw.rS, Raw.rD, Raw.rM, Raw.rB, Raw.rA, Raw.t16]
theorem fdiv : ∀ x0 x1 x2, Statement (.fdiv x0 x1 x2) := by
  intro x0 x1 x2 hw r h; cases h
  refine decode_of_fields ?_ ?_ hw
  · rw [opc_packR]; rfl
  · refine (fields_4 (by rw [opc_packR]; rfl)).trans ?_
    simp [-BitVec.reduceAppend, decode4, packR, packHead, Raw.opc, Raw.tl, Raw.f6, Raw.rS, Raw.rD, Raw.rM, Raw.rB, Raw.rA, Raw.t16]
theorem fsqrt : ∀ x0 x1, Statement (.fsqrt x0 x1) := by
  intro x0 x1 hw r h; cases h
  refine decode_of_fields ?_ ?_ hw
  · rw [opc_packR]; rfl
  · refine (fields_4 (by rw [opc_packR]; rfl)).trans ?_
    simp [-BitVec.reduceAppend, decode4, packR, packHead, Raw.opc, Raw.tl, Raw.f6, Raw.rS, Raw.rD, Raw.rM, Raw.rB, Raw.rA, Raw.t16]
theorem fmin : ∀ x0 x1 x2, Statement (.fmin x0 x1 x2) := by
  intro x0 x1 x2 hw r h; cases h
  refine decode_of_fields ?_ ?_ hw
  · rw [opc_packR]; rfl
  · refine (fields_4 (by rw [opc_packR]; rfl)).trans ?_
    simp [-BitVec.reduceAppend, decode4, packR, packHead, Raw.opc, Raw.tl, Raw.f6, Raw.rS, Raw.rD, Raw.rM, Raw.rB, Raw.rA, Raw.t16]
theorem fmax : ∀ x0 x1 x2, Statement (.fmax x0 x1 x2) := by
  intro x0 x1 x2 hw r h; cases h
  refine decode_of_fields ?_ ?_ hw
  · rw [opc_packR]; rfl
  · refine (fields_4 (by rw [opc_packR]; rfl)).trans ?_
    simp [-BitVec.reduceAppend, decode4, packR, packHead, Raw.opc, Raw.tl, Raw.f6, Raw.rS, Raw.rD, Raw.rM, Raw.rB, Raw.rA, Raw.t16]
theorem fcmp : ∀ x0 x1 x2 x3, Statement (.fcmp x0 x1 x2 x3) := by
  intro x0 x1 x2 x3 hw r h; cases h
  refine decode_of_fields ?_ ?_ hw
  · rw [opc_packR]; rfl
  · refine (fields_4 (by rw [opc_packR]; rfl)).trans ?_
    simp [-BitVec.reduceAppend, decode4, packR, packHead, Raw.opc, Raw.tl, Raw.f6, Raw.rS, Raw.rD, Raw.rM, Raw.rB, Raw.rA, Raw.t16]
theorem fcvt : ∀ x0 x1 x2 x3 x4, Statement (.fcvt x0 x1 x2 x3 x4) := by
  intro x0 x1 x2 x3 x4 hw r h; cases h
  refine decode_of_fields ?_ ?_ hw
  · rw [opc_packR]; rfl
  · refine (fields_4 (by rw [opc_packR]; rfl)).trans ?_
    simp [-BitVec.reduceAppend, decode4, packR, packHead, Raw.opc, Raw.tl, Raw.f6, Raw.rS, Raw.rD, Raw.rM, Raw.rB, Raw.rA, Raw.t16]
theorem fclass : ∀ x0 x1, Statement (.fclass x0 x1) := by
  intro x0 x1 hw r h; cases h
  refine decode_of_fields ?_ ?_ hw
  · rw [opc_packR]; rfl
  · refine (fields_4 (by rw [opc_packR]; rfl)).trans ?_
    simp [-BitVec.reduceAppend, decode4, packR, packHead, Raw.opc, Raw.tl, Raw.f6, Raw.rS, Raw.rD, Raw.rM, Raw.rB, Raw.rA, Raw.t16]
theorem fsgn : ∀ x0 x1 x2 x3, Statement (.fsgn x0 x1 x2 x3) := by
  intro x0 x1 x2 x3 hw r h; cases h
  refine decode_of_fields ?_ ?_ hw
  · rw [opc_packR]; rfl
  · refine (fields_4 (by rw [opc_packR]; rfl)).trans ?_
    simp [-BitVec.reduceAppend, decode4, packR, packHead, Raw.opc, Raw.tl, Raw.f6, Raw.rS, Raw.rD, Raw.rM, Raw.rB, Raw.rA, Raw.t16]
theorem wcfg : ∀ x0 x1 x2, Statement (.wcfg x0 x1 x2) := by
  intro x0 x1 x2 hw r h; cases h
  refine decode_of_fields ?_ ?_ hw
  · rw [opc_packR]; rfl
  · refine (fields_5 (by rw [opc_packR]; rfl)).trans ?_
    simp [-BitVec.reduceAppend, decode5, packR, packHead, Raw.opc, Raw.tl, Raw.f6, Raw.rS, Raw.rD, Raw.rM, Raw.rB, Raw.rA, Raw.t16]
theorem wgo : ∀ x0 x1, Statement (.wgo x0 x1) := by
  intro x0 x1 hw r h; cases h
  refine decode_of_fields ?_ ?_ hw
  · rw [opc_packR]; rfl
  · refine (fields_5 (by rw [opc_packR]; rfl)).trans ?_
    simp [-BitVec.reduceAppend, decode5, packR, packHead, Raw.opc, Raw.tl, Raw.f6, Raw.rS, Raw.rD, Raw.rM, Raw.rB, Raw.rA, Raw.t16]
theorem whalt : ∀ x0, Statement (.whalt x0) := by
  intro x0 hw r h; cases h
  refine decode_of_fields ?_ ?_ hw
  · rw [opc_packZ]; rfl
  · refine (fields_5 (by rw [opc_packZ]; rfl)).trans ?_
    simp [-BitVec.reduceAppend, decode5, packZ, packHead, Raw.opc, Raw.tl, Raw.f6, Raw.zF]
theorem wstat : ∀ x0 x1 x2, Statement (.wstat x0 x1 x2) := by
  intro x0 x1 x2 hw r h; cases h
  refine decode_of_fields ?_ ?_ hw
  · rw [opc_packR]; rfl
  · refine (fields_5 (by rw [opc_packR]; rfl)).trans ?_
    simp [-BitVec.reduceAppend, decode5, packR, packHead, Raw.opc, Raw.tl, Raw.f6, Raw.rS, Raw.rD, Raw.rM, Raw.rB, Raw.rA, Raw.t16]
theorem widx : ∀ x0 x1 x2 x3, Statement (.widx x0 x1 x2 x3) := by
  intro x0 x1 x2 x3 hw r h; cases h
  refine decode_of_fields ?_ ?_ hw
  · rw [opc_packR]; rfl
  · refine (fields_5 (by rw [opc_packR]; rfl)).trans ?_
    simp [-BitVec.reduceAppend, decode5, packR, packHead, Raw.opc, Raw.tl, Raw.f6, Raw.rS, Raw.rD, Raw.rM, Raw.rB, Raw.rA, Raw.t16]
theorem ld : ∀ x0 x1 x2, Statement (.ld x0 x1 x2) := by
  intro x0 x1 x2 hw r h; cases h
  refine decode_of_fields ?_ ?_ hw
  · rw [opc_packI]; rfl
  · refine (fields_5 (by rw [opc_packI]; rfl)).trans ?_
    simp [-BitVec.reduceAppend, decode5, packI, packHead, Raw.opc, Raw.tl, Raw.f6, Raw.iS, Raw.iD, Raw.iImm, Raw.iA, Raw.t32]
theorem ldSized : ∀ x0 x1 x2 x3, Statement (.ldSized x0 x1 x2 x3) := by
  intro x0 x1 x2 x3 hw r h; cases h
  refine decode_of_fields ?_ ?_ hw
  · rw [opc_packI]; rfl
  · refine (fields_5 (by rw [opc_packI]; rfl)).trans ?_
    simp [-BitVec.reduceAppend, decode5, packI, packHead, Raw.opc, Raw.tl, Raw.f6, Raw.iS, Raw.iD, Raw.iImm, Raw.iA, Raw.t32]
theorem st : ∀ x0 x1 x2, Statement (.st x0 x1 x2) := by
  intro x0 x1 x2 hw r h; cases h
  refine decode_of_fields ?_ ?_ hw
  · rw [opc_packI]; rfl
  · refine (fields_5 (by rw [opc_packI]; rfl)).trans ?_
    simp [-BitVec.reduceAppend, decode5, packI, packHead, Raw.opc, Raw.tl, Raw.f6, Raw.iS, Raw.iD, Raw.iImm, Raw.iA, Raw.t32]
theorem stSized : ∀ x0 x1 x2 x3, Statement (.stSized x0 x1 x2 x3) := by
  intro x0 x1 x2 x3 hw r h; cases h
  refine decode_of_fields ?_ ?_ hw
  · rw [opc_packI]; rfl
  · refine (fields_5 (by rw [opc_packI]; rfl)).trans ?_
    simp [-BitVec.reduceAppend, decode5, packI, packHead, Raw.opc, Raw.tl, Raw.f6, Raw.iS, Raw.iD, Raw.iImm, Raw.iA, Raw.t32]
theorem ldv : ∀ x0 x1 x2, Statement (.ldv x0 x1 x2) := by
  intro x0 x1 x2 hw r h; cases h
  refine decode_of_fields ?_ ?_ hw
  · rw [opc_packR]; rfl
  · refine (fields_5 (by rw [opc_packR]; rfl)).trans ?_
    simp [-BitVec.reduceAppend, decode5, packR, packHead, Raw.opc, Raw.tl, Raw.f6, Raw.rS, Raw.rD, Raw.rM, Raw.rB, Raw.rA, Raw.t16]
theorem stv : ∀ x0 x1 x2, Statement (.stv x0 x1 x2) := by
  intro x0 x1 x2 hw r h; cases h
  refine decode_of_fields ?_ ?_ hw
  · rw [opc_packR]; rfl
  · refine (fields_5 (by rw [opc_packR]; rfl)).trans ?_
    simp [-BitVec.reduceAppend, decode5, packR, packHead, Raw.opc, Raw.tl, Raw.f6, Raw.rS, Raw.rD, Raw.rM, Raw.rB, Raw.rA, Raw.t16]
theorem febClr : ∀ x0 x1, Statement (.febClr x0 x1) := by
  intro x0 x1 hw r h; cases h
  refine decode_of_fields ?_ ?_ hw
  · rw [opc_packR]; rfl
  · refine (fields_5 (by rw [opc_packR]; rfl)).trans ?_
    simp [-BitVec.reduceAppend, decode5, packR, packHead, Raw.opc, Raw.tl, Raw.f6, Raw.rS, Raw.rD, Raw.rM, Raw.rB, Raw.rA, Raw.t16]
theorem febSet : ∀ x0 x1, Statement (.febSet x0 x1) := by
  intro x0 x1 hw r h; cases h
  refine decode_of_fields ?_ ?_ hw
  · rw [opc_packR]; rfl
  · refine (fields_5 (by rw [opc_packR]; rfl)).trans ?_
    simp [-BitVec.reduceAppend, decode5, packR, packHead, Raw.opc, Raw.tl, Raw.f6, Raw.rS, Raw.rD, Raw.rM, Raw.rB, Raw.rA, Raw.t16]
theorem waitf : ∀ x0 x1, Statement (.waitf x0 x1) := by
  intro x0 x1 hw r h; cases h
  refine decode_of_fields ?_ ?_ hw
  · rw [opc_packR]; rfl
  · refine (fields_5 (by rw [opc_packR]; rfl)).trans ?_
    simp [-BitVec.reduceAppend, decode5, packR, packHead, Raw.opc, Raw.tl, Raw.f6, Raw.rS, Raw.rD, Raw.rM, Raw.rB, Raw.rA, Raw.t16]
theorem aadd : ∀ x0 x1 x2 x3 x4 x5 x6, Statement (.aadd x0 x1 x2 x3 x4 x5 x6) := by
  intro x0 x1 x2 x3 x4 x5 x6 hw r h; cases h
  refine decode_of_fields ?_ ?_ hw
  · rw [opc_packX]; rfl
  · refine (fields_6 (by rw [opc_packX]; rfl)).trans ?_
    simp [-BitVec.reduceAppend, decode6, packX, packHead, Raw.opc, Raw.tl, Raw.f6, Raw.xS, Raw.xD, Raw.xTail]
theorem amin : ∀ x0 x1 x2 x3 x4 x5 x6, Statement (.amin x0 x1 x2 x3 x4 x5 x6) := by
  intro x0 x1 x2 x3 x4 x5 x6 hw r h; cases h
  refine decode_of_fields ?_ ?_ hw
  · rw [opc_packX]; rfl
  · refine (fields_6 (by rw [opc_packX]; rfl)).trans ?_
    simp [-BitVec.reduceAppend, decode6, packX, packHead, Raw.opc, Raw.tl, Raw.f6, Raw.xS, Raw.xD, Raw.xTail]
theorem amax : ∀ x0 x1 x2 x3 x4 x5 x6, Statement (.amax x0 x1 x2 x3 x4 x5 x6) := by
  intro x0 x1 x2 x3 x4 x5 x6 hw r h; cases h
  refine decode_of_fields ?_ ?_ hw
  · rw [opc_packX]; rfl
  · refine (fields_6 (by rw [opc_packX]; rfl)).trans ?_
    simp [-BitVec.reduceAppend, decode6, packX, packHead, Raw.opc, Raw.tl, Raw.f6, Raw.xS, Raw.xD, Raw.xTail]
theorem aminn : ∀ x0 x1 x2 x3 x4 x5 x6, Statement (.aminn x0 x1 x2 x3 x4 x5 x6) := by
  intro x0 x1 x2 x3 x4 x5 x6 hw r h; cases h
  refine decode_of_fields ?_ ?_ hw
  · rw [opc_packX]; rfl
  · refine (fields_6 (by rw [opc_packX]; rfl)).trans ?_
    simp [-BitVec.reduceAppend, decode6, packX, packHead, Raw.opc, Raw.tl, Raw.f6, Raw.xS, Raw.xD, Raw.xTail]
theorem amaxn : ∀ x0 x1 x2 x3 x4 x5 x6, Statement (.amaxn x0 x1 x2 x3 x4 x5 x6) := by
  intro x0 x1 x2 x3 x4 x5 x6 hw r h; cases h
  refine decode_of_fields ?_ ?_ hw
  · rw [opc_packX]; rfl
  · refine (fields_6 (by rw [opc_packX]; rfl)).trans ?_
    simp [-BitVec.reduceAppend, decode6, packX, packHead, Raw.opc, Raw.tl, Raw.f6, Raw.xS, Raw.xD, Raw.xTail]
theorem aand : ∀ x0 x1 x2 x3 x4 x5 x6, Statement (.aand x0 x1 x2 x3 x4 x5 x6) := by
  intro x0 x1 x2 x3 x4 x5 x6 hw r h; cases h
  refine decode_of_fields ?_ ?_ hw
  · rw [opc_packX]; rfl
  · refine (fields_6 (by rw [opc_packX]; rfl)).trans ?_
    simp [-BitVec.reduceAppend, decode6, packX, packHead, Raw.opc, Raw.tl, Raw.f6, Raw.xS, Raw.xD, Raw.xTail]
theorem aor : ∀ x0 x1 x2 x3 x4 x5 x6, Statement (.aor x0 x1 x2 x3 x4 x5 x6) := by
  intro x0 x1 x2 x3 x4 x5 x6 hw r h; cases h
  refine decode_of_fields ?_ ?_ hw
  · rw [opc_packX]; rfl
  · refine (fields_6 (by rw [opc_packX]; rfl)).trans ?_
    simp [-BitVec.reduceAppend, decode6, packX, packHead, Raw.opc, Raw.tl, Raw.f6, Raw.xS, Raw.xD, Raw.xTail]
theorem axor : ∀ x0 x1 x2 x3 x4 x5 x6, Statement (.axor x0 x1 x2 x3 x4 x5 x6) := by
  intro x0 x1 x2 x3 x4 x5 x6 hw r h; cases h
  refine decode_of_fields ?_ ?_ hw
  · rw [opc_packX]; rfl
  · refine (fields_6 (by rw [opc_packX]; rfl)).trans ?_
    simp [-BitVec.reduceAppend, decode6, packX, packHead, Raw.opc, Raw.tl, Raw.f6, Raw.xS, Raw.xD, Raw.xTail]
theorem aswp : ∀ x0 x1 x2 x3 x4 x5 x6, Statement (.aswp x0 x1 x2 x3 x4 x5 x6) := by
  intro x0 x1 x2 x3 x4 x5 x6 hw r h; cases h
  refine decode_of_fields ?_ ?_ hw
  · rw [opc_packX]; rfl
  · refine (fields_6 (by rw [opc_packX]; rfl)).trans ?_
    simp [-BitVec.reduceAppend, decode6, packX, packHead, Raw.opc, Raw.tl, Raw.f6, Raw.xS, Raw.xD, Raw.xTail]
theorem acas : ∀ x0 x1 x2 x3 x4 x5 x6 x7, Statement (.acas x0 x1 x2 x3 x4 x5 x6 x7) := by
  intro x0 x1 x2 x3 x4 x5 x6 x7 hw r h; cases h
  refine decode_of_fields ?_ ?_ hw
  · rw [opc_packX]; rfl
  · refine (fields_6 (by rw [opc_packX]; rfl)).trans ?_
    simp [-BitVec.reduceAppend, decode6, packX, packHead, Raw.opc, Raw.tl, Raw.f6, Raw.xS, Raw.xD, Raw.xTail]
theorem aincb : ∀ x0 x1 x2 x3 x4 x5 x6, Statement (.aincb x0 x1 x2 x3 x4 x5 x6) := by
  intro x0 x1 x2 x3 x4 x5 x6 hw r h; cases h
  refine decode_of_fields ?_ ?_ hw
  · rw [opc_packX]; rfl
  · refine (fields_6 (by rw [opc_packX]; rfl)).trans ?_
    simp [-BitVec.reduceAppend, decode6, packX, packHead, Raw.opc, Raw.tl, Raw.f6, Raw.xS, Raw.xD, Raw.xTail]
theorem afadd : ∀ x0 x1 x2 x3 x4 x5, Statement (.afadd x0 x1 x2 x3 x4 x5) := by
  intro x0 x1 x2 x3 x4 x5 hw r h; cases h
  refine decode_of_fields ?_ ?_ hw
  · rw [opc_packX]; rfl
  · refine (fields_6 (by rw [opc_packX]; rfl)).trans ?_
    simp [-BitVec.reduceAppend, decode6, packX, packHead, Raw.opc, Raw.tl, Raw.f6, Raw.xS, Raw.xD, Raw.xTail]
theorem ldacq : ∀ x0 x1 x2 x3, Statement (.ldacq x0 x1 x2 x3) := by
  intro x0 x1 x2 x3 hw r h; cases h
  refine decode_of_fields ?_ ?_ hw
  · rw [opc_packR]; rfl
  · refine (fields_6 (by rw [opc_packR]; rfl)).trans ?_
    simp [-BitVec.reduceAppend, decode6, packR, packHead, Raw.opc, Raw.tl, Raw.f6, Raw.rS, Raw.rD, Raw.rM, Raw.rB, Raw.rA, Raw.t16]
theorem strel : ∀ x0 x1 x2 x3, Statement (.strel x0 x1 x2 x3) := by
  intro x0 x1 x2 x3 hw r h; cases h
  refine decode_of_fields ?_ ?_ hw
  · rw [opc_packR]; rfl
  · refine (fields_6 (by rw [opc_packR]; rfl)).trans ?_
    simp [-BitVec.reduceAppend, decode6, packR, packHead, Raw.opc, Raw.tl, Raw.f6, Raw.rS, Raw.rD, Raw.rM, Raw.rB, Raw.rA, Raw.t16]
theorem fence : ∀ x0 x1, Statement (.fence x0 x1) := by
  intro x0 x1 hw r h; cases h
  refine decode_of_fields ?_ ?_ hw
  · rw [opc_packZ]; rfl
  · refine (fields_6 (by rw [opc_packZ]; rfl)).trans ?_
    simp [-BitVec.reduceAppend, decode6, packZ, packHead, Raw.opc, Raw.tl, Raw.f6, Raw.zF]
theorem cpy : ∀ x0 x1 x2, Statement (.cpy x0 x1 x2) := by
  intro x0 x1 x2 hw r h; cases h
  refine decode_of_fields ?_ ?_ hw
  · rw [opc_packX]; rfl
  · refine (fields_7 (by rw [opc_packX]; rfl)).trans ?_
    simp [-BitVec.reduceAppend, decode7, packX, packHead, Raw.opc, Raw.tl, Raw.f6, Raw.xS, Raw.xD, Raw.xTail]
theorem cpym : ∀ x0 x1 x2, Statement (.cpym x0 x1 x2) := by
  intro x0 x1 x2 hw r h; cases h
  refine decode_of_fields ?_ ?_ hw
  · rw [opc_packX]; rfl
  · refine (fields_7 (by rw [opc_packX]; rfl)).trans ?_
    simp [-BitVec.reduceAppend, decode7, packX, packHead, Raw.opc, Raw.tl, Raw.f6, Raw.xS, Raw.xD, Raw.xTail]
theorem cpyw : ∀ x0, Statement (.cpyw x0) := by
  intro x0 hw r h; cases h
  refine decode_of_fields ?_ ?_ hw
  · rw [opc_packD]; rfl
  · refine (fields_7 (by rw [opc_packD]; rfl)).trans ?_
    simp [-BitVec.reduceAppend, decode7, packD, packHead, Raw.opc, Raw.tl, Raw.f6, Raw.dMod, Raw.dN]
theorem cpyq : ∀ x0 x1 x2 x3, Statement (.cpyq x0 x1 x2 x3) := by
  intro x0 x1 x2 x3 hw r h; cases h
  refine decode_of_fields ?_ ?_ hw
  · rw [opc_packX]; rfl
  · refine (fields_7 (by rw [opc_packX]; rfl)).trans ?_
    simp [-BitVec.reduceAppend, decode7, packX, packHead, Raw.opc, Raw.tl, Raw.f6, Raw.xS, Raw.xD, Raw.xTail]
theorem cpyc : ∀ x0 x1 x2 x3, Statement (.cpyc x0 x1 x2 x3) := by
  intro x0 x1 x2 x3 hw r h; cases h
  refine decode_of_fields ?_ ?_ hw
  · rw [opc_packX]; rfl
  · refine (fields_7 (by rw [opc_packX]; rfl)).trans ?_
    simp [-BitVec.reduceAppend, decode7, packX, packHead, Raw.opc, Raw.tl, Raw.f6, Raw.xS, Raw.xD, Raw.xTail]
theorem qpush : ∀ x0 x1, Statement (.qpush x0 x1) := by
  intro x0 x1 hw r h; cases h
  refine decode_of_fields ?_ ?_ hw
  · rw [opc_packR]; rfl
  · refine (fields_7 (by rw [opc_packR]; rfl)).trans ?_
    simp [-BitVec.reduceAppend, decode7, packR, packHead, Raw.opc, Raw.tl, Raw.f6, Raw.rS, Raw.rD, Raw.rM, Raw.rB, Raw.rA, Raw.t16]
theorem qpop : ∀ x0 x1, Statement (.qpop x0 x1) := by
  intro x0 x1 hw r h; cases h
  refine decode_of_fields ?_ ?_ hw
  · rw [opc_packR]; rfl
  · refine (fields_7 (by rw [opc_packR]; rfl)).trans ?_
    simp [-BitVec.reduceAppend, decode7, packR, packHead, Raw.opc, Raw.tl, Raw.f6, Raw.rS, Raw.rD, Raw.rM, Raw.rB, Raw.rA, Raw.t16]
theorem bqpop : ∀ x0, Statement (.bqpop x0) := by
  intro x0 hw r h; cases h
  refine decode_of_fields ?_ ?_ hw
  · rw [opc_packD]; rfl
  · refine (fields_7 (by rw [opc_packD]; rfl)).trans ?_
    simp [-BitVec.reduceAppend, decode7, packD, packHead, Raw.opc, Raw.tl, Raw.f6, Raw.dMod, Raw.dN]
theorem sems : ∀ x0, Statement (.sems x0) := by
  intro x0 hw r h; cases h
  refine decode_of_fields ?_ ?_ hw
  · rw [opc_packR]; rfl
  · refine (fields_7 (by rw [opc_packR]; rfl)).trans ?_
    simp [-BitVec.reduceAppend, decode7, packR, packHead, Raw.opc, Raw.tl, Raw.f6, Raw.rS, Raw.rD, Raw.rM, Raw.rB, Raw.rA, Raw.t16]
theorem semsRemote : ∀ x0 x1, Statement (.semsRemote x0 x1) := by
  intro x0 x1 hw r h; cases h
  refine decode_of_fields ?_ ?_ hw
  · rw [opc_packR]; rfl
  · refine (fields_7 (by rw [opc_packR]; rfl)).trans ?_
    simp [-BitVec.reduceAppend, decode7, packR, packHead, Raw.opc, Raw.tl, Raw.f6, Raw.rS, Raw.rD, Raw.rM, Raw.rB, Raw.rA, Raw.t16]
theorem semw : ∀ x0, Statement (.semw x0) := by
  intro x0 hw r h; cases h
  refine decode_of_fields ?_ ?_ hw
  · rw [opc_packZ]; rfl
  · refine (fields_7 (by rw [opc_packZ]; rfl)).trans ?_
    simp [-BitVec.reduceAppend, decode7, packZ, packHead, Raw.opc, Raw.tl, Raw.f6, Raw.zF]
theorem barh : ∀ x0 x1 x2, Statement (.barh x0 x1 x2) := by
  intro x0 x1 x2 hw r h; cases h
  refine decode_of_fields ?_ ?_ hw
  · rw [opc_packR]; rfl
  · refine (fields_7 (by rw [opc_packR]; rfl)).trans ?_
    simp [-BitVec.reduceAppend, decode7, packR, packHead, Raw.opc, Raw.tl, Raw.f6, Raw.rS, Raw.rD, Raw.rM, Raw.rB, Raw.rA, Raw.t16]
theorem barw : ∀ x0, Statement (.barw x0) := by
  intro x0 hw r h; cases h
  refine decode_of_fields ?_ ?_ hw
  · rw [opc_packR]; rfl
  · refine (fields_7 (by rw [opc_packR]; rfl)).trans ?_
    simp [-BitVec.reduceAppend, decode7, packR, packHead, Raw.opc, Raw.tl, Raw.f6, Raw.rS, Raw.rD, Raw.rM, Raw.rB, Raw.rA, Raw.t16]
theorem cyc : ∀ x0, Statement (.cyc x0) := by
  intro x0 hw r h; cases h
  refine decode_of_fields ?_ ?_ hw
  · rw [opc_packD]; rfl
  · refine (fields_7 (by rw [opc_packD]; rfl)).trans ?_
    simp [-BitVec.reduceAppend, decode7, packD, packHead, Raw.opc, Raw.tl, Raw.f6, Raw.dMod, Raw.dN]
theorem csend : ∀ x0 x1, Statement (.csend x0 x1) := by
  intro x0 x1 hw r h; cases h
  refine decode_of_fields ?_ ?_ hw
  · rw [opc_packR]; rfl
  · refine (fields_8 (by rw [opc_packR]; rfl)).trans ?_
    simp [-BitVec.reduceAppend, decode8, packR, packHead, Raw.opc, Raw.tl, Raw.f6, Raw.rS, Raw.rD, Raw.rM, Raw.rB, Raw.rA, Raw.t16]
theorem crecv : ∀ x0 x1, Statement (.crecv x0 x1) := by
  intro x0 x1 hw r h; cases h
  refine decode_of_fields ?_ ?_ hw
  · rw [opc_packR]; rfl
  · refine (fields_8 (by rw [opc_packR]; rfl)).trans ?_
    simp [-BitVec.reduceAppend, decode8, packR, packHead, Raw.opc, Raw.tl, Raw.f6, Raw.rS, Raw.rD, Raw.rM, Raw.rB, Raw.rA, Raw.t16]
theorem crecvS : ∀ x0 x1 x2, Statement (.crecvS x0 x1 x2) := by
  intro x0 x1 x2 hw r h; cases h
  refine decode_of_fields ?_ ?_ hw
  · rw [opc_packR]; rfl
  · refine (fields_8 (by rw [opc_packR]; rfl)).trans ?_
    simp [-BitVec.reduceAppend, decode8, packR, packHead, Raw.opc, Raw.tl, Raw.f6, Raw.rS, Raw.rD, Raw.rM, Raw.rB, Raw.rA, Raw.t16]
theorem cpeek : ∀ x0 x1 x2, Statement (.cpeek x0 x1 x2) := by
  intro x0 x1 x2 hw r h; cases h
  refine decode_of_fields ?_ ?_ hw
  · rw [opc_packR]; rfl
  · refine (fields_8 (by rw [opc_packR]; rfl)).trans ?_
    simp [-BitVec.reduceAppend, decode8, packR, packHead, Raw.opc, Raw.tl, Raw.f6, Raw.rS, Raw.rD, Raw.rM, Raw.rB, Raw.rA, Raw.t16]
theorem cmark : Statement .cmark := by
  intro hw r h; cases h
  refine decode_of_fields ?_ ?_ hw
  · rw [opc_packZ]; rfl
  · refine (fields_8 (by rw [opc_packZ]; rfl)).trans ?_
    simp [-BitVec.reduceAppend, decode8, packZ, packHead, Raw.opc, Raw.tl, Raw.f6, Raw.zF]
theorem cwaitm : Statement .cwaitm := by
  intro hw r h; cases h
  refine decode_of_fields ?_ ?_ hw
  · rw [opc_packZ]; rfl
  · refine (fields_8 (by rw [opc_packZ]; rfl)).trans ?_
    simp [-BitVec.reduceAppend, decode8, packZ, packHead, Raw.opc, Raw.tl, Raw.f6, Raw.zF]
theorem cclose : ∀ x0, Statement (.cclose x0) := by
  intro x0 hw r h; cases h
  refine decode_of_fields ?_ ?_ hw
  · rw [opc_packZ]; rfl
  · refine (fields_8 (by rw [opc_packZ]; rfl)).trans ?_
    simp [-BitVec.reduceAppend, decode8, packZ, packHead, Raw.opc, Raw.tl, Raw.f6, Raw.zF]
theorem cstat : ∀ x0 x1 x2, Statement (.cstat x0 x1 x2) := by
  intro x0 x1 x2 hw r h; cases h
  refine decode_of_fields ?_ ?_ hw
  · rw [opc_packR]; rfl
  · refine (fields_8 (by rw [opc_packR]; rfl)).trans ?_
    simp [-BitVec.reduceAppend, decode8, packR, packHead, Raw.opc, Raw.tl, Raw.f6, Raw.rS, Raw.rD, Raw.rM, Raw.rB, Raw.rA, Raw.t16]
theorem cerr : ∀ x0 x1, Statement (.cerr x0 x1) := by
  intro x0 x1 hw r h; cases h
  refine decode_of_fields ?_ ?_ hw
  · rw [opc_packR]; rfl
  · refine (fields_8 (by rw [opc_packR]; rfl)).trans ?_
    simp [-BitVec.reduceAppend, decode8, packR, packHead, Raw.opc, Raw.tl, Raw.f6, Raw.rS, Raw.rD, Raw.rM, Raw.rB, Raw.rA, Raw.t16]
theorem pld : ∀ x0 x1 x2 x3 x4, Statement (.pld x0 x1 x2 x3 x4) := by
  intro x0 x1 x2 x3 x4 hw r h; cases h
  refine decode_of_fields ?_ ?_ hw
  · rw [opc_packX]; rfl
  · refine (fields_8 (by rw [opc_packX]; rfl)).trans ?_
    simp [-BitVec.reduceAppend, decode8, packX, packHead, Raw.opc, Raw.tl, Raw.f6, Raw.xS, Raw.xD, Raw.xTail]
theorem pst : ∀ x0 x1 x2 x3 x4, Statement (.pst x0 x1 x2 x3 x4) := by
  intro x0 x1 x2 x3 x4 hw r h; cases h
  refine decode_of_fields ?_ ?_ hw
  · rw [opc_packX]; rfl
  · refine (fields_8 (by rw [opc_packX]; rfl)).trans ?_
    simp [-BitVec.reduceAppend, decode8, packX, packHead, Raw.opc, Raw.tl, Raw.f6, Raw.xS, Raw.xD, Raw.xTail]
theorem patom : ∀ x0 x1 x2 x3 x4 x5 x6 x7 x8 x9, Statement (.patom x0 x1 x2 x3 x4 x5 x6 x7 x8 x9) := by
  intro x0 x1 x2 x3 x4 x5 x6 x7 x8 x9 hw r h; cases h
  refine decode_of_fields ?_ ?_ hw
  · rw [opc_packX]; rfl
  · refine (fields_8 (by rw [opc_packX]; rfl)).trans ?_
    simp [-BitVec.reduceAppend, decode8, packX, packHead, Raw.opc, Raw.tl, Raw.f6, Raw.xS, Raw.xD, Raw.xTail]
theorem drain : ∀ x0 x1, Statement (.drain x0 x1) := by
  intro x0 x1 hw r h; cases h
  refine decode_of_fields ?_ ?_ hw
  · rw [opc_packR]; rfl
  · refine (fields_8 (by rw [opc_packR]; rfl)).trans ?_
    simp [-BitVec.reduceAppend, decode8, packR, packHead, Raw.opc, Raw.tl, Raw.f6, Raw.rS, Raw.rD, Raw.rM, Raw.rB, Raw.rA, Raw.t16]
theorem xpost : ∀ x0 x1 x2, Statement (.xpost x0 x1 x2) := by
  intro x0 x1 x2 hw r h; cases h
  refine decode_of_fields ?_ ?_ hw
  · rw [opc_packX]; rfl
  · refine (fields_8 (by rw [opc_packX]; rfl)).trans ?_
    simp [-BitVec.reduceAppend, decode8, packX, packHead, Raw.opc, Raw.tl, Raw.f6, Raw.xS, Raw.xD, Raw.xTail]
theorem xcq : ∀ x0 x1, Statement (.xcq x0 x1) := by
  intro x0 x1 hw r h; cases h
  refine decode_of_fields ?_ ?_ hw
  · rw [opc_packR]; rfl
  · refine (fields_8 (by rw [opc_packR]; rfl)).trans ?_
    simp [-BitVec.reduceAppend, decode8, packR, packHead, Raw.opc, Raw.tl, Raw.f6, Raw.rS, Raw.rD, Raw.rM, Raw.rB, Raw.rA, Raw.t16]
theorem xcqW : ∀ x0 x1, Statement (.xcqW x0 x1) := by
  intro x0 x1 hw r h; cases h
  refine decode_of_fields ?_ ?_ hw
  · rw [opc_packR]; rfl
  · refine (fields_8 (by rw [opc_packR]; rfl)).trans ?_
    simp [-BitVec.reduceAppend, decode8, packR, packHead, Raw.opc, Raw.tl, Raw.f6, Raw.rS, Raw.rD, Raw.rM, Raw.rB, Raw.rA, Raw.t16]
theorem xcong : ∀ x0 x1 x2, Statement (.xcong x0 x1 x2) := by
  intro x0 x1 x2 hw r h; cases h
  refine decode_of_fields ?_ ?_ hw
  · rw [opc_packR]; rfl
  · refine (fields_8 (by rw [opc_packR]; rfl)).trans ?_
    simp [-BitVec.reduceAppend, decode8, packR, packHead, Raw.opc, Raw.tl, Raw.f6, Raw.rS, Raw.rD, Raw.rM, Raw.rB, Raw.rA, Raw.t16]
theorem tret : Statement .tret := by
  intro hw r h; cases h
  refine decode_of_fields ?_ ?_ hw
  · rw [opc_packZ]; rfl
  · refine (fields_9 (by rw [opc_packZ]; rfl)).trans ?_
    simp [-BitVec.reduceAppend, decode9, packZ, packHead, Raw.opc, Raw.tl, Raw.f6, Raw.zF]
theorem tretSkip : Statement .tretSkip := by
  intro hw r h; cases h
  refine decode_of_fields ?_ ?_ hw
  · rw [opc_packZ]; rfl
  · refine (fields_9 (by rw [opc_packZ]; rfl)).trans ?_
    simp [-BitVec.reduceAppend, decode9, packZ, packHead, Raw.opc, Raw.tl, Raw.f6, Raw.zF]
theorem tdec : ∀ x0 x1, Statement (.tdec x0 x1) := by
  intro x0 x1 hw r h; cases h
  refine decode_of_fields ?_ ?_ hw
  · rw [opc_packR]; rfl
  · refine (fields_9 (by rw [opc_packR]; rfl)).trans ?_
    simp [-BitVec.reduceAppend, decode9, packR, packHead, Raw.opc, Raw.tl, Raw.f6, Raw.rS, Raw.rD, Raw.rM, Raw.rB, Raw.rA, Raw.t16]
theorem tdecSkip : ∀ x0 x1, Statement (.tdecSkip x0 x1) := by
  intro x0 x1 hw r h; cases h
  refine decode_of_fields ?_ ?_ hw
  · rw [opc_packR]; rfl
  · refine (fields_9 (by rw [opc_packR]; rfl)).trans ?_
    simp [-BitVec.reduceAppend, decode9, packR, packHead, Raw.opc, Raw.tl, Raw.f6, Raw.rS, Raw.rD, Raw.rM, Raw.rB, Raw.rA, Raw.t16]
theorem tinst : ∀ x0 x1 x2 x3, Statement (.tinst x0 x1 x2 x3) := by
  intro x0 x1 x2 x3 hw r h; cases h
  refine decode_of_fields ?_ ?_ hw
  · rw [opc_packR]; rfl
  · refine (fields_9 (by rw [opc_packR]; rfl)).trans ?_
    simp [-BitVec.reduceAppend, decode9, packR, packHead, Raw.opc, Raw.tl, Raw.f6, Raw.rS, Raw.rD, Raw.rM, Raw.rB, Raw.rA, Raw.t16]
theorem tbind : ∀ x0 x1 x2 x3, Statement (.tbind x0 x1 x2 x3) := by
  intro x0 x1 x2 x3 hw r h; cases h
  refine decode_of_fields ?_ ?_ hw
  · rw [opc_packR]; rfl
  · refine (fields_9 (by rw [opc_packR]; rfl)).trans ?_
    simp [-BitVec.reduceAppend, decode9, packR, packHead, Raw.opc, Raw.tl, Raw.f6, Raw.rS, Raw.rD, Raw.rM, Raw.rB, Raw.rA, Raw.t16]
theorem tseal : ∀ x0, Statement (.tseal x0) := by
  intro x0 hw r h; cases h
  refine decode_of_fields ?_ ?_ hw
  · rw [opc_packD]; rfl
  · refine (fields_9 (by rw [opc_packD]; rfl)).trans ?_
    simp [-BitVec.reduceAppend, decode9, packD, packHead, Raw.opc, Raw.tl, Raw.f6, Raw.dMod, Raw.dN]
theorem recput : ∀ x0 x1 x2, Statement (.recput x0 x1 x2) := by
  intro x0 x1 x2 hw r h; cases h
  refine decode_of_fields ?_ ?_ hw
  · rw [opc_packR]; rfl
  · refine (fields_9 (by rw [opc_packR]; rfl)).trans ?_
    simp [-BitVec.reduceAppend, decode9, packR, packHead, Raw.opc, Raw.tl, Raw.f6, Raw.rS, Raw.rD, Raw.rM, Raw.rB, Raw.rA, Raw.t16]
theorem recseal : ∀ x0, Statement (.recseal x0) := by
  intro x0 hw r h; cases h
  refine decode_of_fields ?_ ?_ hw
  · rw [opc_packD]; rfl
  · refine (fields_9 (by rw [opc_packD]; rfl)).trans ?_
    simp [-BitVec.reduceAppend, decode9, packD, packHead, Raw.opc, Raw.tl, Raw.f6, Raw.dMod, Raw.dN]
theorem tstat : ∀ x0 x1 x2, Statement (.tstat x0 x1 x2) := by
  intro x0 x1 x2 hw r h; cases h
  refine decode_of_fields ?_ ?_ hw
  · rw [opc_packR]; rfl
  · refine (fields_9 (by rw [opc_packR]; rfl)).trans ?_
    simp [-BitVec.reduceAppend, decode9, packR, packHead, Raw.opc, Raw.tl, Raw.f6, Raw.rS, Raw.rD, Raw.rM, Raw.rB, Raw.rA, Raw.t16]
theorem tparm : ∀ x0 x1 x2, Statement (.tparm x0 x1 x2) := by
  intro x0 x1 x2 hw r h; cases h
  refine decode_of_fields ?_ ?_ hw
  · rw [opc_packR]; rfl
  · refine (fields_9 (by rw [opc_packR]; rfl)).trans ?_
    simp [-BitVec.reduceAppend, decode9, packR, packHead, Raw.opc, Raw.tl, Raw.f6, Raw.rS, Raw.rD, Raw.rM, Raw.rB, Raw.rA, Raw.t16]
theorem tfree : ∀ x0, Statement (.tfree x0) := by
  intro x0 hw r h; cases h
  refine decode_of_fields ?_ ?_ hw
  · rw [opc_packD]; rfl
  · refine (fields_9 (by rw [opc_packD]; rfl)).trans ?_
    simp [-BitVec.reduceAppend, decode9, packD, packHead, Raw.opc, Raw.tl, Raw.f6, Raw.dMod, Raw.dN]
theorem vadd : ∀ x0 x1 x2 x3 x4 x5, Statement (.vadd x0 x1 x2 x3 x4 x5) := by
  intro x0 x1 x2 x3 x4 x5 hw r h; cases h
  refine decode_of_fields ?_ ?_ hw
  · rw [opc_packV]; rfl
  · refine (fields_A (by rw [opc_packV]; rfl)).trans ?_
    simp [-BitVec.reduceAppend, decodeA, packV, packHead, Raw.opc, Raw.tl, Raw.f6, Raw.vS, Raw.vD, Raw.vM, Raw.vT, Raw.vP, Raw.vC, Raw.vB, Raw.vA, Raw.t32]
theorem vaddS : ∀ x0 x1 x2 x3 x4 x5, Statement (.vaddS x0 x1 x2 x3 x4 x5) := by
  intro x0 x1 x2 x3 x4 x5 hw r h; cases h
  refine decode_of_fields ?_ ?_ hw
  · rw [opc_packV]; rfl
  · refine (fields_A (by rw [opc_packV]; rfl)).trans ?_
    simp [-BitVec.reduceAppend, decodeA, packV, packHead, Raw.opc, Raw.tl, Raw.f6, Raw.vS, Raw.vD, Raw.vM, Raw.vT, Raw.vP, Raw.vC, Raw.vB, Raw.vA, Raw.t32]
theorem vsub : ∀ x0 x1 x2 x3 x4 x5, Statement (.vsub x0 x1 x2 x3 x4 x5) := by
  intro x0 x1 x2 x3 x4 x5 hw r h; cases h
  refine decode_of_fields ?_ ?_ hw
  · rw [opc_packV]; rfl
  · refine (fields_A (by rw [opc_packV]; rfl)).trans ?_
    simp [-BitVec.reduceAppend, decodeA, packV, packHead, Raw.opc, Raw.tl, Raw.f6, Raw.vS, Raw.vD, Raw.vM, Raw.vT, Raw.vP, Raw.vC, Raw.vB, Raw.vA, Raw.t32]
theorem vsubS : ∀ x0 x1 x2 x3 x4 x5, Statement (.vsubS x0 x1 x2 x3 x4 x5) := by
  intro x0 x1 x2 x3 x4 x5 hw r h; cases h
  refine decode_of_fields ?_ ?_ hw
  · rw [opc_packV]; rfl
  · refine (fields_A (by rw [opc_packV]; rfl)).trans ?_
    simp [-BitVec.reduceAppend, decodeA, packV, packHead, Raw.opc, Raw.tl, Raw.f6, Raw.vS, Raw.vD, Raw.vM, Raw.vT, Raw.vP, Raw.vC, Raw.vB, Raw.vA, Raw.t32]
theorem vmul : ∀ x0 x1 x2 x3 x4, Statement (.vmul x0 x1 x2 x3 x4) := by
  intro x0 x1 x2 x3 x4 hw r h; cases h
  refine decode_of_fields ?_ ?_ hw
  · rw [opc_packV]; rfl
  · refine (fields_A (by rw [opc_packV]; rfl)).trans ?_
    simp [-BitVec.reduceAppend, decodeA, packV, packHead, Raw.opc, Raw.tl, Raw.f6, Raw.vS, Raw.vD, Raw.vM, Raw.vT, Raw.vP, Raw.vC, Raw.vB, Raw.vA, Raw.t32]
theorem vmulS : ∀ x0 x1 x2 x3 x4, Statement (.vmulS x0 x1 x2 x3 x4) := by
  intro x0 x1 x2 x3 x4 hw r h; cases h
  refine decode_of_fields ?_ ?_ hw
  · rw [opc_packV]; rfl
  · refine (fields_A (by rw [opc_packV]; rfl)).trans ?_
    simp [-BitVec.reduceAppend, decodeA, packV, packHead, Raw.opc, Raw.tl, Raw.f6, Raw.vS, Raw.vD, Raw.vM, Raw.vT, Raw.vP, Raw.vC, Raw.vB, Raw.vA, Raw.t32]
theorem vfma : ∀ x0 x1 x2 x3 x4 x5, Statement (.vfma x0 x1 x2 x3 x4 x5) := by
  intro x0 x1 x2 x3 x4 x5 hw r h; cases h
  refine decode_of_fields ?_ ?_ hw
  · rw [opc_packV]; rfl
  · refine (fields_A (by rw [opc_packV]; rfl)).trans ?_
    simp [-BitVec.reduceAppend, decodeA, packV, packHead, Raw.opc, Raw.tl, Raw.f6, Raw.vS, Raw.vD, Raw.vM, Raw.vT, Raw.vP, Raw.vC, Raw.vB, Raw.vA, Raw.t32]
theorem vfms : ∀ x0 x1 x2 x3 x4 x5, Statement (.vfms x0 x1 x2 x3 x4 x5) := by
  intro x0 x1 x2 x3 x4 x5 hw r h; cases h
  refine decode_of_fields ?_ ?_ hw
  · rw [opc_packV]; rfl
  · refine (fields_A (by rw [opc_packV]; rfl)).trans ?_
    simp [-BitVec.reduceAppend, decodeA, packV, packHead, Raw.opc, Raw.tl, Raw.f6, Raw.vS, Raw.vD, Raw.vM, Raw.vT, Raw.vP, Raw.vC, Raw.vB, Raw.vA, Raw.t32]
theorem vmin : ∀ x0 x1 x2 x3 x4, Statement (.vmin x0 x1 x2 x3 x4) := by
  intro x0 x1 x2 x3 x4 hw r h; cases h
  refine decode_of_fields ?_ ?_ hw
  · rw [opc_packV]; rfl
  · refine (fields_A (by rw [opc_packV]; rfl)).trans ?_
    simp [-BitVec.reduceAppend, decodeA, packV, packHead, Raw.opc, Raw.tl, Raw.f6, Raw.vS, Raw.vD, Raw.vM, Raw.vT, Raw.vP, Raw.vC, Raw.vB, Raw.vA, Raw.t32]
theorem vminS : ∀ x0 x1 x2 x3 x4, Statement (.vminS x0 x1 x2 x3 x4) := by
  intro x0 x1 x2 x3 x4 hw r h; cases h
  refine decode_of_fields ?_ ?_ hw
  · rw [opc_packV]; rfl
  · refine (fields_A (by rw [opc_packV]; rfl)).trans ?_
    simp [-BitVec.reduceAppend, decodeA, packV, packHead, Raw.opc, Raw.tl, Raw.f6, Raw.vS, Raw.vD, Raw.vM, Raw.vT, Raw.vP, Raw.vC, Raw.vB, Raw.vA, Raw.t32]
theorem vmax : ∀ x0 x1 x2 x3 x4, Statement (.vmax x0 x1 x2 x3 x4) := by
  intro x0 x1 x2 x3 x4 hw r h; cases h
  refine decode_of_fields ?_ ?_ hw
  · rw [opc_packV]; rfl
  · refine (fields_A (by rw [opc_packV]; rfl)).trans ?_
    simp [-BitVec.reduceAppend, decodeA, packV, packHead, Raw.opc, Raw.tl, Raw.f6, Raw.vS, Raw.vD, Raw.vM, Raw.vT, Raw.vP, Raw.vC, Raw.vB, Raw.vA, Raw.t32]
theorem vmaxS : ∀ x0 x1 x2 x3 x4, Statement (.vmaxS x0 x1 x2 x3 x4) := by
  intro x0 x1 x2 x3 x4 hw r h; cases h
  refine decode_of_fields ?_ ?_ hw
  · rw [opc_packV]; rfl
  · refine (fields_A (by rw [opc_packV]; rfl)).trans ?_
    simp [-BitVec.reduceAppend, decodeA, packV, packHead, Raw.opc, Raw.tl, Raw.f6, Raw.vS, Raw.vD, Raw.vM, Raw.vT, Raw.vP, Raw.vC, Raw.vB, Raw.vA, Raw.t32]
theorem vabs : ∀ x0 x1 x2 x3, Statement (.vabs x0 x1 x2 x3) := by
  intro x0 x1 x2 x3 hw r h; cases h
  refine decode_of_fields ?_ ?_ hw
  · rw [opc_packV]; rfl
  · refine (fields_A (by rw [opc_packV]; rfl)).trans ?_
    simp [-BitVec.reduceAppend, decodeA, packV, packHead, Raw.opc, Raw.tl, Raw.f6, Raw.vS, Raw.vD, Raw.vM, Raw.vT, Raw.vP, Raw.vC, Raw.vB, Raw.vA, Raw.t32]
theorem vneg : ∀ x0 x1 x2 x3, Statement (.vneg x0 x1 x2 x3) := by
  intro x0 x1 x2 x3 hw r h; cases h
  refine decode_of_fields ?_ ?_ hw
  · rw [opc_packV]; rfl
  · refine (fields_A (by rw [opc_packV]; rfl)).trans ?_
    simp [-BitVec.reduceAppend, decodeA, packV, packHead, Raw.opc, Raw.tl, Raw.f6, Raw.vS, Raw.vD, Raw.vM, Raw.vT, Raw.vP, Raw.vC, Raw.vB, Raw.vA, Raw.t32]
theorem vand : ∀ x0 x1 x2 x3 x4, Statement (.vand x0 x1 x2 x3 x4) := by
  intro x0 x1 x2 x3 x4 hw r h; cases h
  refine decode_of_fields ?_ ?_ hw
  · rw [opc_packV]; rfl
  · refine (fields_A (by rw [opc_packV]; rfl)).trans ?_
    simp [-BitVec.reduceAppend, decodeA, packV, packHead, Raw.opc, Raw.tl, Raw.f6, Raw.vS, Raw.vD, Raw.vM, Raw.vT, Raw.vP, Raw.vC, Raw.vB, Raw.vA, Raw.t32]
theorem vandS : ∀ x0 x1 x2 x3 x4, Statement (.vandS x0 x1 x2 x3 x4) := by
  intro x0 x1 x2 x3 x4 hw r h; cases h
  refine decode_of_fields ?_ ?_ hw
  · rw [opc_packV]; rfl
  · refine (fields_A (by rw [opc_packV]; rfl)).trans ?_
    simp [-BitVec.reduceAppend, decodeA, packV, packHead, Raw.opc, Raw.tl, Raw.f6, Raw.vS, Raw.vD, Raw.vM, Raw.vT, Raw.vP, Raw.vC, Raw.vB, Raw.vA, Raw.t32]
theorem vor : ∀ x0 x1 x2 x3 x4, Statement (.vor x0 x1 x2 x3 x4) := by
  intro x0 x1 x2 x3 x4 hw r h; cases h
  refine decode_of_fields ?_ ?_ hw
  · rw [opc_packV]; rfl
  · refine (fields_A (by rw [opc_packV]; rfl)).trans ?_
    simp [-BitVec.reduceAppend, decodeA, packV, packHead, Raw.opc, Raw.tl, Raw.f6, Raw.vS, Raw.vD, Raw.vM, Raw.vT, Raw.vP, Raw.vC, Raw.vB, Raw.vA, Raw.t32]
theorem vorS : ∀ x0 x1 x2 x3 x4, Statement (.vorS x0 x1 x2 x3 x4) := by
  intro x0 x1 x2 x3 x4 hw r h; cases h
  refine decode_of_fields ?_ ?_ hw
  · rw [opc_packV]; rfl
  · refine (fields_A (by rw [opc_packV]; rfl)).trans ?_
    simp [-BitVec.reduceAppend, decodeA, packV, packHead, Raw.opc, Raw.tl, Raw.f6, Raw.vS, Raw.vD, Raw.vM, Raw.vT, Raw.vP, Raw.vC, Raw.vB, Raw.vA, Raw.t32]
theorem vxor : ∀ x0 x1 x2 x3 x4, Statement (.vxor x0 x1 x2 x3 x4) := by
  intro x0 x1 x2 x3 x4 hw r h; cases h
  refine decode_of_fields ?_ ?_ hw
  · rw [opc_packV]; rfl
  · refine (fields_A (by rw [opc_packV]; rfl)).trans ?_
    simp [-BitVec.reduceAppend, decodeA, packV, packHead, Raw.opc, Raw.tl, Raw.f6, Raw.vS, Raw.vD, Raw.vM, Raw.vT, Raw.vP, Raw.vC, Raw.vB, Raw.vA, Raw.t32]
theorem vxorS : ∀ x0 x1 x2 x3 x4, Statement (.vxorS x0 x1 x2 x3 x4) := by
  intro x0 x1 x2 x3 x4 hw r h; cases h
  refine decode_of_fields ?_ ?_ hw
  · rw [opc_packV]; rfl
  · refine (fields_A (by rw [opc_packV]; rfl)).trans ?_
    simp [-BitVec.reduceAppend, decodeA, packV, packHead, Raw.opc, Raw.tl, Raw.f6, Raw.vS, Raw.vD, Raw.vM, Raw.vT, Raw.vP, Raw.vC, Raw.vB, Raw.vA, Raw.t32]
theorem vshl : ∀ x0 x1 x2 x3 x4, Statement (.vshl x0 x1 x2 x3 x4) := by
  intro x0 x1 x2 x3 x4 hw r h; cases h
  refine decode_of_fields ?_ ?_ hw
  · rw [opc_packV]; rfl
  · refine (fields_A (by rw [opc_packV]; rfl)).trans ?_
    simp [-BitVec.reduceAppend, decodeA, packV, packHead, Raw.opc, Raw.tl, Raw.f6, Raw.vS, Raw.vD, Raw.vM, Raw.vT, Raw.vP, Raw.vC, Raw.vB, Raw.vA, Raw.t32]
theorem vshlS : ∀ x0 x1 x2 x3 x4, Statement (.vshlS x0 x1 x2 x3 x4) := by
  intro x0 x1 x2 x3 x4 hw r h; cases h
  refine decode_of_fields ?_ ?_ hw
  · rw [opc_packV]; rfl
  · refine (fields_A (by rw [opc_packV]; rfl)).trans ?_
    simp [-BitVec.reduceAppend, decodeA, packV, packHead, Raw.opc, Raw.tl, Raw.f6, Raw.vS, Raw.vD, Raw.vM, Raw.vT, Raw.vP, Raw.vC, Raw.vB, Raw.vA, Raw.t32]
theorem vshr : ∀ x0 x1 x2 x3 x4, Statement (.vshr x0 x1 x2 x3 x4) := by
  intro x0 x1 x2 x3 x4 hw r h; cases h
  refine decode_of_fields ?_ ?_ hw
  · rw [opc_packV]; rfl
  · refine (fields_A (by rw [opc_packV]; rfl)).trans ?_
    simp [-BitVec.reduceAppend, decodeA, packV, packHead, Raw.opc, Raw.tl, Raw.f6, Raw.vS, Raw.vD, Raw.vM, Raw.vT, Raw.vP, Raw.vC, Raw.vB, Raw.vA, Raw.t32]
theorem vshrS : ∀ x0 x1 x2 x3 x4, Statement (.vshrS x0 x1 x2 x3 x4) := by
  intro x0 x1 x2 x3 x4 hw r h; cases h
  refine decode_of_fields ?_ ?_ hw
  · rw [opc_packV]; rfl
  · refine (fields_A (by rw [opc_packV]; rfl)).trans ?_
    simp [-BitVec.reduceAppend, decodeA, packV, packHead, Raw.opc, Raw.tl, Raw.f6, Raw.vS, Raw.vD, Raw.vM, Raw.vT, Raw.vP, Raw.vC, Raw.vB, Raw.vA, Raw.t32]
theorem vsar : ∀ x0 x1 x2 x3 x4, Statement (.vsar x0 x1 x2 x3 x4) := by
  intro x0 x1 x2 x3 x4 hw r h; cases h
  refine decode_of_fields ?_ ?_ hw
  · rw [opc_packV]; rfl
  · refine (fields_A (by rw [opc_packV]; rfl)).trans ?_
    simp [-BitVec.reduceAppend, decodeA, packV, packHead, Raw.opc, Raw.tl, Raw.f6, Raw.vS, Raw.vD, Raw.vM, Raw.vT, Raw.vP, Raw.vC, Raw.vB, Raw.vA, Raw.t32]
theorem vsarS : ∀ x0 x1 x2 x3 x4, Statement (.vsarS x0 x1 x2 x3 x4) := by
  intro x0 x1 x2 x3 x4 hw r h; cases h
  refine decode_of_fields ?_ ?_ hw
  · rw [opc_packV]; rfl
  · refine (fields_A (by rw [opc_packV]; rfl)).trans ?_
    simp [-BitVec.reduceAppend, decodeA, packV, packHead, Raw.opc, Raw.tl, Raw.f6, Raw.vS, Raw.vD, Raw.vM, Raw.vT, Raw.vP, Raw.vC, Raw.vB, Raw.vA, Raw.t32]
theorem vcmp : ∀ x0 x1 x2 x3 x4 x5, Statement (.vcmp x0 x1 x2 x3 x4 x5) := by
  intro x0 x1 x2 x3 x4 x5 hw r h; cases h
  refine decode_of_fields ?_ ?_ hw
  · rw [opc_packV]; rfl
  · refine (fields_A (by rw [opc_packV]; rfl)).trans ?_
    simp [-BitVec.reduceAppend, decodeA, packV, packHead, Raw.opc, Raw.tl, Raw.f6, Raw.vS, Raw.vD, Raw.vM, Raw.vT, Raw.vP, Raw.vC, Raw.vB, Raw.vA, Raw.t32]
theorem vcmpS : ∀ x0 x1 x2 x3 x4 x5, Statement (.vcmpS x0 x1 x2 x3 x4 x5) := by
  intro x0 x1 x2 x3 x4 x5 hw r h; cases h
  refine decode_of_fields ?_ ?_ hw
  · rw [opc_packV]; rfl
  · refine (fields_A (by rw [opc_packV]; rfl)).trans ?_
    simp [-BitVec.reduceAppend, decodeA, packV, packHead, Raw.opc, Raw.tl, Raw.f6, Raw.vS, Raw.vD, Raw.vM, Raw.vT, Raw.vP, Raw.vC, Raw.vB, Raw.vA, Raw.t32]
theorem vsel : ∀ x0 x1 x2 x3 x4, Statement (.vsel x0 x1 x2 x3 x4) := by
  intro x0 x1 x2 x3 x4 hw r h; cases h
  refine decode_of_fields ?_ ?_ hw
  · rw [opc_packV]; rfl
  · refine (fields_B (by rw [opc_packV]; rfl)).trans ?_
    simp [-BitVec.reduceAppend, decodeB, packV, packHead, Raw.opc, Raw.tl, Raw.f6, Raw.vS, Raw.vD, Raw.vM, Raw.vT, Raw.vP, Raw.vC, Raw.vB, Raw.vA, Raw.t32]
theorem vperm : ∀ x0 x1 x2 x3 x4, Statement (.vperm x0 x1 x2 x3 x4) := by
  intro x0 x1 x2 x3 x4 hw r h; cases h
  refine decode_of_fields ?_ ?_ hw
  · rw [opc_packV]; rfl
  · refine (fields_B (by rw [opc_packV]; rfl)).trans ?_
    simp [-BitVec.reduceAppend, decodeB, packV, packHead, Raw.opc, Raw.tl, Raw.f6, Raw.vS, Raw.vD, Raw.vM, Raw.vT, Raw.vP, Raw.vC, Raw.vB, Raw.vA, Raw.t32]
theorem vperm2 : ∀ x0 x1 x2 x3 x4 x5, Statement (.vperm2 x0 x1 x2 x3 x4 x5) := by
  intro x0 x1 x2 x3 x4 x5 hw r h; cases h
  refine decode_of_fields ?_ ?_ hw
  · rw [opc_packV]; rfl
  · refine (fields_B (by rw [opc_packV]; rfl)).trans ?_
    simp [-BitVec.reduceAppend, decodeB, packV, packHead, Raw.opc, Raw.tl, Raw.f6, Raw.vS, Raw.vD, Raw.vM, Raw.vT, Raw.vP, Raw.vC, Raw.vB, Raw.vA, Raw.t32]
theorem vbcast : ∀ x0 x1 x2 x3, Statement (.vbcast x0 x1 x2 x3) := by
  intro x0 x1 x2 x3 hw r h; cases h
  refine decode_of_fields ?_ ?_ hw
  · rw [opc_packV]; rfl
  · refine (fields_B (by rw [opc_packV]; rfl)).trans ?_
    simp [-BitVec.reduceAppend, decodeB, packV, packHead, Raw.opc, Raw.tl, Raw.f6, Raw.vS, Raw.vD, Raw.vM, Raw.vT, Raw.vP, Raw.vC, Raw.vB, Raw.vA, Raw.t32]
theorem vbcastElem : ∀ x0 x1 x2 x3 x4, Statement (.vbcastElem x0 x1 x2 x3 x4) := by
  intro x0 x1 x2 x3 x4 hw r h; cases h
  refine decode_of_fields ?_ ?_ hw
  · rw [opc_packV]; rfl
  · refine (fields_B (by rw [opc_packV]; rfl)).trans ?_
    simp [-BitVec.reduceAppend, decodeB, packV, packHead, Raw.opc, Raw.tl, Raw.f6, Raw.vS, Raw.vD, Raw.vM, Raw.vT, Raw.vP, Raw.vC, Raw.vB, Raw.vA, Raw.t32]
theorem vmov : ∀ x0 x1 x2 x3, Statement (.vmov x0 x1 x2 x3) := by
  intro x0 x1 x2 x3 hw r h; cases h
  refine decode_of_fields ?_ ?_ hw
  · rw [opc_packV]; rfl
  · refine (fields_B (by rw [opc_packV]; rfl)).trans ?_
    simp [-BitVec.reduceAppend, decodeB, packV, packHead, Raw.opc, Raw.tl, Raw.f6, Raw.vS, Raw.vD, Raw.vM, Raw.vT, Raw.vP, Raw.vC, Raw.vB, Raw.vA, Raw.t32]
theorem vli : ∀ x0 x1, Statement (.vli x0 x1) := by
  intro x0 x1 hw r h; cases h
  refine decode_of_fields ?_ ?_ hw
  · rw [opc_packL]; rfl
  · refine (fields_B (by rw [opc_packL]; rfl)).trans ?_
    simp [-BitVec.reduceAppend, decodeB, packL, packHead, Raw.opc, Raw.tl, Raw.f6, Raw.lS, Raw.lD, Raw.lImm]
theorem vext : ∀ x0 x1 x2 x3, Statement (.vext x0 x1 x2 x3) := by
  intro x0 x1 x2 x3 hw r h; cases h
  refine decode_of_fields ?_ ?_ hw
  · rw [opc_packV]; rfl
  · refine (fields_B (by rw [opc_packV]; rfl)).trans ?_
    simp [-BitVec.reduceAppend, decodeB, packV, packHead, Raw.opc, Raw.tl, Raw.f6, Raw.vS, Raw.vD, Raw.vM, Raw.vT, Raw.vP, Raw.vC, Raw.vB, Raw.vA, Raw.t32]
theorem vextReg : ∀ x0 x1 x2 x3, Statement (.vextReg x0 x1 x2 x3) := by
  intro x0 x1 x2 x3 hw r h; cases h
  refine decode_of_fields ?_ ?_ hw
  · rw [opc_packV]; rfl
  · refine (fields_B (by rw [opc_packV]; rfl)).trans ?_
    simp [-BitVec.reduceAppend, decodeB, packV, packHead, Raw.opc, Raw.tl, Raw.f6, Raw.vS, Raw.vD, Raw.vM, Raw.vT, Raw.vP, Raw.vC, Raw.vB, Raw.vA, Raw.t32]
theorem vins : ∀ x0 x1 x2 x3, Statement (.vins x0 x1 x2 x3) := by
  intro x0 x1 x2 x3 hw r h; cases h
  refine decode_of_fields ?_ ?_ hw
  · rw [opc_packV]; rfl
  · refine (fields_B (by rw [opc_packV]; rfl)).trans ?_
    simp [-BitVec.reduceAppend, decodeB, packV, packHead, Raw.opc, Raw.tl, Raw.f6, Raw.vS, Raw.vD, Raw.vM, Raw.vT, Raw.vP, Raw.vC, Raw.vB, Raw.vA, Raw.t32]
theorem vinsReg : ∀ x0 x1 x2 x3, Statement (.vinsReg x0 x1 x2 x3) := by
  intro x0 x1 x2 x3 hw r h; cases h
  refine decode_of_fields ?_ ?_ hw
  · rw [opc_packV]; rfl
  · refine (fields_B (by rw [opc_packV]; rfl)).trans ?_
    simp [-BitVec.reduceAppend, decodeB, packV, packHead, Raw.opc, Raw.tl, Raw.f6, Raw.vS, Raw.vD, Raw.vM, Raw.vT, Raw.vP, Raw.vC, Raw.vB, Raw.vA, Raw.t32]
theorem vqin : ∀ x0 x1, Statement (.vqin x0 x1) := by
  intro x0 x1 hw r h; cases h
  refine decode_of_fields ?_ ?_ hw
  · rw [opc_packV]; rfl
  · refine (fields_B (by rw [opc_packV]; rfl)).trans ?_
    simp [-BitVec.reduceAppend, decodeB, packV, packHead, Raw.opc, Raw.tl, Raw.f6, Raw.vS, Raw.vD, Raw.vM, Raw.vT, Raw.vP, Raw.vC, Raw.vB, Raw.vA, Raw.t32]
theorem vqout : ∀ x0 x1, Statement (.vqout x0 x1) := by
  intro x0 x1 hw r h; cases h
  refine decode_of_fields ?_ ?_ hw
  · rw [opc_packV]; rfl
  · refine (fields_B (by rw [opc_packV]; rfl)).trans ?_
    simp [-BitVec.reduceAppend, decodeB, packV, packHead, Raw.opc, Raw.tl, Raw.f6, Raw.vS, Raw.vD, Raw.vM, Raw.vT, Raw.vP, Raw.vC, Raw.vB, Raw.vA, Raw.t32]
theorem vcvt : ∀ x0 x1 x2 x3 x4 x5 x6, Statement (.vcvt x0 x1 x2 x3 x4 x5 x6) := by
  intro x0 x1 x2 x3 x4 x5 x6 hw r h; cases h
  refine decode_of_fields ?_ ?_ hw
  · rw [opc_packV]; rfl
  · refine (fields_B (by rw [opc_packV]; rfl)).trans ?_
    simp [-BitVec.reduceAppend, decodeB, packV, packHead, Raw.opc, Raw.tl, Raw.f6, Raw.vS, Raw.vD, Raw.vM, Raw.vT, Raw.vP, Raw.vC, Raw.vB, Raw.vA, Raw.t32]
theorem vred : ∀ x0 x1 x2 x3 x4, Statement (.vred x0 x1 x2 x3 x4) := by
  intro x0 x1 x2 x3 x4 hw r h; cases h
  refine decode_of_fields ?_ ?_ hw
  · rw [opc_packV]; rfl
  · refine (fields_B (by rw [opc_packV]; rfl)).trans ?_
    simp [-BitVec.reduceAppend, decodeB, packV, packHead, Raw.opc, Raw.tl, Raw.f6, Raw.vS, Raw.vD, Raw.vM, Raw.vT, Raw.vP, Raw.vC, Raw.vB, Raw.vA, Raw.t32]
theorem vscan : ∀ x0 x1 x2 x3 x4, Statement (.vscan x0 x1 x2 x3 x4) := by
  intro x0 x1 x2 x3 x4 hw r h; cases h
  refine decode_of_fields ?_ ?_ hw
  · rw [opc_packV]; rfl
  · refine (fields_B (by rw [opc_packV]; rfl)).trans ?_
    simp [-BitVec.reduceAppend, decodeB, packV, packHead, Raw.opc, Raw.tl, Raw.f6, Raw.vS, Raw.vD, Raw.vM, Raw.vT, Raw.vP, Raw.vC, Raw.vB, Raw.vA, Raw.t32]
theorem vlut : ∀ x0 x1 x2 x3 x4, Statement (.vlut x0 x1 x2 x3 x4) := by
  intro x0 x1 x2 x3 x4 hw r h; cases h
  refine decode_of_fields ?_ ?_ hw
  · rw [opc_packV]; rfl
  · refine (fields_B (by rw [opc_packV]; rfl)).trans ?_
    simp [-BitVec.reduceAppend, decodeB, packV, packHead, Raw.opc, Raw.tl, Raw.f6, Raw.vS, Raw.vD, Raw.vM, Raw.vT, Raw.vP, Raw.vC, Raw.vB, Raw.vA, Raw.t32]
theorem vsf : ∀ x0 x1 x2 x3, Statement (.vsf x0 x1 x2 x3) := by
  intro x0 x1 x2 x3 hw r h; cases h
  refine decode_of_fields ?_ ?_ hw
  · rw [opc_packV]; rfl
  · refine (fields_B (by rw [opc_packV]; rfl)).trans ?_
    simp [-BitVec.reduceAppend, decodeB, packV, packHead, Raw.opc, Raw.tl, Raw.f6, Raw.vS, Raw.vD, Raw.vM, Raw.vT, Raw.vP, Raw.vC, Raw.vB, Raw.vA, Raw.t32]
theorem vdiv : ∀ x0 x1 x2 x3 x4 x5, Statement (.vdiv x0 x1 x2 x3 x4 x5) := by
  intro x0 x1 x2 x3 x4 x5 hw r h; cases h
  refine decode_of_fields ?_ ?_ hw
  · rw [opc_packV]; rfl
  · refine (fields_B (by rw [opc_packV]; rfl)).trans ?_
    simp [-BitVec.reduceAppend, decodeB, packV, packHead, Raw.opc, Raw.tl, Raw.f6, Raw.vS, Raw.vD, Raw.vM, Raw.vT, Raw.vP, Raw.vC, Raw.vB, Raw.vA, Raw.t32]
theorem vsqrt : ∀ x0 x1 x2 x3, Statement (.vsqrt x0 x1 x2 x3) := by
  intro x0 x1 x2 x3 hw r h; cases h
  refine decode_of_fields ?_ ?_ hw
  · rw [opc_packV]; rfl
  · refine (fields_B (by rw [opc_packV]; rfl)).trans ?_
    simp [-BitVec.reduceAppend, decodeB, packV, packHead, Raw.opc, Raw.tl, Raw.f6, Raw.vS, Raw.vD, Raw.vM, Raw.vT, Raw.vP, Raw.vC, Raw.vB, Raw.vA, Raw.t32]
theorem vchain : ∀ x0 x1 x2 x3, Statement (.vchain x0 x1 x2 x3) := by
  intro x0 x1 x2 x3 hw r h; cases h
  refine decode_of_fields ?_ ?_ hw
  · rw [opc_packX]; rfl
  · refine (fields_C (by rw [opc_packX]; rfl)).trans ?_
    simp [-BitVec.reduceAppend, decodeC, packX, packHead, Raw.opc, Raw.tl, Raw.f6, Raw.xS, Raw.xD, Raw.xTail]
theorem vrun : ∀ x0 x1 x2 x3, Statement (.vrun x0 x1 x2 x3) := by
  intro x0 x1 x2 x3 hw r h; cases h
  refine decode_of_fields ?_ ?_ hw
  · rw [opc_packV]; rfl
  · refine (fields_C (by rw [opc_packV]; rfl)).trans ?_
    simp [-BitVec.reduceAppend, decodeC, packV, packHead, Raw.opc, Raw.tl, Raw.f6, Raw.vS, Raw.vD, Raw.vM, Raw.vT, Raw.vP, Raw.vC, Raw.vB, Raw.vA, Raw.t32]
theorem vrunVec : ∀ x0 x1 x2 x3, Statement (.vrunVec x0 x1 x2 x3) := by
  intro x0 x1 x2 x3 hw r h; cases h
  refine decode_of_fields ?_ ?_ hw
  · rw [opc_packV]; rfl
  · refine (fields_C (by rw [opc_packV]; rfl)).trans ?_
    simp [-BitVec.reduceAppend, decodeC, packV, packHead, Raw.opc, Raw.tl, Raw.f6, Raw.vS, Raw.vD, Raw.vM, Raw.vT, Raw.vP, Raw.vC, Raw.vB, Raw.vA, Raw.t32]
theorem vkop : ∀ x0 x1 x2 x3, Statement (.vkop x0 x1 x2 x3) := by
  intro x0 x1 x2 x3 hw r h; cases h
  refine decode_of_fields ?_ ?_ hw
  · rw [opc_packV]; rfl
  · refine (fields_C (by rw [opc_packV]; rfl)).trans ?_
    simp [-BitVec.reduceAppend, decodeC, packV, packHead, Raw.opc, Raw.tl, Raw.f6, Raw.vS, Raw.vD, Raw.vM, Raw.vT, Raw.vP, Raw.vC, Raw.vB, Raw.vA, Raw.t32]
theorem vkmov : ∀ x0 x1 x2, Statement (.vkmov x0 x1 x2) := by
  intro x0 x1 x2 hw r h; cases h
  refine decode_of_fields ?_ ?_ hw
  · rw [opc_packV]; rfl
  · refine (fields_C (by rw [opc_packV]; rfl)).trans ?_
    simp [-BitVec.reduceAppend, decodeC, packV, packHead, Raw.opc, Raw.tl, Raw.f6, Raw.vS, Raw.vD, Raw.vM, Raw.vT, Raw.vP, Raw.vC, Raw.vB, Raw.vA, Raw.t32]
theorem vclip : ∀ x0 x1 x2 x3 x4 x5, Statement (.vclip x0 x1 x2 x3 x4 x5) := by
  intro x0 x1 x2 x3 x4 x5 hw r h; cases h
  refine decode_of_fields ?_ ?_ hw
  · rw [opc_packV]; rfl
  · refine (fields_C (by rw [opc_packV]; rfl)).trans ?_
    simp [-BitVec.reduceAppend, decodeC, packV, packHead, Raw.opc, Raw.tl, Raw.f6, Raw.vS, Raw.vD, Raw.vM, Raw.vT, Raw.vP, Raw.vC, Raw.vB, Raw.vA, Raw.t32]
theorem vclipS : ∀ x0 x1 x2 x3 x4 x5, Statement (.vclipS x0 x1 x2 x3 x4 x5) := by
  intro x0 x1 x2 x3 x4 x5 hw r h; cases h
  refine decode_of_fields ?_ ?_ hw
  · rw [opc_packV]; rfl
  · refine (fields_C (by rw [opc_packV]; rfl)).trans ?_
    simp [-BitVec.reduceAppend, decodeC, packV, packHead, Raw.opc, Raw.tl, Raw.f6, Raw.vS, Raw.vD, Raw.vM, Raw.vT, Raw.vP, Raw.vC, Raw.vB, Raw.vA, Raw.t32]
theorem vscale : ∀ x0 x1 x2 x3 x4, Statement (.vscale x0 x1 x2 x3 x4) := by
  intro x0 x1 x2 x3 x4 hw r h; cases h
  refine decode_of_fields ?_ ?_ hw
  · rw [opc_packV]; rfl
  · refine (fields_C (by rw [opc_packV]; rfl)).trans ?_
    simp [-BitVec.reduceAppend, decodeC, packV, packHead, Raw.opc, Raw.tl, Raw.f6, Raw.vS, Raw.vD, Raw.vM, Raw.vT, Raw.vP, Raw.vC, Raw.vB, Raw.vA, Raw.t32]
theorem vscaleS : ∀ x0 x1 x2 x3 x4, Statement (.vscaleS x0 x1 x2 x3 x4) := by
  intro x0 x1 x2 x3 x4 hw r h; cases h
  refine decode_of_fields ?_ ?_ hw
  · rw [opc_packV]; rfl
  · refine (fields_C (by rw [opc_packV]; rfl)).trans ?_
    simp [-BitVec.reduceAppend, decodeC, packV, packHead, Raw.opc, Raw.tl, Raw.f6, Raw.vS, Raw.vD, Raw.vM, Raw.vT, Raw.vP, Raw.vC, Raw.vB, Raw.vA, Raw.t32]
theorem vmaxe : ∀ x0 x1 x2, Statement (.vmaxe x0 x1 x2) := by
  intro x0 x1 x2 hw r h; cases h
  refine decode_of_fields ?_ ?_ hw
  · rw [opc_packV]; rfl
  · refine (fields_C (by rw [opc_packV]; rfl)).trans ?_
    simp [-BitVec.reduceAppend, decodeC, packV, packHead, Raw.opc, Raw.tl, Raw.f6, Raw.vS, Raw.vD, Raw.vM, Raw.vT, Raw.vP, Raw.vC, Raw.vB, Raw.vA, Raw.t32]
theorem vmaxeAcc : ∀ x0 x1 x2, Statement (.vmaxeAcc x0 x1 x2) := by
  intro x0 x1 x2 hw r h; cases h
  refine decode_of_fields ?_ ?_ hw
  · rw [opc_packV]; rfl
  · refine (fields_C (by rw [opc_packV]; rfl)).trans ?_
    simp [-BitVec.reduceAppend, decodeC, packV, packHead, Raw.opc, Raw.tl, Raw.f6, Raw.vS, Raw.vD, Raw.vM, Raw.vT, Raw.vP, Raw.vC, Raw.vB, Raw.vA, Raw.t32]
theorem vqnt : ∀ x0 x1 x2 x3, Statement (.vqnt x0 x1 x2 x3) := by
  intro x0 x1 x2 x3 hw r h; cases h
  refine decode_of_fields ?_ ?_ hw
  · rw [opc_packV]; rfl
  · refine (fields_C (by rw [opc_packV]; rfl)).trans ?_
    simp [-BitVec.reduceAppend, decodeC, packV, packHead, Raw.opc, Raw.tl, Raw.f6, Raw.vS, Raw.vD, Raw.vM, Raw.vT, Raw.vP, Raw.vC, Raw.vB, Raw.vA, Raw.t32]
theorem vqntCls : ∀ x0 x1 x2 x3, Statement (.vqntCls x0 x1 x2 x3) := by
  intro x0 x1 x2 x3 hw r h; cases h
  refine decode_of_fields ?_ ?_ hw
  · rw [opc_packV]; rfl
  · refine (fields_C (by rw [opc_packV]; rfl)).trans ?_
    simp [-BitVec.reduceAppend, decodeC, packV, packHead, Raw.opc, Raw.tl, Raw.f6, Raw.vS, Raw.vD, Raw.vM, Raw.vT, Raw.vP, Raw.vC, Raw.vB, Raw.vA, Raw.t32]
theorem vdqnt : ∀ x0 x1 x2 x3 x4 x5, Statement (.vdqnt x0 x1 x2 x3 x4 x5) := by
  intro x0 x1 x2 x3 x4 x5 hw r h; cases h
  refine decode_of_fields ?_ ?_ hw
  · rw [opc_packV]; rfl
  · refine (fields_C (by rw [opc_packV]; rfl)).trans ?_
    simp [-BitVec.reduceAppend, decodeC, packV, packHead, Raw.opc, Raw.tl, Raw.f6, Raw.vS, Raw.vD, Raw.vM, Raw.vT, Raw.vP, Raw.vC, Raw.vB, Raw.vA, Raw.t32]
theorem vhash : ∀ x0 x1 x2 x3 x4, Statement (.vhash x0 x1 x2 x3 x4) := by
  intro x0 x1 x2 x3 x4 hw r h; cases h
  refine decode_of_fields ?_ ?_ hw
  · rw [opc_packV]; rfl
  · refine (fields_C (by rw [opc_packV]; rfl)).trans ?_
    simp [-BitVec.reduceAppend, decodeC, packV, packHead, Raw.opc, Raw.tl, Raw.f6, Raw.vS, Raw.vD, Raw.vM, Raw.vT, Raw.vP, Raw.vC, Raw.vB, Raw.vA, Raw.t32]
theorem vsort : ∀ x0 x1 x2 x3 x4, Statement (.vsort x0 x1 x2 x3 x4) := by
  intro x0 x1 x2 x3 x4 hw r h; cases h
  refine decode_of_fields ?_ ?_ hw
  · rw [opc_packV]; rfl
  · refine (fields_C (by rw [opc_packV]; rfl)).trans ?_
    simp [-BitVec.reduceAppend, decodeC, packV, packHead, Raw.opc, Raw.tl, Raw.f6, Raw.vS, Raw.vD, Raw.vM, Raw.vT, Raw.vP, Raw.vC, Raw.vB, Raw.vA, Raw.t32]
theorem vsortD : ∀ x0 x1 x2 x3 x4, Statement (.vsortD x0 x1 x2 x3 x4) := by
  intro x0 x1 x2 x3 x4 hw r h; cases h
  refine decode_of_fields ?_ ?_ hw
  · rw [opc_packV]; rfl
  · refine (fields_C (by rw [opc_packV]; rfl)).trans ?_
    simp [-BitVec.reduceAppend, decodeC, packV, packHead, Raw.opc, Raw.tl, Raw.f6, Raw.vS, Raw.vD, Raw.vM, Raw.vT, Raw.vP, Raw.vC, Raw.vB, Raw.vA, Raw.t32]
theorem vcompr : ∀ x0 x1 x2 x3, Statement (.vcompr x0 x1 x2 x3) := by
  intro x0 x1 x2 x3 hw r h; cases h
  refine decode_of_fields ?_ ?_ hw
  · rw [opc_packV]; rfl
  · refine (fields_C (by rw [opc_packV]; rfl)).trans ?_
    simp [-BitVec.reduceAppend, decodeC, packV, packHead, Raw.opc, Raw.tl, Raw.f6, Raw.vS, Raw.vD, Raw.vM, Raw.vT, Raw.vP, Raw.vC, Raw.vB, Raw.vA, Raw.t32]
theorem vexpnd : ∀ x0 x1 x2 x3, Statement (.vexpnd x0 x1 x2 x3) := by
  intro x0 x1 x2 x3 hw r h; cases h
  refine decode_of_fields ?_ ?_ hw
  · rw [opc_packV]; rfl
  · refine (fields_C (by rw [opc_packV]; rfl)).trans ?_
    simp [-BitVec.reduceAppend, decodeC, packV, packHead, Raw.opc, Raw.tl, Raw.f6, Raw.vS, Raw.vD, Raw.vM, Raw.vT, Raw.vP, Raw.vC, Raw.vB, Raw.vA, Raw.t32]
theorem mldb : ∀ x0 x1 x2 x3 x4, Statement (.mldb x0 x1 x2 x3 x4) := by
  intro x0 x1 x2 x3 x4 hw r h; cases h
  refine decode_of_fields ?_ ?_ hw
  · rw [opc_packX]; rfl
  · refine (fields_D (by rw [opc_packX]; rfl)).trans ?_
    simp [-BitVec.reduceAppend, decodeD, packX, packHead, Raw.opc, Raw.tl, Raw.f6, Raw.xS, Raw.xD, Raw.xTail]
theorem mma : ∀ x0 x1 x2 x3 x4 x5 x6 x7 x8, Statement (.mma x0 x1 x2 x3 x4 x5 x6 x7 x8) := by
  intro x0 x1 x2 x3 x4 x5 x6 x7 x8 hw r h; cases h
  refine decode_of_fields ?_ ?_ hw
  · rw [opc_packX]; rfl
  · refine (fields_D (by rw [opc_packX]; rfl)).trans ?_
    simp [-BitVec.reduceAppend, decodeD, packX, packHead, Raw.opc, Raw.tl, Raw.f6, Raw.xS, Raw.xD, Raw.xTail]
theorem mzero : ∀ x0 x1 x2, Statement (.mzero x0 x1 x2) := by
  intro x0 x1 x2 hw r h; cases h
  refine decode_of_fields ?_ ?_ hw
  · rw [opc_packR]; rfl
  · refine (fields_D (by rw [opc_packR]; rfl)).trans ?_
    simp [-BitVec.reduceAppend, decodeD, packR, packHead, Raw.opc, Raw.tl, Raw.f6, Raw.rS, Raw.rD, Raw.rM, Raw.rB, Raw.rA, Raw.t16]
theorem mscale : ∀ x0 x1, Statement (.mscale x0 x1) := by
  intro x0 x1 hw r h; cases h
  refine decode_of_fields ?_ ?_ hw
  · rw [opc_packR]; rfl
  · refine (fields_D (by rw [opc_packR]; rfl)).trans ?_
    simp [-BitVec.reduceAppend, decodeD, packR, packHead, Raw.opc, Raw.tl, Raw.f6, Raw.rS, Raw.rD, Raw.rM, Raw.rB, Raw.rA, Raw.t16]
theorem mrd : ∀ x0 x1 x2 x3 x4, Statement (.mrd x0 x1 x2 x3 x4) := by
  intro x0 x1 x2 x3 x4 hw r h; cases h
  refine decode_of_fields ?_ ?_ hw
  · rw [opc_packV]; rfl
  · refine (fields_D (by rw [opc_packV]; rfl)).trans ?_
    simp [-BitVec.reduceAppend, decodeD, packV, packHead, Raw.opc, Raw.tl, Raw.f6, Raw.vS, Raw.vD, Raw.vM, Raw.vT, Raw.vP, Raw.vC, Raw.vB, Raw.vA, Raw.t32]
theorem mwr : ∀ x0 x1 x2 x3 x4, Statement (.mwr x0 x1 x2 x3 x4) := by
  intro x0 x1 x2 x3 x4 hw r h; cases h
  refine decode_of_fields ?_ ?_ hw
  · rw [opc_packV]; rfl
  · refine (fields_D (by rw [opc_packV]; rfl)).trans ?_
    simp [-BitVec.reduceAppend, decodeD, packV, packHead, Raw.opc, Raw.tl, Raw.f6, Raw.vS, Raw.vD, Raw.vM, Raw.vT, Raw.vP, Raw.vC, Raw.vB, Raw.vA, Raw.t32]
theorem macp : ∀ x0 x1 x2 x3 x4, Statement (.macp x0 x1 x2 x3 x4) := by
  intro x0 x1 x2 x3 x4 hw r h; cases h
  refine decode_of_fields ?_ ?_ hw
  · rw [opc_packR]; rfl
  · refine (fields_D (by rw [opc_packR]; rfl)).trans ?_
    simp [-BitVec.reduceAppend, decodeD, packR, packHead, Raw.opc, Raw.tl, Raw.f6, Raw.rS, Raw.rD, Raw.rM, Raw.rB, Raw.rA, Raw.t16]
theorem macpAdd : ∀ x0 x1 x2 x3 x4, Statement (.macpAdd x0 x1 x2 x3 x4) := by
  intro x0 x1 x2 x3 x4 hw r h; cases h
  refine decode_of_fields ?_ ?_ hw
  · rw [opc_packR]; rfl
  · refine (fields_D (by rw [opc_packR]; rfl)).trans ?_
    simp [-BitVec.reduceAppend, decodeD, packR, packHead, Raw.opc, Raw.tl, Raw.f6, Raw.rS, Raw.rD, Raw.rM, Raw.rB, Raw.rA, Raw.t16]
theorem mwait : Statement .mwait := by
  intro hw r h; cases h
  refine decode_of_fields ?_ ?_ hw
  · rw [opc_packD]; rfl
  · refine (fields_D (by rw [opc_packD]; rfl)).trans ?_
    simp [-BitVec.reduceAppend, decodeD, packD, packHead, Raw.opc, Raw.tl, Raw.f6, Raw.dMod, Raw.dN]
theorem mwaitE : ∀ x0, Statement (.mwaitE x0) := by
  intro x0 hw r h; cases h
  refine decode_of_fields ?_ ?_ hw
  · rw [opc_packD]; rfl
  · refine (fields_D (by rw [opc_packD]; rfl)).trans ?_
    simp [-BitVec.reduceAppend, decodeD, packD, packHead, Raw.opc, Raw.tl, Raw.f6, Raw.dMod, Raw.dN]
theorem mstat : ∀ x0 x1, Statement (.mstat x0 x1) := by
  intro x0 x1 hw r h; cases h
  refine decode_of_fields ?_ ?_ hw
  · rw [opc_packR]; rfl
  · refine (fields_D (by rw [opc_packR]; rfl)).trans ?_
    simp [-BitVec.reduceAppend, decodeD, packR, packHead, Raw.opc, Raw.tl, Raw.f6, Raw.rS, Raw.rD, Raw.rM, Raw.rB, Raw.rA, Raw.t16]
theorem msend : ∀ x0 x1 x2 x3, Statement (.msend x0 x1 x2 x3) := by
  intro x0 x1 x2 x3 hw r h; cases h
  refine decode_of_fields ?_ ?_ hw
  · rw [opc_packX]; rfl
  · refine (fields_D (by rw [opc_packX]; rfl)).trans ?_
    simp [-BitVec.reduceAppend, decodeD, packX, packHead, Raw.opc, Raw.tl, Raw.f6, Raw.xS, Raw.xD, Raw.xTail]
theorem mradd : ∀ x0 x1 x2 x3 x4, Statement (.mradd x0 x1 x2 x3 x4) := by
  intro x0 x1 x2 x3 x4 hw r h; cases h
  refine decode_of_fields ?_ ?_ hw
  · rw [opc_packV]; rfl
  · refine (fields_D (by rw [opc_packV]; rfl)).trans ?_
    simp [-BitVec.reduceAppend, decodeD, packV, packHead, Raw.opc, Raw.tl, Raw.f6, Raw.vS, Raw.vD, Raw.vM, Raw.vT, Raw.vP, Raw.vC, Raw.vB, Raw.vA, Raw.t32]
theorem skinit : ∀ x0 x1 x2 x3 x4 x5 x6, Statement (.skinit x0 x1 x2 x3 x4 x5 x6) := by
  intro x0 x1 x2 x3 x4 x5 x6 hw r h; cases h
  refine decode_of_fields ?_ ?_ hw
  · rw [opc_packX]; rfl
  · refine (fields_E (by rw [opc_packX]; rfl)).trans ?_
    simp [-BitVec.reduceAppend, decodeE, packX, packHead, Raw.opc, Raw.tl, Raw.f6, Raw.xS, Raw.xD, Raw.xTail]
theorem qsadd : ∀ x0 x1 x2 x3, Statement (.qsadd x0 x1 x2 x3) := by
  intro x0 x1 x2 x3 hw r h; cases h
  refine decode_of_fields ?_ ?_ hw
  · rw [opc_packV]; rfl
  · refine (fields_E (by rw [opc_packV]; rfl)).trans ?_
    simp [-BitVec.reduceAppend, decodeE, packV, packHead, Raw.opc, Raw.tl, Raw.f6, Raw.vS, Raw.vD, Raw.vM, Raw.vT, Raw.vP, Raw.vC, Raw.vB, Raw.vA, Raw.t32]
theorem qsmrg : ∀ x0 x1 x2, Statement (.qsmrg x0 x1 x2) := by
  intro x0 x1 x2 hw r h; cases h
  refine decode_of_fields ?_ ?_ hw
  · rw [opc_packR]; rfl
  · refine (fields_E (by rw [opc_packR]; rfl)).trans ?_
    simp [-BitVec.reduceAppend, decodeE, packR, packHead, Raw.opc, Raw.tl, Raw.f6, Raw.rS, Raw.rD, Raw.rM, Raw.rB, Raw.rA, Raw.t16]
theorem qsqry : ∀ x0 x1 x2, Statement (.qsqry x0 x1 x2) := by
  intro x0 x1 x2 hw r h; cases h
  refine decode_of_fields ?_ ?_ hw
  · rw [opc_packR]; rfl
  · refine (fields_E (by rw [opc_packR]; rfl)).trans ?_
    simp [-BitVec.reduceAppend, decodeE, packR, packHead, Raw.opc, Raw.tl, Raw.f6, Raw.rS, Raw.rD, Raw.rM, Raw.rB, Raw.rA, Raw.t16]
theorem qsrank : ∀ x0 x1 x2 x3, Statement (.qsrank x0 x1 x2 x3) := by
  intro x0 x1 x2 x3 hw r h; cases h
  refine decode_of_fields ?_ ?_ hw
  · rw [opc_packR]; rfl
  · refine (fields_E (by rw [opc_packR]; rfl)).trans ?_
    simp [-BitVec.reduceAppend, decodeE, packR, packHead, Raw.opc, Raw.tl, Raw.f6, Raw.rS, Raw.rD, Raw.rM, Raw.rB, Raw.rA, Raw.t16]
theorem hhadd : ∀ x0 x1 x2 x3 x4, Statement (.hhadd x0 x1 x2 x3 x4) := by
  intro x0 x1 x2 x3 x4 hw r h; cases h
  refine decode_of_fields ?_ ?_ hw
  · rw [opc_packV]; rfl
  · refine (fields_E (by rw [opc_packV]; rfl)).trans ?_
    simp [-BitVec.reduceAppend, decodeE, packV, packHead, Raw.opc, Raw.tl, Raw.f6, Raw.vS, Raw.vD, Raw.vM, Raw.vT, Raw.vP, Raw.vC, Raw.vB, Raw.vA, Raw.t32]
theorem hhmrg : ∀ x0 x1 x2, Statement (.hhmrg x0 x1 x2) := by
  intro x0 x1 x2 hw r h; cases h
  refine decode_of_fields ?_ ?_ hw
  · rw [opc_packR]; rfl
  · refine (fields_E (by rw [opc_packR]; rfl)).trans ?_
    simp [-BitVec.reduceAppend, decodeE, packR, packHead, Raw.opc, Raw.tl, Raw.f6, Raw.rS, Raw.rD, Raw.rM, Raw.rB, Raw.rA, Raw.t16]
theorem hhtop : ∀ x0 x1 x2, Statement (.hhtop x0 x1 x2) := by
  intro x0 x1 x2 hw r h; cases h
  refine decode_of_fields ?_ ?_ hw
  · rw [opc_packR]; rfl
  · refine (fields_E (by rw [opc_packR]; rfl)).trans ?_
    simp [-BitVec.reduceAppend, decodeE, packR, packHead, Raw.opc, Raw.tl, Raw.f6, Raw.rS, Raw.rD, Raw.rM, Raw.rB, Raw.rA, Raw.t16]
theorem dcadd : ∀ x0 x1 x2 x3 x4, Statement (.dcadd x0 x1 x2 x3 x4) := by
  intro x0 x1 x2 x3 x4 hw r h; cases h
  refine decode_of_fields ?_ ?_ hw
  · rw [opc_packV]; rfl
  · refine (fields_E (by rw [opc_packV]; rfl)).trans ?_
    simp [-BitVec.reduceAppend, decodeE, packV, packHead, Raw.opc, Raw.tl, Raw.f6, Raw.vS, Raw.vD, Raw.vM, Raw.vT, Raw.vP, Raw.vC, Raw.vB, Raw.vA, Raw.t32]
theorem dcmrg : ∀ x0 x1 x2, Statement (.dcmrg x0 x1 x2) := by
  intro x0 x1 x2 hw r h; cases h
  refine decode_of_fields ?_ ?_ hw
  · rw [opc_packR]; rfl
  · refine (fields_E (by rw [opc_packR]; rfl)).trans ?_
    simp [-BitVec.reduceAppend, decodeE, packR, packHead, Raw.opc, Raw.tl, Raw.f6, Raw.rS, Raw.rD, Raw.rM, Raw.rB, Raw.rA, Raw.t16]
theorem dcest : ∀ x0 x1 x2, Statement (.dcest x0 x1 x2) := by
  intro x0 x1 x2 hw r h; cases h
  refine decode_of_fields ?_ ?_ hw
  · rw [opc_packR]; rfl
  · refine (fields_E (by rw [opc_packR]; rfl)).trans ?_
    simp [-BitVec.reduceAppend, decodeE, packR, packHead, Raw.opc, Raw.tl, Raw.f6, Raw.rS, Raw.rD, Raw.rM, Raw.rB, Raw.rA, Raw.t16]
theorem skcoin : ∀ x0 x1 x2, Statement (.skcoin x0 x1 x2) := by
  intro x0 x1 x2 hw r h; cases h
  refine decode_of_fields ?_ ?_ hw
  · rw [opc_packR]; rfl
  · refine (fields_E (by rw [opc_packR]; rfl)).trans ?_
    simp [-BitVec.reduceAppend, decodeE, packR, packHead, Raw.opc, Raw.tl, Raw.f6, Raw.rS, Raw.rD, Raw.rM, Raw.rB, Raw.rA, Raw.t16]
theorem skcomp : ∀ x0 x1 x2, Statement (.skcomp x0 x1 x2) := by
  intro x0 x1 x2 hw r h; cases h
  refine decode_of_fields ?_ ?_ hw
  · rw [opc_packR]; rfl
  · refine (fields_E (by rw [opc_packR]; rfl)).trans ?_
    simp [-BitVec.reduceAppend, decodeE, packR, packHead, Raw.opc, Raw.tl, Raw.f6, Raw.rS, Raw.rD, Raw.rM, Raw.rB, Raw.rA, Raw.t16]
theorem trsput : ∀ x0 x1 x2 x3 x4, Statement (.trsput x0 x1 x2 x3 x4) := by
  intro x0 x1 x2 x3 x4 hw r h; cases h
  refine decode_of_fields ?_ ?_ hw
  · rw [opc_packX]; rfl
  · refine (fields_F (by rw [opc_packX]; rfl)).trans ?_
    simp [-BitVec.reduceAppend, decodeF, packX, packHead, Raw.opc, Raw.tl, Raw.f6, Raw.xS, Raw.xD, Raw.xTail]
theorem trsget : ∀ x0 x1, Statement (.trsget x0 x1) := by
  intro x0 x1 hw r h; cases h
  refine decode_of_fields ?_ ?_ hw
  · rw [opc_packX]; rfl
  · refine (fields_F (by rw [opc_packX]; rfl)).trans ?_
    simp [-BitVec.reduceAppend, decodeF, packX, packHead, Raw.opc, Raw.tl, Raw.f6, Raw.xS, Raw.xD, Raw.xTail]
theorem trsgetP : ∀ x0 x1, Statement (.trsgetP x0 x1) := by
  intro x0 x1 hw r h; cases h
  refine decode_of_fields ?_ ?_ hw
  · rw [opc_packX]; rfl
  · refine (fields_F (by rw [opc_packX]; rfl)).trans ?_
    simp [-BitVec.reduceAppend, decodeF, packX, packHead, Raw.opc, Raw.tl, Raw.f6, Raw.xS, Raw.xD, Raw.xTail]
theorem trsstat : ∀ x0 x1 x2, Statement (.trsstat x0 x1 x2) := by
  intro x0 x1 x2 hw r h; cases h
  refine decode_of_fields ?_ ?_ hw
  · rw [opc_packR]; rfl
  · refine (fields_F (by rw [opc_packR]; rfl)).trans ?_
    simp [-BitVec.reduceAppend, decodeF, packR, packHead, Raw.opc, Raw.tl, Raw.f6, Raw.rS, Raw.rD, Raw.rM, Raw.rB, Raw.rA, Raw.t16]
theorem trsack : ∀ x0 x1, Statement (.trsack x0 x1) := by
  intro x0 x1 hw r h; cases h
  refine decode_of_fields ?_ ?_ hw
  · rw [opc_packR]; rfl
  · refine (fields_F (by rw [opc_packR]; rfl)).trans ?_
    simp [-BitVec.reduceAppend, decodeF, packR, packHead, Raw.opc, Raw.tl, Raw.f6, Raw.rS, Raw.rD, Raw.rM, Raw.rB, Raw.rA, Raw.t16]
theorem sysrd : ∀ x0 x1, Statement (.sysrd x0 x1) := by
  intro x0 x1 hw r h; cases h
  refine decode_of_fields ?_ ?_ hw
  · rw [opc_packI]; rfl
  · refine (fields_F (by rw [opc_packI]; rfl)).trans ?_
    simp [-BitVec.reduceAppend, decodeF, packI, packHead, Raw.opc, Raw.tl, Raw.f6, Raw.iS, Raw.iD, Raw.iImm, Raw.iA, Raw.t32]
theorem syswr : ∀ x0 x1, Statement (.syswr x0 x1) := by
  intro x0 x1 hw r h; cases h
  refine decode_of_fields ?_ ?_ hw
  · rw [opc_packI]; rfl
  · refine (fields_F (by rw [opc_packI]; rfl)).trans ?_
    simp [-BitVec.reduceAppend, decodeF, packI, packHead, Raw.opc, Raw.tl, Raw.f6, Raw.iS, Raw.iD, Raw.iImm, Raw.iA, Raw.t32]
theorem trapret : Statement .trapret := by
  intro hw r h; cases h
  refine decode_of_fields ?_ ?_ hw
  · rw [opc_packZ]; rfl
  · refine (fields_F (by rw [opc_packZ]; rfl)).trans ?_
    simp [-BitVec.reduceAppend, decodeF, packZ, packHead, Raw.opc, Raw.tl, Raw.f6, Raw.zF]
theorem ctxsave : ∀ x0 x1, Statement (.ctxsave x0 x1) := by
  intro x0 x1 hw r h; cases h
  refine decode_of_fields ?_ ?_ hw
  · rw [opc_packR]; rfl
  · refine (fields_F (by rw [opc_packR]; rfl)).trans ?_
    simp [-BitVec.reduceAppend, decodeF, packR, packHead, Raw.opc, Raw.tl, Raw.f6, Raw.rS, Raw.rD, Raw.rM, Raw.rB, Raw.rA, Raw.t16]
theorem ctxload : ∀ x0 x1 x2, Statement (.ctxload x0 x1 x2) := by
  intro x0 x1 x2 hw r h; cases h
  refine decode_of_fields ?_ ?_ hw
  · rw [opc_packR]; rfl
  · refine (fields_F (by rw [opc_packR]; rfl)).trans ?_
    simp [-BitVec.reduceAppend, decodeF, packR, packHead, Raw.opc, Raw.tl, Raw.f6, Raw.rS, Raw.rD, Raw.rM, Raw.rB, Raw.rA, Raw.t16]
theorem tlbinv : ∀ x0 x1 x2, Statement (.tlbinv x0 x1 x2) := by
  intro x0 x1 x2 hw r h; cases h
  refine decode_of_fields ?_ ?_ hw
  · rw [opc_packR]; rfl
  · refine (fields_F (by rw [opc_packR]; rfl)).trans ?_
    simp [-BitVec.reduceAppend, decodeF, packR, packHead, Raw.opc, Raw.tl, Raw.f6, Raw.rS, Raw.rD, Raw.rM, Raw.rB, Raw.rA, Raw.t16]
theorem idle : Statement .idle := by
  intro hw r h; cases h
  refine decode_of_fields ?_ ?_ hw
  · rw [opc_packZ]; rfl
  · refine (fields_F (by rw [opc_packZ]; rfl)).trans ?_
    simp [-BitVec.reduceAppend, decodeF, packZ, packHead, Raw.opc, Raw.tl, Raw.f6, Raw.zF]
theorem blockEntry : Statement .blockEntry := by
  intro _ r h; cases h
theorem strandUnblock : ∀ x0, Statement (.strandUnblock x0) := by
  intro x0 _ r h; cases h
theorem sleepcWake : ∀ x0, Statement (.sleepcWake x0) := by
  intro x0 _ r h; cases h
theorem cpywWake : ∀ x0, Statement (.cpywWake x0) := by
  intro x0 _ r h; cases h
theorem barTimeout : ∀ x0, Statement (.barTimeout x0) := by
  intro x0 _ r h; cases h
theorem wireRelease : ∀ x0 x1 x2, Statement (.wireRelease x0 x1 x2) := by
  intro x0 x1 x2 _ r h; cases h
theorem meshColumnArrival : ∀ x0 x1, Statement (.meshColumnArrival x0 x1) := by
  intro x0 x1 _ r h; cases h
theorem walkerIteration : ∀ x0 x1, Statement (.walkerIteration x0 x1) := by
  intro x0 x1 _ r h; cases h
theorem gatedGroupRelease : ∀ x0 x1, Statement (.gatedGroupRelease x0 x1) := by
  intro x0 x1 _ r h; cases h
theorem scalarReadBufferExpiry : ∀ x0 x1, Statement (.scalarReadBufferExpiry x0 x1) := by
  intro x0 x1 _ r h; cases h
theorem copyRowWrite : ∀ x0 x1, Statement (.copyRowWrite x0 x1) := by
  intro x0 x1 _ r h; cases h
theorem copyCompletion : ∀ x0, Statement (.copyCompletion x0) := by
  intro x0 _ r h; cases h
theorem mldbGranuleRead : ∀ x0 x1, Statement (.mldbGranuleRead x0 x1) := by
  intro x0 x1 _ r h; cases h
theorem mmaRowFire : ∀ x0 x1, Statement (.mmaRowFire x0 x1) := by
  intro x0 x1 _ r h; cases h
theorem accumulatorUpdate : ∀ x0 x1, Statement (.accumulatorUpdate x0 x1) := by
  intro x0 x1 _ r h; cases h
theorem chainResult : ∀ x0 x1, Statement (.chainResult x0 x1) := by
  intro x0 x1 _ r h; cases h
theorem summaryCompletion : ∀ x0, Statement (.summaryCompletion x0) := by
  intro x0 _ r h; cases h
theorem breakpoint : ∀ x0 x1, Statement (.breakpoint x0 x1) := by
  intro x0 x1 _ r h; cases h
theorem decrementArrival : ∀ x0, Statement (.decrementArrival x0) := by
  intro x0 _ r h; cases h
theorem lost : ∀ x0, Statement (.lost x0) := by
  intro x0 _ r h; cases h
theorem dispatchDecision : ∀ x0, Statement (.dispatchDecision x0) := by
  intro x0 _ r h; cases h
theorem starvationReservation : ∀ x0, Statement (.starvationReservation x0) := by
  intro x0 _ r h; cases h
theorem stagingComplete : ∀ x0 x1, Statement (.stagingComplete x0 x1) := by
  intro x0 x1 _ r h; cases h
theorem writebackDone : ∀ x0 x1, Statement (.writebackDone x0 x1) := by
  intro x0 x1 _ r h; cases h
theorem taskRetirement : ∀ x0, Statement (.taskRetirement x0) := by
  intro x0 _ r h; cases h
theorem partialRetirement : ∀ x0, Statement (.partialRetirement x0) := by
  intro x0 _ r h; cases h
theorem stagingRetry : ∀ x0 x1, Statement (.stagingRetry x0 x1) := by
  intro x0 x1 _ r h; cases h
theorem scresume : ∀ x0, Statement (.scresume x0) := by
  intro x0 _ r h; cases h
theorem saveForced : ∀ x0, Statement (.saveForced x0) := by
  intro x0 _ r h; cases h
theorem saveDone : ∀ x0, Statement (.saveDone x0) := by
  intro x0 _ r h; cases h
theorem podRequest : ∀ x0, Statement (.podRequest x0) := by
  intro x0 _ r h; cases h
theorem podReply : ∀ x0 x1 x2, Statement (.podReply x0 x1 x2) := by
  intro x0 x1 x2 _ r h; cases h
theorem podReplyTimeout : ∀ x0, Statement (.podReplyTimeout x0) := by
  intro x0 _ r h; cases h
theorem incarnationAnnouncement : ∀ x0 x1, Statement (.incarnationAnnouncement x0 x1) := by
  intro x0 x1 _ r h; cases h
theorem trussPacket : ∀ x0, Statement (.trussPacket x0) := by
  intro x0 _ r h; cases h
theorem chunkRedo : ∀ x0 x1, Statement (.chunkRedo x0 x1) := by
  intro x0 x1 _ r h; cases h
theorem uePacket : ∀ x0 x1 x2, Statement (.uePacket x0 x1 x2) := by
  intro x0 x1 x2 _ r h; cases h
theorem messageCompletion : ∀ x0 x1 x2, Statement (.messageCompletion x0 x1 x2) := by
  intro x0 x1 x2 _ r h; cases h
theorem receiveMatchTimeout : ∀ x0, Statement (.receiveMatchTimeout x0) := by
  intro x0 _ r h; cases h
theorem doorbell : ∀ x0 x1, Statement (.doorbell x0 x1) := by
  intro x0 x1 _ r h; cases h
theorem headIndexRead : ∀ x0, Statement (.headIndexRead x0) := by
  intro x0 _ r h; cases h
theorem read : ∀ x0, Statement (.read x0) := by
  intro x0 _ r h; cases h
theorem write : ∀ x0, Statement (.write x0) := by
  intro x0 _ r h; cases h
theorem load : ∀ x0, Statement (.load x0) := by
  intro x0 _ r h; cases h
theorem unload : ∀ x0, Statement (.unload x0) := by
  intro x0 _ r h; cases h
theorem launch : ∀ x0, Statement (.launch x0) := by
  intro x0 _ r h; cases h
theorem pcreate : ∀ x0, Statement (.pcreate x0) := by
  intro x0 _ r h; cases h
theorem pset : ∀ x0, Statement (.pset x0) := by
  intro x0 _ r h; cases h
theorem pend : ∀ x0, Statement (.pend x0) := by
  intro x0 _ r h; cases h
theorem gcreate : ∀ x0, Statement (.gcreate x0) := by
  intro x0 _ r h; cases h
theorem gfree : ∀ x0, Statement (.gfree x0) := by
  intro x0 _ r h; cases h
theorem hset : ∀ x0, Statement (.hset x0) := by
  intro x0 _ r h; cases h
theorem pin : ∀ x0, Statement (.pin x0) := by
  intro x0 _ r h; cases h
theorem join : ∀ x0, Statement (.join x0) := by
  intro x0 _ r h; cases h
theorem quote : ∀ x0, Statement (.quote x0) := by
  intro x0 _ r h; cases h
theorem power : ∀ x0, Statement (.power x0) := by
  intro x0 _ r h; cases h
theorem queueCreate : ∀ x0, Statement (.queueCreate x0) := by
  intro x0 _ r h; cases h
theorem queueDestroy : ∀ x0, Statement (.queueDestroy x0) := by
  intro x0 _ r h; cases h
theorem partialRedispatch : ∀ x0, Statement (.partialRedispatch x0) := by
  intro x0 _ r h; cases h
theorem partialAbandon : ∀ x0, Statement (.partialAbandon x0) := by
  intro x0 _ r h; cases h
theorem tile : ∀ x0, Statement (.tile x0) := by
  intro x0 _ r h; cases h
theorem reservedRequest : ∀ x0, Statement (.reservedRequest x0) := by
  intro x0 _ r h; cases h
theorem relayedRequest : ∀ x0 x1 x2, Statement (.relayedRequest x0 x1 x2) := by
  intro x0 x1 x2 _ r h; cases h
theorem ingressHeader : ∀ x0 x1, Statement (.ingressHeader x0 x1) := by
  intro x0 x1 _ r h; cases h
theorem ingressToken : ∀ x0 x1, Statement (.ingressToken x0 x1) := by
  intro x0 x1 _ r h; cases h
theorem headerHoldTimeout : ∀ x0, Statement (.headerHoldTimeout x0) := by
  intro x0 _ r h; cases h
theorem templateAbsent : ∀ x0, Statement (.templateAbsent x0) := by
  intro x0 _ r h; cases h
theorem ingressTinstTimeout : ∀ x0, Statement (.ingressTinstTimeout x0) := by
  intro x0 _ r h; cases h
theorem moduleReset : ∀ x0, Statement (.moduleReset x0) := by
  intro x0 _ r h; cases h
theorem powerCapRaise : Statement .powerCapRaise := by
  intro _ r h; cases h
theorem powerCapLower : Statement .powerCapLower := by
  intro _ r h; cases h
theorem coldPlateLimit : Statement .coldPlateLimit := by
  intro _ r h; cases h
theorem uncorrectableError : ∀ x0, Statement (.uncorrectableError x0) := by
  intro x0 _ r h; cases h
theorem correctedError : ∀ x0, Statement (.correctedError x0) := by
  intro x0 _ r h; cases h
theorem counterWrite : ∀ x0 x1 x2, Statement (.counterWrite x0 x1 x2) := by
  intro x0 x1 x2 _ r h; cases h
theorem pimgkey : ∀ x0 x1, Statement (.pimgkey x0 x1) := by
  intro x0 x1 _ r h; cases h
theorem ssmemWrite : ∀ x0 x1 x2, Statement (.ssmemWrite x0 x1 x2) := by
  intro x0 x1 x2 _ r h; cases h
theorem swstart : ∀ x0 x1, Statement (.swstart x0 x1) := by
  intro x0 x1 _ r h; cases h
theorem stop : ∀ x0, Statement (.stop x0) := by
  intro x0 _ r h; cases h
theorem resume : ∀ x0, Statement (.resume x0) := by
  intro x0 _ r h; cases h
theorem scstep : ∀ x0 x1, Statement (.scstep x0 x1) := by
  intro x0 x1 _ r h; cases h
theorem scdbga : ∀ x0 x1, Statement (.scdbga x0 x1) := by
  intro x0 x1 _ r h; cases h
theorem rotate : ∀ x0, Statement (.rotate x0) := by
  intro x0 _ r h; cases h
theorem retrain : ∀ x0, Statement (.retrain x0) := by
  intro x0 _ r h; cases h
theorem go : ∀ x0, Statement (.go x0) := by
  intro x0 _ r h; cases h
theorem rtepochWrite : ∀ x0, Statement (.rtepochWrite x0) := by
  intro x0 _ r h; cases h
theorem registerWrite : ∀ x0 x1 x2, Statement (.registerWrite x0 x1 x2) := by
  intro x0 x1 x2 _ r h; cases h
theorem flit : ∀ x0 x1 x2, Statement (.flit x0 x1 x2) := by
  intro x0 x1 x2 _ r h; cases h
theorem flitResend : ∀ x0 x1, Statement (.flitResend x0 x1) := by
  intro x0 x1 _ r h; cases h
theorem viaductDown : ∀ x0, Statement (.viaductDown x0) := by
  intro x0 _ r h; cases h
theorem replayWindowExceeded : ∀ x0, Statement (.replayWindowExceeded x0) := by
  intro x0 _ r h; cases h
theorem sampleWindow : ∀ x0 x1 x2 x3 x4, Statement (.sampleWindow x0 x1 x2 x3 x4) := by
  intro x0 x1 x2 x3 x4 _ r h; cases h
theorem wavelengthSwapRequest : ∀ x0 x1 x2 x3 x4, Statement (.wavelengthSwapRequest x0 x1 x2 x3 x4) := by
  intro x0 x1 x2 x3 x4 _ r h; cases h
theorem quietPoint : ∀ x0 x1, Statement (.quietPoint x0 x1) := by
  intro x0 x1 _ r h; cases h
theorem lossOfLight : ∀ x0, Statement (.lossOfLight x0) := by
  intro x0 _ r h; cases h
theorem lightPresent : ∀ x0, Statement (.lightPresent x0) := by
  intro x0 _ r h; cases h
theorem linkLocked : ∀ x0 x1 x2 x3, Statement (.linkLocked x0 x1 x2 x3) := by
  intro x0 x1 x2 x3 _ r h; cases h
theorem trainingFailed : ∀ x0, Statement (.trainingFailed x0) := by
  intro x0 _ r h; cases h
theorem drainAck : ∀ x0, Statement (.drainAck x0) := by
  intro x0 _ r h; cases h
theorem tick : Statement .tick := by
  intro _ r h; cases h
theorem drainTimeout : ∀ x0, Statement (.drainTimeout x0) := by
  intro x0 _ r h; cases h
theorem previousKeyExpiry : ∀ x0, Statement (.previousKeyExpiry x0) := by
  intro x0 _ r h; cases h
theorem enable : ∀ x0, Statement (.enable x0) := by
  intro x0 _ r h; cases h
theorem ethernetPortDown : ∀ x0, Statement (.ethernetPortDown x0) := by
  intro x0 _ r h; cases h

end Sys2Proof.Laws.RoundTrip

theorem Sys2Proof.Laws.RoundTrip.seal : ∀ x0, Sys2Proof.Laws.RoundTrip.Statement (.seal x0) := by
  intro x0 _ r h; cases h
end

