-- ==== Sys2Proof/Tests/Slice0.lean ====
section
/-! SUPPORT. Slice0.lean: tests: ill-formed terms refused, words of the spec decoded, single steps of small states, and a witness for the
hypotheses of each statement. -/

namespace Sys2Proof.Tests
open Sys2Proof Sys2Proof.Machine
set_option Elab.async false

/-! ## Ill-formed terms (07: R181; the entries of 09-13) -/

theorem wf_refuses_control : [Instr.loopb 0 5, .cmp 1 10 2 3, .cmpi 1 10 2 0, .bext 1 2 0 0, .bext 1 2 60 5, .bextS 1 2 1 64, .bins 1 2 63 2,
    .fcmp 1 7 2 3, .fcvt 1 2 12 12 0, .fcvt 1 2 4 5 0, .fcvt 1 2 3 12 0, .fcvt 1 2 13 4 0, .fsgn 1 3 2 3].all (fun i => !i.wf) = true := by
  decide

theorem wf_refuses_access : [Instr.wcfg 1 0 2, .wgo 1 0, .whalt 0, .wstat 1 2 3, .widx 1 0 0 2, .widx 1 2 4 3, .ldSized 1 2 6 0,
    .stSized 1 2 0 0, .stSized 1 2 6 0, .ldv 4 1 0, .stv 3 1 0, .aadd 1 0 2 3 1 6 0, .aadd 1 0 2 3 0 1 0, .amin 1 0 2 3 0 1 0,
    .amax 1 0 2 3 0 2 0, .aminn 1 0 2 3 0 3 0, .amaxn 1 0 2 3 0 4 0, .aand 1 0 2 3 0 5 0, .aor 1 0 2 3 1 6 0, .axor 1 0 2 3 1 7 0,
    .aswp 1 0 2 3 0 1 0, .acas 1 0 2 3 4 0 1 0, .aincb 1 0 2 3 0 1 0, .afadd 1 2 3 0 1 0, .ldacq 1 2 0 6, .strel 1 2 0 7, .fence 3 0,
    .fence 1 6, .cpyq 1 2 0 4].all (fun i => !i.wf) = true := by decide

theorem wf_refuses_streams : [Instr.cstat 1 2 3, .patom 1 0 2 3 4 0 0 1 6 0, .patom 1 0 2 3 4 0 0 0 1 0, .patom 1 0 2 3 4 0 12 0 0 0,
    .patom 1 0 2 3 4 5 0 0 0 0, .patom 1 1 2 3 4 0 11 0 0 0, .tstat 1 2 16].all (fun i => !i.wf) = true := by decide

theorem wf_refuses_vector : [Instr.vadd 1 2 3 8 0 0, .vadd 1 2 3 12 0 1, .vaddS 1 2 3 13 0 0, .vsub 1 2 3 9 0 0, .vsubS 1 2 3 10 0 1,
    .vmul 1 2 3 8 0, .vmulS 1 2 3 9 0, .vfma 1 2 3 4 8 0, .vfms 1 2 3 4 9 0, .vmin 1 2 3 13 0, .vminS 1 2 3 8 0, .vmax 1 2 3 8 0,
    .vmaxS 1 2 3 9 0, .vabs 1 2 8 0, .vneg 1 2 9 0, .vand 1 2 3 13 0, .vandS 1 2 3 14 0, .vor 1 2 3 13 0, .vorS 1 2 3 15 0,
    .vxor 1 2 3 13 0, .vxorS 1 2 3 13 0, .vshl 1 2 3 12 0, .vshlS 1 2 3 8 0, .vshr 1 2 3 10 0, .vshrS 1 2 3 9 0, .vsar 1 2 3 11 0,
    .vsarS 1 2 3 12 0, .vcmp 0 0 2 3 4 0, .vcmp 1 10 2 3 4 0, .vcmp 1 7 2 3 12 0, .vcmp 1 0 2 3 8 0, .vcmpS 0 0 2 3 4 0, .vcmpS 1 7 2 3 10 0,
    .vsel 1 2 3 13 0, .vperm 1 2 3 13 0, .vperm2 1 2 3 4 13 0, .vbcast 1 2 13 0, .vbcastElem 1 2 16 6 0, .vbcastElem 1 2 0 13 0,
    .vmov 1 2 13 0, .vext 1 2 32 12, .vext 1 2 0 13, .vextReg 1 2 3 13, .vins 1 2 128 0, .vinsReg 1 2 3 13].all (fun i => !i.wf) = true := by
  decide

theorem wf_refuses_vector_more : [Instr.vqin 1 4, .vqout 3 1, .vcvt 1 2 12 12 0 0 0, .vcvt 1 2 13 4 0 0 0, .vcvt 1 2 12 10 0 2 0,
    .vred 1 2 6 4 0, .vred 1 2 3 12 0, .vred 1 2 0 8 0, .vscan 1 2 6 4 0, .vscan 1 2 5 10 0, .vsf 1 2 11 0, .vdiv 1 2 3 8 0 0, .vdiv 1 2 3 12 0 1,
    .vsqrt 1 2 4 0, .vrun 3 0 1 0, .vrun 4 4 1 0, .vkop 0 1 2 0, .vkop 1 1 2 5, .vkop 1 1 2 4, .vkmov 0 1 0, .vkmov 8 1 1, .vkmov 1 8 2,
    .vkmov 1 1 7, .vclip 1 2 3 4 8 0, .vclipS 1 2 3 4 9 0, .vscale 1 2 3 4 0, .vscaleS 1 2 3 7 0, .vdqnt 1 2 3 1 4 0, .vdqnt 1 2 3 0 12 0,
    .vhash 1 2 3 8 0, .vhash 1 2 3 13 0, .vsort 1 2 0 13 0, .vsortD 1 2 0 14 0, .vcompr 1 2 13 0, .vexpnd 1 2 13 0].all (fun i => !i.wf) = true := by
  decide

theorem wf_refuses_engines : [Instr.mldb 1 0 2 7 128, .mldb 1 0 2 12 128, .mma 1 0 0 2 7 0 0 0 0, .mma 1 0 0 2 9 100 28 0 0, .mscale 1 3,
    .msend 1 0 100 28, .skinit 1 2 3 4 0 0 0, .skinit 1 2 3 4 1 3 0, .skinit 1 2 3 4 1 0 3, .skinit 1 2 3 0 2 0 0, .skinit 1 2 0 0 2 2 0,
    .skinit 1 2 0 4 3 0 0, .skinit 1 2 3 0 3 1 0, .hhadd 1 2 3 6 0, .dcadd 1 2 3 8 0, .dcadd 1 2 3 13 0, .skcoin 1 2 3, .skcomp 1 2 32,
    .trsstat 1 2 4].all (fun i => !i.wf) = true := by decide

/-! ## Words (07: R178-R181), from the entries' own examples and encodings -/

/-- 09: R218: `cmpi.ltn g5, g6, #100` has head 0x3385 and tail 0x0000_C8C6. -/
theorem word_cmpi : decodeTableWord 48 0x33850000C8C6 = some (.cmpi 5 6 6 100) := by decide +kernel
/-- 13: R310: `csend c2, v9` has head 0x8042 and tail 0x0009. -/
theorem word_csend : decodeTableWord 32 0x80420009 = some (.csend 2 9) := by decide +kernel
/-- 13: R313: `cclose c3` is head 0x8503. -/
theorem word_cclose : decodeTableWord 16 0x8503 = some (.cclose 3) := by decide +kernel
/-- 13: R332: `sysrd g5, #0x010` has head 0xF885 and tail 0x0000_0200. -/
theorem word_sysrd : decodeTableWord 48 0xF88500000200 = some (.sysrd 5 0x10) := by decide +kernel
/-- 11: R258: `vadd.f32 v3, v4, v5, k2` has head 0xA083 and tail (12 << 18) + (2 << 15) + (5 << 5) + 4. -/
theorem word_vadd : decodeTableWord 48 0xA083003100A4 = some (.vadd 3 4 5 12 2 0) := by decide +kernel
theorem word_loopb_control : decodeTableWord 48 0x0786FFFFFFE0 = some (.loopb 6 (-1)) := by decide +kernel
theorem word_add_integer : decodeTableWord 32 0x104500C5 = some (.add 5 5 6) := by decide +kernel
theorem word_fadd_float : decodeTableWord 32 0x404300A4 = some (.fadd 3 4 5) := by decide +kernel
theorem word_wgo_walkers : decodeTableWord 32 0x51421400 = some (.wgo 2 5) := by decide +kernel
theorem word_fence_ordering : decodeTableWord 16 0x6E0E = some (.fence 2 3) := by decide +kernel
theorem word_cpyw_copies : decodeTableWord 16 0x7205 = some (.cpyw 5) := by decide +kernel
theorem word_tdec_tasks : decodeTableWord 32 0x91400407 = some (.tdec 7 1) := by decide +kernel
theorem word_mwait_matrix : decodeTableWord 16 0xD700 = some .mwait := by decide +kernel
theorem word_qsadd_summaries : decodeTableWord 48 0xE18500300104 = some (.qsadd 5 4 8 0) := by decide +kernel
theorem word_trsput_truss : decodeTableWord 80 0xF0C800000000000898A4 = some (.trsput 8 17 4 5 6) := by decide +kernel
theorem word_idle_core : decodeTableWord 16 0xFE00 = some .idle := by decide +kernel
/-- 07: R188: 0xFF and the reserved opcodes decode to nothing. -/
theorem word_reserved : [0x0E00, 0x4C00, 0x6F00, 0xF400, 0xFF00].all (fun w => (decodeTableWord 16 w).isNone) = true := by decide +kernel

/-! ## Small states -/

def nops (n : Nat) : List Ins := (List.range n).map (fun i => ⟨⟨0x0000, 0⟩, 0x1000, i⟩)

/-- A sequencer before the first of four instructions. -/
def seq0 : Seq := { Seq.empty with pc := 0x1000, next := 0x1040, fetched := true, block := nops 4 }

/-- A running strand of pitch 5, allocation 0 to 0xFFFF. -/
def strand0 : Strand :=
  { Strand.empty with core := { StrandCore.empty with a := seq0, e := seq0 }, scstate := 1, ptag := 5, tref := mkTref 0 7 3, rk := 7, size := 0x10000 }

/-- Strand 0 alone, its A or its E sequencer moving. -/
def onTile (e : Bool) (f : Strand → Strand) : State := { State.reset with cur := ⟨0, e⟩, strands := [(0, f strand0)] }

def onA : State := onTile false id
def onE : State := onTile true id
/-- Registers set, residues with them. -/
def gs (l : List (BitVec 5 × Word)) (s : State) : State := l.foldl (fun s x => s.gPut x.1 x.2) s

/-- The next state of an outcome has a property. -/
def nextIs (o : Host.Outcome State Fault Refusal) (p : State → Bool) : Bool :=
  match o with
  | .next t => p t
  | _ => false

/-! ## Single steps -/

theorem placed_add_runs : nextIs (step (State.reset.withFetchWord 32 0x104500C5)) (fun t => (t.strand 0).core.a.idx == 0) = true := by
  decide +kernel
theorem placed_idle_runs : nextIs (step (State.reset.withFetchWord 16 0xFE00)) (fun t => (t.strand 4096).core.a.wait == some .idle) = true := by
  decide +kernel
theorem add_wraps : nextIs (exec (.add 5 5 6) (gs [(5, 0xFFFFFFFFFFFFFFFF), (6, 2)] onA)) (fun t => t.g 5 == 1) = true := by decide +kernel
/-- 04: R114: signed −7 divided by 2 gives quotient −3 and remainder −1; unsigned 7 divided by 0 gives all ones and remainder 7. -/
theorem div_truncates : (nextIs (exec (.div 1 2 3) (gs [(2, -7), (3, 2)] onA)) (fun t => t.g 1 == -3) &&
    nextIs (exec (.rem 1 2 3) (gs [(2, -7), (3, 2)] onA)) (fun t => t.g 1 == -1) &&
    nextIs (exec (.divn 1 2 3) (gs [(2, 7)] onA)) (fun t => t.g 1 == 0xFFFFFFFFFFFFFFFF) &&
    nextIs (exec (.remn 1 2 3) (gs [(2, 7)] onA)) (fun t => t.g 1 == 7)) = true := by decide +kernel


/-! ## Witnesses: states and operands that meet the hypotheses of the statements, clause by clause -/

def okL : Loaded → Bool
  | .ok _ _ => true
  | _ => false
def badL : Loaded → Bool
  | .bad _ => true
  | _ => false
def okS : Stored → Bool
  | .ok _ => true
  | _ => false
def badS : Stored → Bool
  | .bad _ => true
  | _ => false
/-- Core state of strand 0 changed. -/
def withCore (f : StrandCore → StrandCore) (t : Strand) : Strand := { t with core := f t.core }
def entry0 : QEntry := ⟨1, false, false⟩
/-- An instruction as a block of it would hold it. -/
def insOf (i : Instr) : Ins := ⟨(encode i).getD ⟨0, 0⟩, 0x1000, 0⟩
/-- Local address `o`. -/
def loc (o : Nat) : Word := BitVec.ofNat 64 (0xFE00000000000000 + o)
/-- Pitch 5 ACTIVE with tables that map the page at 0 to 0x100000, readable, writable and executable, key slot 5. -/
def mapped (s : State) : State :=
  let s : State := { s with pitches := [(0, { Pitch.empty with pctl := 0x3FD }), (5, { Pitch.empty with pctl := 0x3FD, proot := 0x2000 })] }
  (((s.wr 0x2000 8 0x4001).wr 0x4000 8 0x6001).wr 0x6000 8 0x8001).wr 0x8000 8 0x005000000010000F

def pod0 (k : BitVec 2) : PodAcc :=
  { rk := 7, inv := 0, ctile := 0, kind := k, pkg := 3, addr := 8, n := 8, d := 4, val := 0, cmp := 0, aop := 0, acq := none, since := 0, src := 0,
    port := none, dead := false, ended := 0 }
/-- A PST of strand 0 has no acknowledgement yet. -/
def unacked (s : State) : State := { s with podOut := [(6, pod0 1)] }
/-- A summary operation of strand 0 is in its engine. -/
def sum0 (due : Nat) : SumOp := { sid := 0, lo := 0, hi := 0, cells := [], regs := [(4, 1)], due := due }
def summing (s : State) : State := s.updTile 0 (fun t => { t with sums := [sum0 9] })

theorem witness_integer : let s := gs [(1, 9), (2, 64)] onA
    (s.seq.resOk 1 ∧ s.seq.resOk 2 ∧ s.seq.resOk 0) ∧
    (1 ≤ (1 : BitVec 7).toNat ∧ (63 : BitVec 6).toNat + (1 : BitVec 7).toNat ≤ 64) ∧ (0 : BitVec 6).toNat + (64 : BitVec 7).toNat ≤ 64 ∧
    (9 : BitVec 6).toNat ≤ 9 ∧ (9 : BitVec 4).toNat ≤ 9 ∧ CcHolds 9 (s.g 2) (s.g 1) ∧ ¬CcHolds 6 (s.g 2) (s.g 1) := by
  refine ⟨by decide +kernel, by decide, by decide, by decide, by decide, ?_, ?_⟩ <;> simp only [CcHolds] <;> decide +kernel

theorem witness_residue : let s := onTile false (withCore (fun c => { c with a := { c.a with res := c.a.res.set 2 1 } }))
    (Instr.add 1 2 3).scalarChecked = some ([2, 3], 1) ∧ ([2, 3].all s.seq.resOk) = false := by decide +kernel

theorem witness_float : let s := gs [(2, 0x7FC00000), (3, 0x3F800000)] onE
    (6 : BitVec 6).toNat ≤ 6 ∧ 6 < (7 : BitVec 6).toNat ∧ fmtF32.isNaN ((s.g 2).toNat % 2 ^ 32) ∧ fmtF32.isNaN ((s.g 3).toNat % 2 ^ 32) = false ∧
    (Instr.fcvt 1 2 12 4 3).wf ∧ (Instr.fcvt 1 2 6 8 0).wf ∧ (2 : BitVec 6).toNat ≤ 2 ∧ 2 < (3 : BitVec 6).toNat := by decide +kernel

theorem witness_round : ∀ x ∈ [1, 0x7FFFFF, 0x800000, 0x3F800000, 0x7F7FFFFF, 0x80000001, 0xFF7FFFFF],
    x < 2 ^ (1 + fmtF32.eb + fmtF32.mb) ∧ fmtF32.isNaN x = false ∧ fmtF32.isInf x = false ∧ fmtF32.isZero x = false := by decide +kernel
theorem witness_round_other : (∀ x ∈ [1, 0x3FF, 0x400, 0x7BFF, 0xFBFF], x < 2 ^ (1 + fmtF16.eb + fmtF16.mb) ∧ fmtF16.isNaN x = false ∧
      fmtF16.isInf x = false ∧ fmtF16.isZero x = false) ∧
    (∀ x ∈ [1, 0x7F, 0x80, 0x7F7F, 0xFF7F], x < 2 ^ (1 + fmtBf16.eb + fmtBf16.mb) ∧ fmtBf16.isNaN x = false ∧ fmtBf16.isInf x = false ∧
      fmtBf16.isZero x = false) ∧
    ∀ f ∈ [fmtF32, fmtF16, fmtBf16], ∀ x ∈ [0, 2 ^ (f.eb + f.mb)], x < 2 ^ (1 + f.eb + f.mb) ∧ f.isNaN x = false ∧ f.isInf x = false ∧
      f.isZero x = true := by decide +kernel

/-- The premises of the two frames: a scalar instruction, a transfer and a store of a running strand. -/
theorem witness_frames : ∀ i ∈ [Instr.add 1 2 3, .br 4, .qpush 5 2], onA.cur.sid < 4096 ∧ onA.me.scstate = 1 ∧ (encode i).isSome ∧
    opcCore ((encode i).getD ⟨0, 0⟩).opc = false ∧ (∀ r, onA.seq.resOk r = true) ∧ nextIs (exec i onA) (fun t => (t.strand 0).scstate == 1) ∧
    i.reachesMem = false ∧ onA.me.Plain ∧ (onA.pitch onA.me.ptag.toNat).pviol = 0 ∧ (onA.pitch onA.me.ptag.toNat).pevlog = 0 ∧
    onA.me.loads = [] ∧ onA.strands = [(0, onA.me)] := by unfold Strand.Plain; decide +kernel

theorem witness_scalar_frame : (Instr.and 1 2 3).scalarPlain = some 1 ∧ nextIs (exec (.and 1 2 3) onA) (fun _ => true) ∧
    (Instr.add 1 2 3).scalarChecked = some ([2, 3], 1) ∧ [2, 3].all onA.seq.resOk ∧ nextIs (exec (.add 1 2 3) onA) (fun _ => true) := by
  decide +kernel

theorem witness_transfers : onA.seq.resOk 6 ∧ onA.seq.idx + 1 < onA.seq.block.length ∧
    (let s := onTile false (withCore (fun c => { c with a := { c.a with idx := 3 } })); s.seq.block.length ≤ s.seq.idx + 1) := by decide +kernel

theorem witness_queues : onA.bqOut.length < 32 ∧
    (let s := onTile false (withCore (fun c => { c with bqAE := List.replicate 32 true })); 32 ≤ s.bqOut.length) ∧
    (let s := onTile false (withCore (fun c => { c with bqEA := [true] })); s.bqIn = [true] ∧ s.walkerFirst = false ∧ s.walkerMayAsk = false) ∧
    (let s := onTile false (withCore (fun c => { c with bqEA := [true], w := c.w.set 1 { Walker.empty with st := .running, desc := BitVec.ofNat 512 (5 * 2 ^ 88) } }));
      s.bqIn ≠ [] ∧ s.walkerFirst = false ∧ s.walkerMayAsk = true) ∧
    (let s := onTile false (withCore (fun c => { c with bqEA := [true], w := c.w.set 1 { Walker.empty with st := .running, req := some 0 } }));
      s.bqIn ≠ [] ∧ s.walkerFirst = true) ∧ (onTile false (withCore (fun c => { c with a := { c.a with wait := some .idle } }))).seq.wait = some .idle ∧ onA.bqIn = [] ∧ onA.seq.wait = none ∧ (onA.g 1).toNat ≤ onA.cycle.toNat ∧
    (let s := gs [(1, 1)] onA; s.cycle.toNat < (s.g 1).toNat ∧ s.cycle.toNat < (s.cycle + s.g 1).toNat) ∧
    (let s := onTile false (withCore (fun c => { c with q := c.q.set 4 (List.replicate 8 entry0) })); s.me.queueFull 4 = true ∧ s.me.queueFull 5 = false ∧ (∀ l ∈ s.me.loads, l.dst ≠ .queue 4) ∧ s.core.queue 5 = [] ∧ s.core.queue 4 = entry0 :: List.replicate 7 entry0) := by
  decide +kernel

theorem witness_sleep : let s := onTile false (withCore (fun c => { c with a := { c.a with wait := some (.sleep 5) } }))
    ((s.strand 0).core.seq false).wait = some (.sleep 5) ∧ (s.strand 0).scstate = 1 ∧ s.cycle.toNat < (5 : Word).toNat ∧
    (5 : Word).toNat ≤ ({ s with cycle := 5 } : State).cycle.toNat := by decide +kernel

theorem witness_semaphores : let s : State := { onA with strands := [(0, strand0), (1024, strand0)] }
    let u := onTile false (withCore (fun c => { c with h := c.h.set 3 1 }))
    s.me.buffer = false ∧ (let t := gs [(1, 1024)] s; bitsOf (t.g 1) 12 52 = 0 ∧ bitsOf (t.g 1) 0 12 ≠ t.sid ∧ (t.strand 1024).signalled = true ∧ (t.strand 1024).ptag = t.me.ptag) ∧
    (let t := gs [(1, 4096)] s; bitsOf (t.g 1) 12 52 ≠ 0) ∧ (s.strand 1).signalled = false ∧ s.core.h.get 3 = 0 ∧ u.core.h.get 3 ≠ 0 ∧
    s.Clear ∧ s.cur.e = false ∧ (unacked s).pstPending s.sid = true := by unfold State.Clear; decide +kernel

theorem witness_traps : let v := onTile false (withCore (fun c => { c with a := { c.a with trapVec := 0x4000 } }))
    let h := onTile false (withCore (fun c => { c with a := { c.a with trapVec := 0x4000, tcause := 0x130 } }))
    let b : State := { onA with pitches := [(5, { Pitch.empty with pctl := 0x801 })] }
    (v.me.saveReq = none ∧ v.seq.tcause.getLsbD 8 = false ∧ v.seq.trapVec ≠ 0 ∧ (v.pitch v.me.ptag.toNat).pctl.getLsbD 11 = false ∧
      v.seq.block[v.seq.idx]? = some ⟨⟨0, 0⟩, 0x1000, 0⟩ ∧ (v.seq.pc &&& 0x3F#64) = 0 ∧ v.seq.idx < 128 ∧ v.seq.pending = none) ∧
    (h.me.saveReq = none ∧ h.cur.sid < 4096 ∧ h.seq.tcause.getLsbD 8 = true) ∧ onA.seq.trapVec = 0 ∧
    (b.pitch b.me.ptag.toNat).pctl.getLsbD 11 = true ∧ nextIs (exec .trapret (v.trap cAlign 3)) (fun u => u.seq.idx == v.seq.idx) := by decide +kernel

theorem witness_memory : Memory.wf [(1, 2), (5, 1)] = true ∧ (255 : Nat) < 256 ^ 1 ∧ Memory.wf onA.mem = true := by decide

/-- Eight bytes at offset `o` of tile 0. -/
def part8 (o : Nat) : Part := ⟨scratchKey 0 o, 8, .release, none⟩
theorem witness_loads : let s := gs [(1, loc 0), (2, loc 0xFFF8), (3, loc 0x10000), (4, 0)] (mapped onA)
    isCore s.cur = false ∧ okL (s.loadBytes s.sid (s.g 1 + (0 : BitVec 27).signExtend 64) 8 .load .ld) ∧
    okL (s.loadBytes s.sid (s.g 2 + (0 : BitVec 27).signExtend 64) 8 .load .ld) ∧
    badL (s.loadBytes s.sid (s.g 3 + (0 : BitVec 27).signExtend 64) 8 .load .ld) ∧
    okL (s.loadBytes s.sid (s.g 1 + (-1 : BitVec 24).signExtend 64 + 1) (2 ^ ((5 : BitVec 3).toNat / 2)) .load .ld) ∧
    okL (s.loadBytes s.sid (s.g 1 + (1 : BitVec 6).signExtend 64 * 128) 128 .load .row) ∧
    badL (s.loadBytes s.sid (s.g 3 + (0 : BitVec 6).signExtend 64 * 128) 128 .load .row) ∧ s.me.queueFull 0 = false ∧ s.cur.sid < 4096 ∧ s.late = false ∧
    s.pstPending s.sid = false ∧ s.strictHeld s.sid (s.g 1) 8 .load = false ∧ s.lateParts s.sid (s.g 1) 8 = none ∧ s.me.loadsOf (keysOf [part8 0]) = false ∧
    s.resolve s.sid (loc 0) 8 .load = .ok [⟨scratchKey 0 0, 8, .release, none⟩] ∧
    s.olds = [] ∧ s.resolve s.sid 0 8 .load = .ok [⟨0x100000, 8, .release, some 5⟩] ∧ okL (s.loadBytes s.sid 0 8 .load .row) ∧
    okL (s.load (s.g 1) 8 .ld) ∧ badL (s.load (s.g 3) 8 .ld) ∧ s.load (0x01 <<< 56) 8 .ld = .fault cBounds (0x01 <<< 56) ∧
    badL (s.load (s.g 3) 1 .ld) ∧ s.load (0x40000000) 4 .ld = .fault cXlateMiss 0x40000000 ∧
    s.loadBytes s.sid (0x40000000) 128 .load .row = .fault cXlateMiss 0x40000000 := by decide +kernel
/-- `mapped` with a STRICT page of its own module. -/
def strictMap (s : State) : State := (mapped s).wr 0x8000 8 0x005000000010001F
/-- A load that is held behind a PST, one that the agenda performs later, and such a load itself. -/
theorem witness_loads_late : let p := unacked (gs [(1, 0)] (strictMap onA))
    let s : State := gs [(1, loc 0), (4, 0)] (mapped { onA with late := true })
    let u (d : LoadTo) : State := onTile false (fun t => { t with loads := [⟨d, loc 0, [part8 0]⟩] })
    p.strictHeld p.sid (p.g 1) 8 .load = true ∧ p.strictHeld p.sid (p.g 1) 128 .load = true ∧ p.strictHeld p.sid (p.g 1) 8 .store = true ∧
    p.me.queueFull 0 = false ∧ s.strictHeld s.sid (s.g 1) 8 .load = false ∧ s.lateParts s.sid (s.g 1) 8 = some [part8 0] ∧
    s.lateParts s.sid (s.g 4) 8 = some [⟨0x100000, 8, .release, some 5⟩] ∧ (s.lateParts s.sid (s.g 1) 128).isSome ∧ s.me.queueFull 0 = false ∧
    (∀ d ∈ [LoadTo.reg 3 true, .reg 3 false, .queue 0], ((u d).strand 0).loads = ⟨d, loc 0, [part8 0]⟩ :: [] ∧ (u d).olds = [] ∧
      ∀ p ∈ [part8 0], p.slot = none) := by decide +kernel
/-- A full queue, and a service core. -/
theorem witness_loads_core :
    (onTile false (withCore (fun c => { c with q := c.q.set 0 (List.replicate 8 entry0) }))).me.queueFull 0 = true ∧
    (let s : State := { onA with cur := ⟨4096, false⟩ }
     isCore s.cur = true ∧ s.spaceFault s.sid 0x1000 8 = false ∧ s.corePoison 0x1000 8 false = false ∧ s.corePoison 0x1000 8 true = false ∧
     s.olds = [] ∧ okL (s.load 0x1000 8 .ld) ∧ okS (s.store 0x1000 (bytesLE 1 8)) ∧ badL
       (({ s with poison := [0x20] } : State).load 0x1000 8 .ld)) := by decide +kernel
/-- Beyond the windows there is plain memory. -/
theorem witness_plain_memory : ∃ k, ∀ j, j < 8 → isDevice (k + j) = false ∧ ¬(rtepochAddr ≤ k + j ∧ k + j < rtepochAddr + 4) := by
  have h : ∀ k, 0x10000000000000 + Config.trestleWindow + Config.journalWindow ≤ k → isDevice k = false := by
    intro k
    unfold isDevice isScw isRetry isTrestle isJournal scwEnd scwBase retryBase
    generalize Config.trestleWindow = x
    generalize Config.journalWindow = y
    intro h
    simp only [Bool.or_eq_false_iff, Bool.and_eq_false_iff, decide_eq_false_iff_not]
    omega
  refine ⟨0x10000000000000 + Config.trestleWindow + Config.journalWindow, fun j _ => ⟨h _ (Nat.le_add_right _ _), ?_⟩⟩
  unfold rtepochAddr
  generalize Config.trestleWindow = x
  generalize Config.journalWindow = y
  omega

theorem witness_stores : let s := gs [(1, loc 0), (3, loc 0x10000), (4, 0)] (mapped
      (onTile false (withCore (fun c => { c with q := c.q.set 4 [entry0] }))))
    isCore s.cur = false ∧ okS (s.storeBytes s.sid (s.g 1 + (0 : BitVec 27).signExtend 64) (bytesLE 1 8) true) ∧
    badS (s.storeBytes s.sid (s.g 3 + (0 : BitVec 27).signExtend 64) (bytesLE 1 8) true) ∧
    okS (s.storeBytes s.sid (s.g 1 + (0 : BitVec 24).signExtend 64) (bytesLE 1 (2 ^ ((5 : BitVec 3).toNat / 2))) true) ∧
    okS (s.store (s.g 1) (bytesLE 1 8)) ∧ badS (s.store (s.g 3) (bytesLE 1 8)) ∧ badS (s.store (s.g 3) (bytesLE 1 1)) ∧
    s.store 0x40000000 (bytesLE 1 8) = .fault cXlateMiss 0x40000000 ∧ s.store 0x40000000 (bytesLE 1 1) = .fault cXlateMiss 0x40000000 ∧
    badS (s.storeBytes s.sid (s.g 3) (bytesOfV entry0.v) false) ∧
    s.storeBytes s.sid 0x40000000 (bytesOfV entry0.v) false = .fault cXlateMiss 0x40000000 ∧ s.core.queue 5 = [] ∧
    s.core.queue 4 = entry0 :: [] ∧ okS (s.storeBytes s.sid (s.g 1 + (0 : BitVec 6).signExtend 64 * 128) (bytesOfV entry0.v) false) ∧
    s.me.buffer = false ∧ okS (s.storeBytes s.sid 0 (bytesLE 1 8) true) ∧
    s.resolve s.sid 0 8 .store = .ok [⟨0x100000, 8, .release, some 5⟩] ∧ s.resolve s.sid (loc 0) 8 .store = .ok [⟨scratchKey 0 0, 8, .release, none⟩] ∧
    s.OwnTile (scratchKey 0 0) ∧ ¬s.OwnTile (scratchKey 1 0) ∧ ¬s.OwnTile 0x100000 ∧ s.pstPending s.sid = false ∧
    s.me.loadsOf (keysOf [part8 0]) = false ∧ s.strictHeld s.sid (s.g 1) 8 .store = false := by
  unfold State.OwnTile; decide +kernel

def pst (o : Ord3) (k : Nat) (h : Bool) : PStore := { cells := [(k, 1)], ord := o, span := 0, held := h, clears := [] }
theorem witness_pending : let s := onTile false (fun t => { t with pend := [pst .strict 1 false, pst .strict 2 false, pst .release 1 false, pst .loose 3 true] })
    (s.strand 0).pend[1]? = some (pst .strict 2 false) ∧ ((s.strand 0).pend[0]? = some (pst .strict 1 false)) ∧
    mayPerform (s.strand 0).pend 0 = true ∧ (s.strand 0).pend[3]? = some (pst .loose 3 true) := by decide +kernel

theorem witness_atomics : let s := gs [(1, loc 0xFFF8)] onA
    s.me.Plain ∧ s.me.Settled ∧ s.olds = [] ∧ s.LocalAt (s.g 1 + (0 : BitVec 24).signExtend 64) 8 .atomic (scratchKey 0 0xFFF8) ∧
    s.LocalAt (s.g 1) 8 .load (scratchKey 0 0xFFF8) ∧ s.LocalAt (s.g 1) 8 .store (scratchKey 0 0xFFF8) ∧
    s.spaceFault s.sid (s.g 1) 8 = false ∧ (s.g 1 + (0 : BitVec 24).signExtend 64).toNat % 8 = 0 ∧ s.cur.sid < 4096 ∧ s.Clear ∧
    s.OwnTile (scratchKey 0 0xFFF8) ∧ (unacked s).pstPending s.sid = true ∧ s.cur.e = false ∧
    okS ((s.release s.sid 3).storeBytes s.sid (s.g 1) (bytesLE (s.g 0).toNat 8) true) = true := by
  unfold State.LocalAt Strand.Plain Strand.Settled State.Clear State.OwnTile; decide +kernel
/-- An atomic on a global word: performed, with stores of the strand pending and in a span; and refused, on a poisoned line. -/
theorem witness_atomics_global : let s := gs [(4, 0)] (mapped (onTile false (fun t => { t with pend := [⟨[(0x100000, 7)], .release, 0, false, []⟩] })))
    let b := gs [(4, 0)] (mapped (onTile false (fun t => { t with buffer := true, pend := [⟨[(0x100000, 7)], .release, 0, true, []⟩] })))
    let r : State := { gs [(4, 0)] (mapped onA) with poison := [0x2000] }
    let p : Part := ⟨0x100000, 8, .release, some 5⟩
    ((∀ q ∈ s.me.pend, q.held = false) ∧ b.me.buffer = true) ∧ (∀ u ∈ [s, b, r], u.cur.sid < 4096 ∧ u.me.Settled ∧ u.Clear ∧
      u.resolve u.sid (u.g 4 + (0 : BitVec 24).signExtend 64) 8 .atomic = .ok [p] ∧ (∀ l ∈ p.lines, u.foreign l 5 = false) ∧
      u.spaceFault u.sid (u.g 4) 8 = false) ∧ p.slot = some 5 ∧ p.len = 8 ∧ (p.key + 8 ≤ routeBase ∨ routeBase + 4096 ≤ p.key) ∧
    s.partsRefusal false [p] = none ∧ b.partsRefusal false [p] = none ∧ r.partsRefusal false [p] ≠ none ∧ r.me.pend = [] ∧
    (r.pitch r.me.ptag.toNat).pviol = 0 := by
  unfold Strand.Settled State.Clear; decide +kernel
/-- `STREL` of a line that is written meets no fault, so the third and the fourth clause of its statement apply. -/
theorem witness_no_fault (c : Cause) (x : Word) :
    (gs [(1, loc 0xFFF8)] onA).resolve 0 ((gs [(1, loc 0xFFF8)] onA).g 1) 8 .store ≠ .fault c x := by
  have h : (gs [(1, loc 0xFFF8)] onA).resolve 0 ((gs [(1, loc 0xFFF8)] onA).g 1) 8 .store = .ok [⟨scratchKey 0 0xFFF8, 8, .release, none⟩] := by
    decide +kernel
  exact fun e => by cases h.symm.trans e

theorem witness_fences : let s : State := gs [(1, 0x1), (2, 0)] { onA with pitches := [(5, { Pitch.empty with pctl := 0x401 })], links := [(0, { Link.empty with st := 1 })] }
    let w := onTile false (withCore (fun c => { c with a := { c.a with wait := some (.drain 9), block := [insOf (.drain 3 1)] } }))
    let d : State := gs [(1, 1)] { w with links := [(0, { Link.empty with st := 2 })] }
    s.seq.wait = none ∧ s.me.Plain ∧ s.me.Settled ∧ s.pstPending s.sid = false ∧ s.core.held = none ∧ bitsOf (s.g 2) 0 12 = 0 ∧ bitsOf (s.g 1) 0 12 ≠ 0 ∧
    bitsOf (s.g 1) 12 52 = 0 ∧ (s.pitch s.me.ptag.toNat).pctl.getLsbD 10 = true ∧ (∀ p ∈ maskPorts (s.g 1).toNat, (s.link p).st = 1) ∧
    (let x : State := { s with links := [(0, { Link.empty with st := 4 })] }; ∃ p ∈ maskPorts (x.g 1).toNat, (x.link p).st ≠ 1) ∧
    (let h := onTile false (withCore (fun c => { c with heldRst := some 8, heldUnr := some 9 })); h.core.held = some (cPeerReset, 8) ∧
      h.pstPending h.sid = false ∧ h.seq.wait = none) ∧
    (let h := onTile false (withCore (fun c => { c with heldUnr := some 9 })); h.core.heldRst = none ∧ h.core.held = some (cPeerUnreachable, 9)) ∧
    d.seq.wait = some (.drain 9) ∧ d.drainLeft (d.g 1).toNat ≠ [] ∧ d.drainLeft (d.g 2).toNat = [] ∧ isPort 0 = true ∧ (d.link 0).st = 2 ∧
    d.waitOf ⟨0, false⟩ = some (.drain 9) ∧ ((d.strand 0).core.seq false).drainOps = some (3, (1 : Word)) ∧ d.runs 0 = true ∧
    (9 : Word).toNat ≤ ({ d with cycle := 9 } : State).cycle.toNat ∧ (unacked s).pstPending s.sid = true := by
  unfold Strand.Plain Strand.Settled; decide +kernel

theorem witness_bounds : let s := gs [(1, 0x0100000000000000), (2, loc 4), (3, loc 0x10000)] onA
    s.cur.sid < 4096 ∧ s.me.saveReq = none ∧ spaceOf (s.g 1 + (0 : BitVec 27).signExtend 64) ∉ [0, 0xFD, 0xFE] ∧ spaceOf (s.g 2) = 0xFE ∧
    (s.g 2).toNat % (8 / 2 ^ (0 : BitVec 2).toNat) ≠ 0 ∧ s.me.localOk (offOf (s.g 3 + (0 : BitVec 27).signExtend 64)) 8 = false ∧
    (s.pitch s.me.ptag.toNat).pviol = 0 := by decide +kernel

/-- A walker descriptor over local memory: two rows of 128 bytes from 0, `f` its kind, direction and flags. -/
def wd (num : Nat) (f : Nat) : BitVec 512 := BitVec.ofNat 512 (0xFE00000000000000 + 12 * 2 ^ 64 + 1 * 2 ^ 72 + num * 2 ^ 80 + f * 2 ^ 86 + 1 * 2 ^ 96 +
  0xFE00000000000000 * 2 ^ 128 + 2 * 2 ^ 192 + 128 * 2 ^ 320 + 128 * 2 ^ 448)
def walk0 (w : Nat) (x : Walker) : State := onTile false (withCore (fun c => { c with w := c.w.setIfInBounds w x, q := c.q.set 4 [entry0] }))

theorem witness_walker_control : let s := gs [(1, loc 0)] (onA.wr (scratchKey 0 0) 64 (wd 0 0).toNat)
    let bad := gs [(1, loc 0)] (onA.wr (scratchKey 0 0) 64 0)
    ((walk0 1 { Walker.empty with st := .running, desc := wd 0 0 }).core.walker 1).mid = false ∧
    ((walk0 1 { Walker.empty with st := .running, desc := wd 0 0, mid := true }).core.walker 1).mid = true ∧
    (s.core.walker 1).st ≠ .running ∧ (s.core.walker 1).st ≠ .faulted ∧ (s.g 1).toNat % 64 = 0 ∧
    s.localRange s.sid (s.g 1) 64 = some (scratchKey 0 0) ∧ (wdesc (BitVec.ofNat 512 (s.rd (scratchKey 0 0) 64))).status s.me s.myTile = 0 ∧
    (wdesc (BitVec.ofNat 512 (bad.rd (scratchKey 0 0) 64))).status s.me s.myTile ≠ 0 ∧
    ((walk0 1 { Walker.empty with st := .running, desc := wd 0 0 }).core.walker 1).st = .running ∧
    ((walk0 1 { Walker.empty with st := .configured }).core.walker 1).st = .configured ∧
    (let h := gs [(1, 1)] (walk0 7 { Walker.empty with st := .halted, desc := wd 0 0 });
     (h.core.walker 7).st = .halted ∧ (0 : BitVec 5).toNat < (wdesc (h.core.walker 7).desc).levels ∧
     (h.g 1).toNat < (wdesc (h.core.walker 7).desc).count.getD 0 0 ∧ (h.g 1).toNat < 2 ^ 32) := by decide +kernel

theorem witness_full_bits : let s := gs [(1, loc 0), (2, 256)] onA
    s.febRange 1 2 = some [0, 1] ∧ s.me.buffer = false ∧ s.me.Settled ∧ s.Clear ∧ (∃ g ∈ [0, 1], g ∉ (s.tile s.myTile).full) ∧
    (let f := s.updTile 0 (fun t => { t with full := [0, 1] }); ∀ g ∈ [0, 1], g ∈ (f.tile f.myTile).full) := by
  unfold State.Clear Strand.Settled; decide +kernel

theorem witness_walker_rows : let s := walk0 1 { Walker.empty with st := .running, desc := wd 0 0 }
    let t := walk0 1 { Walker.empty with st := .running, desc := wd 4 4 }
    let x := s.walkerOf 0 1
    let y := t.walkerOf 0 1
    (x.st = .running ∧ x.mid = false ∧ x.fin = false ∧ x.stop = false ∧ x.gate = [] ∧ (s.strand 0).scstate = 1 ∧ (s.strand 0).saveReq = none ∧
      (wdesc x.desc).store = false ∧ (wdesc x.desc).index = false ∧ (wdesc x.desc).kind = 0 ∧ (wdesc x.desc).feclr = false ∧
      (wdesc x.desc).entries = 1 ∧ ((s.strand 0).core.queue 0).length < 8 ∧ (s.strand 0).core.rowUnder 0 0 = false ∧ (s.strand 0).loads = [] ∧
      s.late = false ∧
      s.resolve 0 (x.rowAddr (wdesc x.desc) 0) (wdesc x.desc).rowlen .load = .ok [⟨scratchKey 0 0, 128, .release, none⟩] ∧
      okL (s.loadBytes 0 (x.rowAddr (wdesc x.desc) 0) (wdesc x.desc).rowlen .load .row)) ∧
    (y.st = .running ∧ y.mid = false ∧ y.fin = false ∧ y.stop = false ∧ y.buf = [] ∧ (wdesc y.desc).store = true ∧ (wdesc y.desc).index = false ∧
      (wdesc y.desc).gated = false ∧ (wdesc y.desc).kind = 0 ∧ (wdesc y.desc).feclr = false ∧ (wdesc y.desc).entries = 1 ∧
      spaceOf (y.rowAddr (wdesc y.desc) 0) = 0xFE ∧ (t.strand 0).localOk (offOf (y.rowAddr (wdesc y.desc) 0)) (wdesc y.desc).rowlen = true ∧
      (t.strand 0).buffer = false ∧ (t.strand 0).core.queue 4 = entry0 :: [] ∧ (t.strand 0).base + (t.strand 0).size ≤ 0x400000 ∧
      (t.strand 0).loads = []) := by decide +kernel
/-- A load row that the agenda reads later: before it issues, and between. -/
theorem witness_walker_late : let s : State := { walk0 1 { Walker.empty with st := .running, desc := wd 0 0 } with late := true }
    let t := walk0 1 { Walker.empty with st := .running, desc := wd 0 0, mid := true, rd := [⟨scratchKey 0 0, 128, .release, none⟩] }
    let x := s.walkerOf 0 1
    let y := t.walkerOf 0 1
    let d := wdesc x.desc
    (x.st = .running ∧ x.fin = false ∧ x.mid = false ∧ x.stop = false ∧ d.store = false ∧ d.index = false ∧ d.feclr = false ∧
      s.lateParts 0 (x.rowAddr d 0) d.rowlen = some [⟨scratchKey 0 0, 128, .release, none⟩] ∧ s.strictHeld 0 (x.rowAddr d 0) d.rowlen .load = false) ∧
    (y.st = .running ∧ y.fin = false ∧ y.mid = true ∧ y.rd = [⟨scratchKey 0 0, 128, .release, none⟩] ∧ (keysOf y.rd).length = (wdesc y.desc).rowlen ∧
      (wdesc y.desc).entries = 1 ∧ (wdesc y.desc).kind = 0 ∧ (wdesc y.desc).feclr = false ∧ (t.strand 0).core.rowUnder 0 0 = false ∧
      ((t.strand 0).core.queue 0).length < 8 ∧ (t.strand 0).loads = [] ∧ t.olds = [] ∧ ∀ p ∈ y.rd, p.slot = none) ∧
    (let f := walk0 1 { Walker.empty with st := .running, desc := BitVec.ofNat 512 (2 * 2 ^ 64 + 3 * 2 ^ 80 + 256 * 2 ^ 448), mid := true, buf := [entry0] };
      (f.strand 0).core.rowUnder 0 3 = true ∧ f.me.queueFull 3 = true ∧
      (walk0 1 { f.walkerOf 0 1 with desc := BitVec.ofNat 512 (3 * 2 ^ 80 + 1 * 2 ^ 86 + 256 * 2 ^ 448) }).core.rowUnder 1 3 = true) := by
  decide +kernel

/-- A row of a gate buffer. -/
def grow (o : Nat) (last : Bool) : GateRow := ⟨loc o, 1, last, Vector.replicate 4 0⟩
def gated0 (gate : List GateRow) (bq : List Bool) : State := onTile false (withCore (fun c =>
  { c with w := c.w.setIfInBounds 1 { Walker.empty with st := .running, desc := wd 4 20, gate := gate }, bqEA := bq }))
theorem witness_gates : let s := gated0 [grow 0 true] [true]
    let d := gated0 [grow 0 false, grow 128 true] [false]
    let n := gated0 [grow 0 false] []
    (s.walkerOf 0 1).st = .running ∧ (s.strand 0).scstate = 1 ∧ (s.walkerOf 0 1).go = 0 ∧ (s.walkerOf 0 1).gate = ⟨loc 0, 1, true, Vector.replicate 4 0⟩ :: [] ∧ s.brbqFirst 0 (s.walkerOf 0 1) = false ∧ d.brbqFirst 0 (d.walkerOf 0 1) = false ∧
    (let q : State := { (d.updCoreOf 0 (fun c => { c with a := { c.a with wait := some .bqEmpty } })) with cycle := 4 }; q.brbqFirst 0 (q.walkerOf 0 1) = true ∧
      groupRows (q.walkerOf 0 1).gate = some 2) ∧
    (s.strand 0).core.bqEA = true :: [] ∧ spaceOf (loc 0) = 0xFE ∧ (s.strand 0).localOk (offOf (loc 0)) (wdesc (s.walkerOf 0 1).desc).rowlen = true ∧
    (s.strand 0).buffer = false ∧ (wdesc (s.walkerOf 0 1).desc).feclr = false ∧ (s.strand 0).base + (s.strand 0).size ≤ 0x400000 ∧ groupRows (d.walkerOf 0 1).gate = some 2 ∧
    (d.strand 0).core.bqEA = false :: [] ∧ groupRows (n.walkerOf 0 1).gate = none ∧ (n.strand 0).core.bqEA = [] := by decide +kernel

/-- A row-wire arrival of strand 0. -/
def arr0 (d : Bool) : Arrival := { sid := 0, bkind := 0, bnum := 0, die := 0, wire := 0, sel := 0x100, done := d, withdrawn := false }
theorem witness_barriers : let s := gs [(1, 0x100), (2, 2 ^ 40)] onA
    let n : State := gs [(1, 0x100)] { onA with arrivals := [arr0 false] }
    let w : State := { onTile false (withCore (fun c => { c with a := { c.a with wait := some (.bar (some 9)), block := [insOf (.barw 1)] } })) with
      arrivals := [arr0 false] }
    let t := gs [(1, 0x100)] w
    s.me.buffer = false ∧ s.barhStatus (s.g 1) (s.g 0) = 0 ∧ s.barhStatus (s.g 2) (s.g 0) ≠ 0 ∧ bitsOf (s.g 2) 40 24 ≠ 0 ∧
    (bitsOf (s.g 1) 40 24 = 0 ∧ selKind (s.g 1) = 0 ∧ selBar (s.g 1) = 0 ∧ s.g 0 = 0 ∧ selY (s.g 1) = 0 ∧ (selX (s.g 1)).testBit (tileX s.myTile) = true ∧
      (s.row 0).opened = false ∧ (s.row 0).arrived = []) ∧ s.Clear ∧ (arr0 false).withdrawn = false ∧
    2 ^ 64 ≤ ({ n with cycle := 0xFFFFFFFFFFFFFFFF } : State).cycle.toNat + (n.pitch n.me.ptag.toNat).pbarto.toNat ∧ s.arrivalOf s.sid (s.g 1) = none ∧ n.arrivalOf n.sid (n.g 1) = some (arr0 false) ∧
    n.seq.wait = none ∧ (let d : State := { n with arrivals := [arr0 true] }; d.arrivalOf d.sid (d.g 1) = some (arr0 true)) ∧
    t.waitOf ⟨0, false⟩ = some (.bar (some 9)) ∧ ((t.strand 0).core.seq false).barSel = some 0x100 ∧ t.arrivalOf 0 0x100 = some (arr0 false) ∧
    t.runs 0 = true ∧ t.cycle.toNat < (9 : Word).toNat ∧ (9 : Word).toNat ≤ ({ t with cycle := 9 } : State).cycle.toNat := by
  unfold State.Clear; decide +kernel

def wire0 (kind : BitVec 2) : Wire :=
  { Wire.empty with kind := kind, mask := if kind == 1 then 0x10000 else if kind == 2 then 0x10001 else 1, opened := true, arrived := [(0, 0)], toCol := [(3, 0)] }
theorem witness_wires : let s : State := { onA with rows := [(0, wire0 0)], cols := [(0, wire0 1)], edges := 6 }
    let m : State := { onA with rows := [(0, wire0 2)], edges := 8 }
    (s.row 0).complete false = true ∧ (s.col 0).complete true = true ∧ (s.row 0).last + 4 * 6 ≤ s.prog ∧ (s.row 0).kind ≠ 2 ∧
    (s.row 1).complete false = false ∧ ({ s with edges := 5, edgeAcc := 3 } : State).prog < (s.row 0).last + 4 * 6 ∧
    (m.row 0).complete false = true ∧ (m.row 0).kind = 2 ∧ (m.row 0).toCol ≠ [] ∧ (m.row 0).last + 4 * 8 ≤ m.prog := by decide +kernel

def part0 (k n : Nat) : Part := ⟨k, n, .release, none⟩
def row0 (d : Bool) : CpRow := { src := [part0 (scratchKey 0 0) 16], dst := [part0 (scratchKey 0 64) 16], sva := loc 0, dva := loc 64, len := 16, done := d }
def copy0 (d : Bool) (o : CpOwner) : Copy := { owner := o, ptag := 5, rows := [row0 d], fem := false, since := 0, merge := none, leader := none }
/-- A ticket of slot 2, generation 1, promise 100. -/
def tick : Word := ticketOf 2 1 100
def slot2 (c : StrandCore) : StrandCore := { c with cps := c.cps.set 2 ⟨1, 100, some 3⟩ }

theorem witness_copies : let s : State := { onTile false (withCore slot2) with copies := [(3, copy0 false (.strand 0 2 (some 1) (some 4) tick))] }
    let d : State := { onTile false (withCore slot2) with copies := [(3, copy0 true (.strand 0 2 (some 1) (some 4) tick))] }
    let t := gs [(1, tick)] s
    let w := onTile false (withCore (fun c => slot2 { c with a := { c.a with wait := some (.ticket tick 100) } }))
    let u := gs [(1, tick)] onA
    Tbl.find s.copies 3 = some (copy0 false (.strand 0 2 (some 1) (some 4) tick)) ∧ (row0 true).done = true ∧ (row0 false).done = false ∧
    s.merged 3 = [(3, copy0 false (.strand 0 2 (some 1) (some 4) tick))] ∧ (row0 false).src ≠ [] ∧ (∀ p ∈ (row0 false).src, p.slot = none) ∧
    (∀ r ∈ (copy0 true (.strand 0 2 none none tick)).rows, r.done = true) ∧ (∃ r ∈ (copy0 false (.strand 0 2 none none tick)).rows, r.done = false) ∧
    (d.strand 0).queueFull 1 = false ∧ (d.strand 0).loads = [] ∧ s.olds = [] ∧ (copy0 false (.strand 0 2 none none tick)).leader = none ∧
    (let f := d.updCoreOf 0 (fun c => { c with q := c.q.set 1 (List.replicate 8 entry0) }); (f.strand 0).queueFull 1 = true) ∧ t.seq.wait = none ∧ bitsOf (t.g 1) 56 4 ≠ 0 ∧ t.core.ticketLive (t.g 1) = true ∧
    bitsOf t.cycle 0 56 < max (bitsOf (t.g 1) 0 56) (t.core.cps.getD (bitsOf (t.g 1) 60 4) .empty).prom.toNat ∧
    (let p : State := { t with cycle := 100 }; max (bitsOf (p.g 1) 0 56) (p.core.cps.getD (bitsOf (p.g 1) 60 4) .empty).prom.toNat ≤ bitsOf p.cycle 0 56) ∧
    bitsOf (onA.g 1) 56 4 = 0 ∧ u.core.ticketLive (u.g 1) = false ∧ w.waitOf ⟨0, false⟩ = some (.ticket tick 100) ∧ w.runs 0 = true ∧
    bitsOf w.cycle 0 56 < (100 : Word).toNat := by decide +kernel

/-- A copy descriptor at local offset 0x1000: one row of 16 bytes from 0 to 64. -/
def cpDesc0 (s : State) : State :=
  (((s.wr (scratchKey 0 0x1000) 8 0xFE00000000000000).wr (scratchKey 0 0x1008) 8 0xFE00000000000040).wr (scratchKey 0 0x1010) 8 (1 + 12 * 65536 + 16 * 2 ^ 32))
def isRows : CpPlan → Bool
  | .rows _ => true
  | _ => false
theorem witness_copy_issue : let s := gs [(1, loc 0x1000)] (cpDesc0 onA)
    let r := ((s.spanBreak s.sid).settleLoads s.sid).drain s.sid allKinds
    let f := (cpDesc0 (onTile false (withCore (fun c => { c with cps := Vector.replicate 16 ⟨1, 0, some 3⟩ }))))
    r.localRange s.sid (s.g 1 + (0 : BitVec 32).signExtend 64) 32 = some (scratchKey 0 0x1000) ∧ (s.g 1).toNat % 32 = 0 ∧
    (cpDesc (r.rdBytes (scratchKey 0 0x1000) 32)).ok = true ∧ isRows (r.planCopy s.sid (cpDesc (r.rdBytes (scratchKey 0 0x1000) 32))) ∧
    r.core.freeSlots ≠ [] ∧ f.core.freeSlots = [] := by decide +kernel

def chan0 (l : List Token) : Chan := { slots := 2, tokens := l, due := [], put := l.length, took := 0, sSid := some 0, rSid := some 0, left := 0, port := none, away := false, gone := false }
def end0 (d : BitVec 2) (cl : Bool) : ChEnd := { ChEnd.empty with dir := d, chan := 9, slots := 2, closed := cl }
/-- Channel 1 of strand 0 an end of channel 9, which holds `l`. -/
def withEnd (d : BitVec 2) (cl : Bool) (l : List Token) : State :=
  { onTile true (withCore (fun c => { c with c := c.c.set 1 (end0 d cl) })) with chans := [(9, chan0 l)] }

/-- The same with a zero-slot channel, of whose tokens the receiver has taken `took`. -/
def zeroEnd (d : BitVec 2) (l : List Token) (took : Nat) : State :=
  { withEnd d false l with chans := [(9, { chan0 l with slots := 0, took := took })] }

theorem witness_send : let s := withEnd 1 false []
    let f := withEnd 1 false [.data 1 false, .data 2 false]
    let z := zeroEnd 1 [] 0
    s.seq.wait = none ∧ (onE.endOf 0 1).dir = 0 ∧ ((withEnd 2 false []).endOf 0 1).dir = 2 ∧ ((withEnd 1 true []).endOf 0 1).closed = true ∧
    (s.endOf 0 1).dir = 1 ∧ (s.endOf 0 1).closed = false ∧ (s.chan (s.endOf 0 1).chan).slots ≠ 0 ∧ (s.chan (s.endOf 0 1).chan).room 1 = true ∧ s.core.rowUnder 1 1 = false ∧
    s.periodEnd s.sid = none ∧ (f.chan (f.endOf 0 1).chan).room 1 = false ∧ (f.chan (f.endOf 0 1).chan).gone = false ∧
    (let g : State := { f with chans := [(9, { chan0 [.data 1 false, .data 2 false] with gone := true })] }; (g.chan (g.endOf 0 1).chan).gone = true ∧
      (g.chan (g.endOf 0 1).chan).room 1 = false ∧ (g.chan (g.endOf 0 1).chan).slots ≠ 0) ∧
    (z.seq.wait = none ∧ (z.endOf 0 1).dir = 1 ∧ (z.endOf 0 1).closed = false ∧ (z.chan 9).slots = 0 ∧ (z.chan 9).gone = false ∧ z.periodEnd z.sid = none ∧
      (z.chan 9).took ≤ 0) ∧ 0 < ((zeroEnd 1 [] 1).chan 9).took := by decide +kernel

theorem witness_receive : let s := withEnd 2 false [.data 7 true]
    let m := withEnd 2 false [.marker false]
    let n := withEnd 1 false []
    s.seq.wait = none ∧ s.me.buffer = false ∧ (s.endOf s.sid 1).dir = 2 ∧ (s.chan 9).view = .data 7 true :: [] ∧ (s.chan 9).due = [] ∧ s.bpHit s.sid 1 = none ∧
    ((withEnd 2 false []).chan 9).view = [] ∧ ((withEnd 2 false []).chan 9).gone = false ∧ ((withEnd 2 false [.fin]).chan 9).view = .fin :: [] ∧
    (m.chan 9).view = .marker false :: [] ∧ ((zeroEnd 2 [.data 7 false] 0).chan 9).view = .data 7 false :: [] ∧
    (m.recvEnds m.sid ≠ [] ∧ (∀ i ∈ m.recvEnds m.sid, (m.chanOf m.sid i).view.head? = some (.marker false)) ∧
      (∀ i ∈ m.openEnds m.sid, (m.chanOf m.sid i).gone = false) ∧ ∀ i < 8, (m.endOf m.sid i).ratio = 0) ∧
    (n.recvEnds n.sid = [] ∧ (∀ i ∈ n.openEnds n.sid, (n.chanOf n.sid i).gone = false)) ∧ (n.endOf n.sid 1).dir ≠ 0 := by
  decide +kernel

def okOf {ε α : Type} : Except ε α → Option α
  | .ok x => some x
  | .error _ => none
/-- Package 3 is reached by port 0, which is ACTIVE. -/
def routed (s : State) : State := { s.wr (routeBase + 12) 4 (2 ^ 31 + 1) with links := [(0, { Link.empty with st := 1, pkg := 3, credit := true })] }

theorem witness_pod_local : let s : State := gs [(1, 0), (2, 3)] (mapped { onA with pkg := 3 })
    s.me.Plain ∧ s.me.Settled ∧ s.olds = [] ∧ s.pstPending s.sid = false ∧
    (let t := unacked (gs [(1, 0), (2, 3)] (strictMap { onA with pkg := 3 })); t.pstPending t.sid = true ∧ ∃ ps, okOf (t.podTarget 0 5 1 (t.g 1) 8) = some ps ∧ ps.any isStrictPart = true) ∧
    s.cur.sid < 4096 ∧ s.seq.wait = none ∧ spaceOf (s.g 1 + (0 : BitVec 24).signExtend 64) = 0 ∧ s.g 2 = s.pkg.setWidth 64 ∧
    (∀ k ∈ [0, 1, 2], okOf (s.podTarget (sidDie s.sid) s.me.ptag.toNat k (s.g 1) 8) = some [⟨0x100000, 8, .release, some 5⟩]) ∧ (s.g 1).toNat % 8 = 0 ∧ s.Clear := by
  unfold Strand.Plain Strand.Settled State.Clear
  refine ⟨by decide +kernel, by decide +kernel, by decide +kernel, by decide +kernel,
    ⟨by decide +kernel, [⟨0x100000, 8, .strict, some 5⟩], by decide +kernel, by decide +kernel⟩, ?_⟩; decide +kernel

theorem witness_pod_remote : let s : State := gs [(1, 8), (2, 3), (3, loc 0), (4, 4)] { onA with pkg := 1 }
    let w := onTile false (withCore (fun c => { c with a := { c.a with wait := some (.podReply 6) } }))
    let p : State := { w with podOut := [(6, pod0 0)] }
    s.me.Plain ∧ s.seq.wait = none ∧ spaceOf (s.g 3) ≠ 0 ∧ spaceOf (s.g 1) = 0 ∧ (s.g 2).toNat < 1024 ∧ (s.g 4).toNat % 8 ≠ 0 ∧ (s.g 1).toNat % 8 = 0 ∧
    (s.g 2).toNat ≠ s.pkg.toNat ∧ s.portFor s.myTile 3 = none ∧ (routed s).portFor s.myTile 3 = some 0 ∧ (pod0 0).port = none ∧ (pod0 0).dead = false ∧ (pod0 0).ended = 0 ∧ (p.portFor (pod0 0).src 3).any (p.portCut 0) = false ∧
    p.podOut.filter (fun x => x.2.pkg == 3 && x.2.ended == 0) = [(6, pod0 0)] ∧ (p.strandAt 7 0 0 = some 0) ∧
    (let t := unacked onA; t.podOut.filter (fun x => x.2.pkg == 3 && x.2.ended == 0) = [(6, pod0 1)] ∧ Tbl.get t.peers 3 0 ≠ (1 : BitVec 8)) ∧ s.Clear ∧ Tbl.find p.podOut 6 = some (pod0 0) ∧ (1 : BitVec 8) ≠ Tbl.get p.peers (pod0 0).pkg.toNat 0 ∧
    (0 : BitVec 8) = Tbl.get p.peers (pod0 0).pkg.toNat 0 ∧ p.strandAt 7 0 0 = some 0 ∧ p.waitOf ⟨0, false⟩ = some (.podReply 6) ∧
    p.cycle.toNat < (pod0 0).since.toNat + 2 ^ 20 ∧ (pod0 0).since.toNat + 2 ^ 20 ≤ ({ p with cycle := 0x100000 } : State).cycle.toNat ∧
    Tbl.get p.peers 9 0 ≠ (1 : BitVec 8) ∧ (∀ x ∈ p.podOut, x.2.pkg ≠ 9) := by unfold Strand.Plain State.Clear; decide +kernel

theorem witness_pod_request : let s : State := { mapped onA with joins := [⟨3, 9, 5⟩], incarnation := 2 }
    (s.joins.find? (fun j => j.pkg == 3 && j.pitch == 9)) = some ⟨3, 9, 5⟩ ∧ (s.joins.find? (fun j => j.pkg == 3 && j.pitch == 8)) = none ∧
    s.incarnation = 2 ∧ s.pstate 5 = 1 ∧ (routed s).portFor 8 3 = some 0 ∧ (routed s).portOpen 0 = true ∧ s.heldPkts = [] ∧ s.portFor 8 4 = none ∧ s.olds = [] ∧ okOf (s.podTarget 0 5 2 0 8) = some [⟨0x100000, 8, .release, some 5⟩] ∧ okOf (s.podTarget 0 5 0 0 8) = some [⟨0x100000, 8, .release, some 5⟩] ∧
    okOf (s.podTarget 0 5 1 0 8) = some [⟨0x100000, 8, .release, some 5⟩] := by decide +kernel

def rec0 (st : RState) : Rec := { Rec.empty with ptag := 5, st := st, inst := 3, count := 2, kind := 2, reccount := 1, recs := 0, tid := 8 }
def dmsg (sl : Bool) (inst : Nat) : DMsg := { isSeal := sl, tref := mkTref 0 7 inst, amt := 1, skip := false, ptag := 5, sent := 0, src := 0, die := 0, via := none }
def inst0 (sealed : Bool) : InstEntry := { inst := 3, tid := 8, ptag := 5, slots := 0, isSealed := sealed, count := 1, recs := [7] }
def tasks (st : RState) (sl : Bool) : State :=
  { mapped onA with pkg := 0, recs := [(7, rec0 st)], insts := [(0, inst0 sl)], templates := [(8, { ptag := 5, nslots := 2, protos := [] })],
                    msgs := [dmsg false 3, dmsg false 4, dmsg true 3] }

theorem witness_decrements : let s := tasks .building false
    let r := s.recOf 7
    s.me.buffer = false ∧ s.msgs[0]? = some (dmsg false 3) ∧ trefPkg (dmsg false 3).tref = s.pkg.toNat ∧ trefKey (dmsg false 3).tref = 7 ∧
    (s.dispOf (bitsOf (dmsg false 3).tref 52 2)).decAt ≠ some s.cycle ∧ r.st = .building ∧ r.inst.toNat = trefInst (dmsg false 3).tref ∧
    s.pstate r.ptag.toNat ≠ 2 ∧ r.ptag = (dmsg false 3).ptag ∧ r.inst.toNat ≠ trefInst (dmsg false 4).tref ∧
    (let d : State := { s with disp := [(0, { Dispatcher.empty with decAt := some s.cycle })] }; (d.dispOf 0).decAt = some d.cycle) ∧
    s.cycle.toNat < (dmsg false 3).sent.toNat + 2 ^ 20 ∧ (dmsg false 3).sent.toNat + 2 ^ 20 ≤ ({ s with cycle := 0x100000 } : State).cycle.toNat ∧
    (dmsg false 3).via = none ∧ s.pstate r.ptag.toNat = 1 ∧ s.msgs[2]? = some (dmsg true 3) ∧ s.instOn 0 3 = some (0, inst0 false) ∧ (∀ j ∈ (inst0 false).recs, 0 < (s.recOf j).count.toInt) ∧
    s.Clear ∧ s.me.Settled ∧ s.cur.e = false ∧ (unacked s).pstPending s.sid = true := by unfold State.Clear Strand.Settled; decide +kernel

theorem witness_tasks : let s := gs [(1, mkTref 0 7 3), (2, 1)] (tasks .building false)
    let r := gs [(1, mkTref 0 7 3)] (tasks .running true)
    let w := onTile false (withCore (fun c => { c with a := { c.a with wait := some (.seal 3) } }))
    s.me.Plain ∧ s.cur.sid < 4096 ∧ okOf (s.trefRec (s.g 1)) = some 7 ∧ (s.recOf 7).st = .building ∧ (r.recOf 7).st ≠ .building ∧ (r.recOf 7).st ≠ .waiting ∧
    (s.instHome 3 = some (inst0 false) ∧ s.isSealed 3 = false ∧ (s.g 2).toNat < ((Tbl.find s.templates 8).map Template.nslots).getD 0 ∧
      spaceOf ((inst0 false).slots + 8 * s.g 2) = 0 ∧
      okOf (s.globalParts (sidDie s.sid) 5 .store ((inst0 false).slots + 8 * s.g 2).toNat 8 2) = some [⟨0x100008, 8, .release, some 5⟩] ∧
      s.partsRefusal true [⟨0x100008, 8, .release, some 5⟩] = none) ∧
    ((s.recOf 7).kind = 2 ∧ (s.recOf 7).listSealed = false ∧ (s.recOf 7).reccount ≠ 0) ∧ s.seq.wait = none ∧ w.seq.wait = some (.seal 3) ∧
    (∀ m ∈ w.msgs, m.isSeal = true → trefInst m.tref ≠ 3) ∧ s.Clear ∧ s.isSealed 3 = false := by unfold Strand.Plain State.Clear; decide +kernel

theorem witness_tref_refused : (match (onA.trefRec (onA.g 1)) with | .error _ => true | .ok _ => false) = true ∧
    (tasks .running true).mayFree 3 = false ∧ ({ tasks .failed true with msgs := [] } : State).mayFree 3 = true := by decide +kernel

theorem witness_instances : let s := gs [(1, 8), (2, 0), (3, loc 0)] { (mapped onA) with templates := [(8, { ptag := 5, nslots := 0, protos := [(0, Rec.empty)] })] }
    let l := gs [(1, mkTref 0 7 3), (2, loc 0)] ((tasks .building false).wr 0x100000 4 1)
    let f := gs [(1, mkTref 0 7 3), (2, loc 0)] ((tasks .building false).wr 0x100000 4 2)
    s.me.Plain ∧ s.me.Settled ∧ l.seq.wait = none ∧ l.olds = [] ∧ l.me.Settled ∧ (∀ p ∈ [((0 : Nat), Rec.empty)], p.1 < 4) ∧ bitsOf (s.g 1) 16 48 = 0 ∧ s.templateFor 5 8 = some { ptag := 5, nslots := 0, protos := [(0, Rec.empty)] } ∧
    s.localRange s.sid (s.g 3) 8 = some (scratchKey 0 0) ∧ (s.instantiate 5 8 (s.g 2)).2.1 = 0 ∧
    (l.localRange l.sid (l.g 2) 32 = some (scratchKey 0 0) ∧ (l.g 2).toNat % 32 = 0 ∧ leAt (l.rdBytes (scratchKey 0 0) 32) 12 4 = 0 ∧ okOf (l.listRec (l.g 1)) = some 7 ∧
      okOf (l.globalParts 0 5 .load 0 4 2) = some [⟨0x100000, 4, .release, some 5⟩] ∧ l.valOf (keysOf [⟨0x100000, 4, .release, some 5⟩]) ≤ (l.recOf 7).reccount.toNat) ∧
    (f.recOf 7).reccount.toNat < f.valOf (keysOf [⟨0x100000, 4, .release, some 5⟩]) ∧
    okOf (f.globalParts 0 5 .store (0 + 32 + 32 * 1) 32 2) = some [⟨0x100040, 32, .release, some 5⟩] ∧ l.Clear ∧ f.Clear ∧
    l.partsRefusal false [⟨0x100000, 4, .release, some 5⟩] = none ∧ f.partsRefusal true [⟨0x100040, 32, .release, some 5⟩] = none := by
  unfold Strand.Plain Strand.Settled State.Clear; decide +kernel

theorem witness_strand_ends : let f := walk0 1 { Walker.empty with st := .faulted }
    let r := walk0 1 { Walker.empty with st := .running }
    let l := onTile false (withCore (fun c => { c with e := { c.e with exited := true } }))
    onA.cur.sid < 4096 ∧ onA.me.Plain ∧ onA.pstPending onA.sid = false ∧ onA.core.held = none ∧ onA.cur.e = false ∧
    (∃ w ∈ f.core.w.toList, w.st = .faulted) ∧ f.me.saveReq = none ∧ (onTile false (fun t => { t with saveReq := some 1 })).me.saveReq.isSome = true ∧ (∀ w ∈ (walk0 1 { Walker.empty with st := .faulted, brk := true }).core.w.toList, w.st = .faulted → w.brk = true) ∧ onE.sumsOf onE.sid = [] ∧ (∀ w ∈ r.core.w.toList, w.st ≠ .faulted) ∧ (∃ w ∈ r.core.w.toList, w.st = .running) ∧
    (∀ w ∈ onA.core.w.toList, w.st ≠ .faulted ∧ w.st ≠ .running) ∧ (onA.core.seq true).exited = false ∧ (l.core.seq true).exited = true ∧
    l.openEnds l.sid = [] ∧ onE.cur.e = true ∧ (∀ e ∈ (onE.mx onE.myTile).ent.toList, e.sid = onE.sid → e.busy = false) ∧ onE.collsOf onE.sid = [] := by
  unfold Strand.Plain; decide +kernel

/-! Vectors: the type codes at the ends of their sets. -/
theorem witness_vectors : tyIF 0 = true ∧ tyIF 7 = true ∧ tyIF 10 = true ∧ tyIF 12 = true ∧ tyI 7 = true ∧ tyF 12 = true ∧ tyW 8 = true ∧ tyW 12 = true ∧
    (127 : BitVec 10).toNat < tyCount 0 ∧ (4 : BitVec 10).toNat ≤ 4 ∧ 4 < (5 : BitVec 10).toNat ∧ ((4 : BitVec 10) = 4 ∧ (1 : BitVec 3) ≠ 0) ∧
    (Instr.vcvt 1 2 10 12 0 1 0).wf ∧ (Instr.vcvt 1 2 12 10 0 1 0).wf ∧ (Instr.vred 1 2 5 7 0).wf ∧ (Instr.vred 1 2 2 12 0).wf ∧
    onE.core.queue 0 = [] ∧ onE.me.queueFull 4 = false ∧
    (let s := onTile true (withCore (fun c => { c with q := (c.q.set 4 (List.replicate 8 entry0)).set 0 [entry0] })); s.me.queueFull 4 = true ∧
      s.core.queue 0 = entry0 :: []) := by decide +kernel

theorem witness_chains : let s := gs [(1, 64), (2, 1), (3, 1)] (mapped onE)
    let o := onE.updTile 0 (fun t => { t with chainOwner := t.chainOwner.set 0 (some 1024) })
    let w := onTile true (withCore (fun c => { c with e := { c.e with wait := some (.stream 0 4 0 3) } }))
    let p : State := { (w.updTile 0 (fun t => { t with chainOwner := t.chainOwner.set 0 (some 0), chainPipe := t.chainPipe.set 0 [(24, 1, false)] })) with edges := 5 }
    let f := p.updCoreOf 0 (fun c => { c with q := c.q.set 4 (List.replicate 8 entry0) })
    ((s.g 2).toNat / 2 ^ 56 ≠ 0 ∨ (s.g 2).toNat % 64 ≠ 0) ∧ (s.g 1).toNat / 2 ^ 56 = 0 ∧ (s.g 1).toNat % 64 = 0 ∧ s.g 0 = 0 ∧ s.g 3 ≠ 0 ∧
    (s.tile (sidTile s.sid)).chainOwner.get 0 = none ∧ (s.tile (sidTile s.sid)).chainQ.get 0 = [] ∧
    (o.tile (sidTile o.sid)).chainOwner.get 0 = some 1024 ∧ 1024 ≠ o.sid ∧ p.streamOf 0 0 = some (0, 4, 0, 3) ∧
    (p.tile 0).chainPipe.get 0 = (24, 1, false) :: [] ∧ p.prog < 24 ∧ (p.strand 0).queueFull 4 = false ∧ (p.strand 0).loads = [] ∧ p.edge = true ∧
    (p.tile 0).chainAt.get 0 ≠ p.edges ∧ 24 ≤ ({ p with edges := 6 } : State).prog ∧ (f.strand 0).queueFull 4 = true ∧
    f.streamOf 0 0 = some (0, 4, 0, 3) ∧ chainHeadOk (List.replicate 64 0) = true ∧ tloadSlots (List.replicate 64 0) = [] ∧
    chainHeadOk (List.replicate 64 0xFF) = false := by decide +kernel

def claimed (m : Matrix → Matrix) : State := onE.updTile 0 (fun t => { t with mx := m { t.mx with owner := some 0 } })
def ent0 (mma : Bool) : FEntry := { FEntry.empty with st := .firing, isMma := mma, rows := 1, ty := 9, stride := 128, issued := 0 }
theorem witness_matrix : let s := gs [(1, loc 0)] (claimed id)
    let f := claimed (fun m => { m with pty := m.pty.set 1 9 })
    let b := claimed (fun m => { m with ent := m.ent.set 0 (ent0 true) })
    let q := gs [(1, loc 0)] f
    (onE.mx onE.myTile).owner = none ∧ (s.mx s.myTile).owner = some s.sid ∧ s.seq.wait = none ∧ (s.mx s.myTile).freeEnt = some 0 ∧
    s.rowsLocal (s.g 1).toNat 128 128 (rowBytes 9) = true ∧ (∀ e ∈ (s.mx s.myTile).ent.toList, (e.busy && e.isMma && e.pb == 0) = false) ∧
    (q.mx q.myTile).pty.get 1 ≠ 0 ∧ tapered 9 = tapered ((q.mx q.myTile).pty.get 1).toNat ∧ q.rowsLocal (q.g 1).toNat 128 128 (rowBytes 9) = true ∧
    (∀ e ∈ (s.mx s.myTile).ent.toList, e.busy = false) ∧ (∃ e ∈ (b.mx b.myTile).ent.toList, e.busy = true) ∧ (b.mx b.myTile).owned 0 0 = true := by decide +kernel

theorem witness_matrix_engine : let l : State := { (claimed (fun m => { m with ent := m.ent.set 0 (ent0 false) })) with cycle := 1, edges := 1 }
    let f : State := { (claimed (fun m => { m with ent := m.ent.set 0 (ent0 true) })) with cycle := 1, edges := 1 }
    let u := claimed (fun m => { m with ent := m.ent.set 0 { ent0 true with upd := [(0, 9, [])] } })
    let e := (l.mx 0).entry 0
    let x := (f.mx 0).entry 0
    (e.busy = true ∧ e.isMma = false ∧ l.mxRuns e = true ∧ e.granList[e.gran]? = some 0 ∧ e.gran = 0 ∧ 0 ∉ (l.tile 0).full ∧ l.edge = true ∧
      0 ∈ ((l.updTile 0 (fun t => { t with full := [0] })).tile 0).full) ∧
    (x.busy = true ∧ x.isMma = true ∧ x.fired < x.rows ∧ f.mxRuns x = true ∧ x.issued.toNat < f.cycle.toNat ∧ x.fired = 0 ∧
      (f.mx 0).earlierUnfired x (x.arow + x.fired) = false ∧ (f.mx 0).portFree ≤ f.edges ∧ f.edge = true ∧
      (∀ g ∈ granules (x.addr + x.fired * x.stride) (rowBytes x.ty.toNat), g ∉ (f.tile 0).newNow) ∧
      (∃ g ∈ granules (x.addr + x.fired * x.stride) (rowBytes x.ty.toNat), g ∉ (f.tile 0).full) ∧
      (let g := f.updTile 0 (fun t => { t with full := [0] }); ∀ h ∈ granules (x.addr + x.fired * x.stride) (rowBytes x.ty.toNat), h ∈ (g.tile 0).full)) ∧
    (((u.mx 0).entry 0).upd = (0, 9, []) :: [] ∧ u.prog < 9 ∧ 9 ≤ ({ u with edges := 3 } : State).prog ∧
      ∀ y ∈ (u.mx 0).ent.toList, ∀ v ∈ y.upd, 9 ≤ v.2.1) := by decide +kernel

theorem witness_msend : let f := (withEnd 1 false [.data 1 false, .data 2 false]).updTile 0 (fun t => { t with mx := { t.mx with owner := some 0 } })
    let r : State := { f with chans := [(9, { chan0 [] with slots := 4 })] }
    (f.mx f.myTile).owner = some f.sid ∧ f.seq.wait = none ∧ (f.mx f.myTile).owned 0 0 = false ∧ (f.endOf f.sid 1).dir = 1 ∧ (f.endOf f.sid 1).closed = false ∧
    (f.chanOf f.sid 1).slots ≠ 0 ∧ (f.chanOf f.sid 1).gone = false ∧ (f.chanOf f.sid 1).room 1 = false ∧ (r.chanOf r.sid 1).room (4 * (0 + 1)) = true ∧
    r.periodEnd r.sid = none ∧ (r.chanOf r.sid 1).slots ≠ 0 ∧ r.core.rowUnder 1 1 = false ∧
    (let b := f.updTile 0 (fun t => { t with mx := { t.mx with ent := t.mx.ent.set 0 (ent0 true) } }); (b.mx b.myTile).owned 0 0 = true ∧
      (b.mx b.myTile).owner = some b.sid ∧ b.seq.wait = none) := by decide +kernel

/-- A distinct-count object at local offset 0 (12: R295). -/
def dcState : State := gs [(1, loc 0)] (onE.wrBytes (scratchKey 0 0) ((initBytes 3 0 0 7 0).take 64))
def qsState : State := gs [(1, loc 0)] (onE.wrBytes (scratchKey 0 0) ((initBytes 1 0 1 7 0).take 128))
def hhState : State := gs [(1, loc 0), (2, 1), (3, loc 0x8000)] (onE.wrBytes (scratchKey 0 0) ((initBytes 2 0 0 0 0).take 64))
theorem witness_summaries : (onE.tile (sidTile onE.sid)).sums = [] ∧ objSize 1 0 = some 4096 ∧ objSize 2 1 = some (64 + 16 * hhM 1) ∧ objSize 3 0 = some 4160 ∧
    (let s := gs [(1, loc 0), (2, loc 1)] onE; (s.g 1).toNat % 64 = 0 ∧ s.localRange s.sid (s.g 1) 4096 = some (scratchKey 0 0) ∧ (s.g 2).toNat % 64 ≠ 0 ∧
      okOf (s.objectAs 1 parseQs (s.g 1)) = none) ∧
    (okOf (dcState.objectAs 3 parseDc (dcState.g 1))).isSome ∧ (okOf (qsState.objectAs 1 parseQs (qsState.g 1))).isSome ∧
    (okOf (hhState.objectAs 2 parseHh (hhState.g 1))).isSome ∧ hhState.localRange hhState.sid (hhState.g 3) 16 = some (scratchKey 0 0x8000) ∧
    (okOf (dcState.objectPair 3 parseDc (fun x y => x.seed == y.seed) (dcState.g 1) (dcState.g 1))).isSome ∧
    (let s := summing onE; (s.tile 0).sums = sum0 9 :: [] ∧ s.prog < (sum0 9).due ∧ (s.strand (sum0 9).sid).buffer = false ∧
      (sum0 9).due ≤ ({ s with edges := 3 } : State).prog) := by
  decide +kernel

def sketch (l : List (List Nat)) : QSk :=
  { kcode := 0, coin := 1, nonrepro := false, full := false, seed := 0, uid := 0, ncomp := 0, weight := 0, lo := 0, hi := 0, nans := 0, alt := 0, levels := l }
def hh0 (l : List HhE) : Hh := { mcode := 0, total := 0, dec := 0, ents := l }
theorem witness_summary_laws : 0 < (sketch [[1, 2]]).levels.length ∧ ((sketch [[1, 2]]).compact (fun _ => 0) 0).isSome ∧
    ((hh0 [⟨4, 1, 0⟩]).ents.any (fun e => e.key == 4)) = true ∧ (∀ e ∈ (hh0 [⟨4, 1, 0⟩]).ents, e.key ≠ 5) ∧ (hh0 [⟨4, 1, 0⟩]).ents.length < hhM 0 ∧
    hhM 0 ≤ (hh0 (List.replicate 64 ⟨4, 1, 0⟩)).ents.length ∧ (∀ e ∈ (hh0 (List.replicate 64 ⟨4, 1, 0⟩)).ents, e.key ≠ 5) := by decide +kernel

/-- A group entry of pitch 5, generation 2, operation 0, child 0, valid. -/
def ent1 : Word := BitVec.ofNat 64 (5 * 2 ^ 52 + 2 * 2 ^ 48 + 2 ^ 16 + 1)
def coll0 (st : Nat) (got : List Nat) (ack : Bool) : Coll := { gen := 2, tile := 0, ptag := 5, src := scratchKey 0 0, dst := scratchKey 0 0x1000, len := 4096, got := got, acked := ack, st := st }
def grouped (l : Tbl Coll) : State := gs [(1, loc 0), (2, loc 0x1000), (3, 64), (4, 9)] { onE with truss := [(9, ent1)], colls := l }
theorem witness_truss : let s := grouped []
    let c := grouped [(9, coll0 0 [] false)]
    let k := grouped [(9, coll0 1 [0] true)]
    let r := (s.spanBreak s.sid).drain s.sid allKinds
    (r.ownsGroup (r.trussEntry (clusterNode s.myTile) 9) r.me.ptag && entChild (r.trussEntry (clusterNode s.myTile) 9) (childNo (1000 + s.myTile))) = true ∧
    (onE.ownsGroup (onE.trussEntry 0 9) onE.me.ptag) = false ∧ r.localRange s.sid (s.g 1) 64 = some (scratchKey 0 0) ∧
    r.localRange s.sid (s.g 2) 64 = some (scratchKey 0 0x1000) ∧ r.localRange s.sid (s.g 0) 64 = none ∧ 64 % trussElem (entOp ent1) = 0 ∧
    s.collOf s.sid 9 = none ∧ (r.collsOf s.sid).length < 4 ∧ c.collOf c.sid 9 = some (coll0 0 [] false) ∧ c.groupLive 9 (coll0 0 [] false) = true ∧
    c.groupLive 9 { coll0 0 [] false with gen := 3 } = false ∧ (∀ p ∈ r.colls, ¬(p.1 % 1024 = 9 ∧ p.2.tile = 0)) ∧ 1000 ∉ s.trussBad ∧
    clusterNode 0 ∉ s.trussDead ∧ (let u := summing s; u.cur.e = true ∧ u.sumsOf u.sid ≠ []) ∧ s.sumsOf s.sid = [] ∧ 0 ∉ (coll0 0 [] false).got ∧ (∀ i, i < (4096 + 4095) / 4096 → i ∈ (coll0 1 [0] true).got) ∧ (k.g 4).toNat % 1024 = 9 ∧
    k.collOf k.sid 9 = some (coll0 1 [0] true) ∧ (coll0 1 [0] true).acked = true ∧ (coll0 6 [] true).st = 6 := by decide +kernel


def pay (n src : Nat) : TPay := { len := n, src := src, ex := [], sum := [], cls := [], nk := [] }
def tchunk (tries : Nat) : TChunk := { first := 0, tries := tries, parts := [], alts := [], told := [] }
def tpkt (gen : BitVec 4) (phase : Nat) : TPkt :=
  { node := 84, from_ := 80, gid := 9, gen := gen, chunk := 0, try_ := 0, phase := phase, ptag := 5, pay := pay 4 1, sent := 0, die := 0, via := none }
theorem witness_truss_combination :
    let s : State := { onE with truss := [(84 * 1024 + 9, ent1)], packets := [(3, tpkt 2 2), (4, tpkt 3 0)],
                                chunks := [(chunkKey 9 2 0, tchunk 0)], colls := [(9, coll0 0 [] false)] }
    let b : State := { s with chunks := [(chunkKey 9 2 0, { tchunk 2 with parts := [⟨84, 1, [80], pay 4 1⟩] })], trussBad := List.range 85,
                              truss := [(9, ent1), (16 * 1024 + 9, ent1), (20 * 1024 + 9, ent1), (84 * 1024 + 9, ent1)] }
    (0 ∈ [0, 1, 4, 5, 6] ∧ 6 ∈ [0, 1, 4, 5, 6] ∧ (pay 4 1).len = (pay 4 2).len ∧ (pay 4 1).src ≠ (pay 4 2).src) ∧
    Tbl.find s.packets 5 = none ∧ Tbl.find s.packets 3 = some (tpkt 2 2) ∧ Tbl.find s.packets 4 = some (tpkt 3 0) ∧ (tpkt 2 2).node < 85 ∧
    entGen (s.trussEntry 84 9) ≠ (tpkt 3 0).gen ∧ entValid (s.trussEntry 84 9) = true ∧ entGen (s.trussEntry 84 9) = (tpkt 2 2).gen ∧
    (tpkt 2 2).try_ = (s.chunkOf 9 2 0).tries ∧ (tpkt 2 2).via = none ∧ s.cycle.toNat < (tpkt 2 2).sent.toNat + 2 ^ 20 ∧
    (tpkt 2 2).sent.toNat + 2 ^ 20 ≤ ({ s with cycle := 0x100000 } : State).cycle.toNat ∧ { tpkt 2 2 with via := some (0, 4) }.via ≠ none ∧ (tpkt 2 2).phase ≤ 2 ∧ Tbl.find s.chunks (chunkKey 9 2 1) = none ∧
    Tbl.find s.chunks (chunkKey 9 2 0) = some (tchunk 0) ∧ s.pathBad 9 (tchunk 0) = false ∧
    s.cycle.toNat < (tchunk 0).first.toNat + (s.pitch (entPtag (s.trussEntry 84 9))).ptrsto.toNat ∧
    (b.trussRoot 9 = true ∧ b.pathBad 9 { tchunk 2 with parts := [⟨84, 1, [80], pay 4 1⟩] } = true ∧ 0 ∈ b.sidsIn 9 ∧ (tchunk 0).tries < 2 ∧ 2 ≤ (tchunk 2).tries ∧
      b.pathBad 9 (tchunk 0) = true) ∧ (tchunk 0).part 84 4 = none ∧
    (tchunk 0).first.toNat + (s.pitch (entPtag (s.trussEntry 84 9))).ptrsto.toNat ≤ ({ s with cycle := 0x100000 } : State).cycle.toNat ∧
    ({ tchunk 0 with parts := [⟨84, 4, [80], pay 4 1⟩] }.part 84 4).isSome = true := by decide +kernel

/-- A transfer descriptor at local offset 0: kind `opk`, buffer of 16 bytes at 0, destination 1. -/
def xd (opk act : Nat) (s : State) : State :=
  (((s.wr (scratchKey 0 0) 8 (opk + (if opk = 2 then 0 else 1) * 2 ^ 32)).wr (scratchKey 0 0x10) 8 16).wr (scratchKey 0 0x20) 8 act)
def post0 (opk : Nat) : Post :=
  { ptag := 5, tile := 0, die := 0, tref := 0, opk := opk, mode := 0, dest := 1, entry := [], parts := [part0 0x100000 16], laddr := 0, len := 16, raddr := 0,
    akind := 0, atgt := 0, tag := 7, since := 0, mlen := none, moved := [] }
/-- Destination entry 1: a connection of pitch 5 that permits mode 0. -/
def dest1 (s : State) : State := s.wr (destBase + 64) 8 (3 + 5 * 65536)
theorem witness_transport : let s := gs [(1, loc 0), (2, loc 0x10000), (3, 1)] (xd 0 0 (mapped onA))
    let a := gs [(1, loc 0)] (xd 0 4 (mapped onA))
    let f := gs [(1, loc 0)] (xd 2 0 onA)
    let c := dest1 s
    let l := gs [(1, loc 0)] (xd 2 0 (mapped onA))
    let q : State := gs [(1, loc 0x40)] { onA with cqs := [(5, [(0, [1])])], posts := [(4, post0 2), (6, post0 1)], cycle := 0x100000 }
    let r (s : State) : State := (s.spanBreak s.sid).releaseAll s.sid 5
    let w : State := unacked onA
    let va (s : State) : Word := s.g 1 + (0 : BitVec 32).signExtend 64
    let x (s : State) : XDesc := xdesc ((r s).rdBytes (scratchKey 0 0) 64)
    (r s).localRange s.sid (s.g 2 + (0 : BitVec 32).signExtend 64) 64 = none ∧ (r s).localRange s.sid (va s) 64 = some (scratchKey 0 0) ∧
    (va s).toNat % 64 = 0 ∧ (x s).ok = true ∧ (x onA).ok = false ∧ (x a).actOk = false ∧
    (x s).actOk = true ∧ (x s).laddr.toNat + (x s).len ≤ 2 ^ 56 ∧ ((x l).opk = 2 ∧ (x s).opk ≠ 2) ∧
    okOf ((r f).globalParts 0 5 .store 0 16 2) = none ∧ okOf ((r s).globalParts 0 5 .load 0 16 2) = some [⟨0x100000, 16, .release, some 5⟩] ∧
    okOf ((r l).globalParts 0 5 .store 0 16 2) = some [⟨0x100000, 16, .release, some 5⟩] ∧ (r s).postsOf 0 5 < 1024 ∧
    (destOwn ((r s).destEntry 1) 5 && destMode ((r s).destEntry 1) 0) = false ∧ (destOwn ((r c).destEntry 1) 5 && destMode ((r c).destEntry 1) 0) = true ∧
    q.localRange q.sid (q.g 1) 32 = some (scratchKey 0 0x40) ∧ (q.g 1).toNat % 32 = 0 ∧ q.me.buffer = false ∧ q.cq (State.cqKey 0 5) = (0, [1]) :: [] ∧
    s.cq (State.cqKey 0 5) = [] ∧ s.localRange s.sid (s.g 2) 32 = none ∧ destOwn (c.destEntry ((s.g 3).toNat % 2 ^ 32)) 5 = true ∧
    destOwn (s.destEntry ((s.g 3).toNat % 2 ^ 32)) 5 = false ∧ Tbl.find q.posts 5 = none ∧ Tbl.find q.posts 4 = some (post0 2) ∧
    q.partsRefusal true (post0 2).parts = none ∧ Tbl.find q.posts 6 = some (post0 1) ∧ s.cycle.toNat < (post0 1).since.toNat + 2 ^ 20 ∧
    (post0 1).since.toNat + 2 ^ 20 ≤ q.cycle.toNat ∧ s.cur.e = false ∧ (s.spanBreak s.sid).pstPending s.sid = false ∧
    w.cur.e = false ∧ (w.spanBreak w.sid).pstPending w.sid = true ∧
    (q.cq (State.cqKey 0 5)).length < 4096 ∧ (post0 2).mode ≠ 2 := by decide +kernel

theorem witness_packets : let s := mapped onA
    let q : State := { onA with posts := [(4, post0 2), (6, post0 1)] }
    (post0 2).mlen = none ∧ 0 + [1, 2, 3, 4].length ≤ 16 ∧
    wordBound (post0 2).laddr.toNat 0 (min (min 16 16 - 0) [1, 2, 3, 4].length) (min (post0 2).len 16) = true ∧
    q.partsRefusal true (partsRange (post0 2).parts 0 4) = none ∧ 3 ∉ q.etherPorts (post0 1).entry ∧
    (let e : Post := { post0 1 with entry := 0 :: 0 :: 0 :: 0 :: 8 :: List.replicate 59 0, moved := [(0, 16)] };
      let v : State := { q with links := [(99, { Link.empty with st := 1 })] };
      3 ∈ v.etherPorts e.entry ∧ (4 : Nat) ≠ 0 ∧ 0 + 4 ≤ e.len ∧ e.placed 0 0 = some 16) ∧ (post0 1).placed 0 0 = none ∧
    { post0 2 with mlen := some 8, moved := [(0, 8)] }.placed 0 0 = some 8 ∧ s.congs = [] ∧ s.pstate 6 ≠ 1 ∧ s.pstate 5 = 1 ∧
    wordBound 0 0 4 4 = true ∧ okOf (s.globalParts 0 5 .store 0 4 (4 / 65536 + 2)) = some [⟨0x100000, 4, .release, some 5⟩] ∧ s.partsRefusal true [⟨0x100000, 4, .release, some 5⟩] = none ∧
    (let x : Cong := { win := 4096, rtt := some 9, acks := [true], was := [] }; let w : State := { s with congs := [(1, x)] };
      Tbl.find w.congs 1 = some x ∧ x.was = [] ∧ x.rtt = some 9 ∧ x.marks < 256) := by decide +kernel

def onCore : State := { State.reset with cur := ⟨4096, false⟩, strands := [(4096, { strand0 with ptag := 0, size := 0 })], cores := [(0, { Core.empty with psel := 5 })],
                                         pitches := [(0, { Pitch.empty with pctl := 0x3FD }), (5, { Pitch.empty with pctl := 0x3FD })] }
theorem witness_system_registers : onA.cur.sid < 4096 ∧ 4096 ≤ onCore.cur.sid ∧ ((0x0F : BitVec 12).toNat < 0x10) ∧ 0x17 < (0x18 : BitVec 12).toNat ∧
    onCore.pstate (onCore.selPitch 0) ≠ 0 ∧ onCore.pstate (onCore.selPitch 15) ≠ 0 ∧
    (let f : State := { onCore with pitches := [] }; f.pstate (f.selPitch 0) = 0) ∧ (0x1A1 : Nat) ∈ [0x11B, 0x11C, 0x11D, 0x1A1] := by decide +kernel

/-- A context image of a strand of a compute tile with 16 KiB, and no claim. -/
def image0 (s : State) : State := ((s.wr 0x200000 8 0x0001000131584443).wr 0x200016 1 1).wr 0x2005A8 1 0
theorem witness_contexts : let s := gs [(1, 1 * 2 ^ 14), (2, 3 * 2 ^ 12), (3, 2 * 2 ^ 12), (4, 2 ^ 12 + 5), (5, 0x200000), (6, 7), (7, 0)] (image0 onCore)
    let t : State := { s with strands := s.strands ++ [(0, strand0)], recs := [(7, { rec0 .running with save := 0x10000 })] }
    let u := { t with strands := (0, { strand0 with scstate := 2, park := .w0, pendCause := 0x40 }) :: s.strands }
    let v := { t with strands := (0, { strand0 with scstate := 4, saveReq := some 0 }) :: s.strands, cycle := 120000 }
    let f : Img := fun o => s.byte ((s.g 5).toNat + o)
    let size : Nat := f.n 0x16 1 * 16384
    let zr := noneIn ((s.mem.filter (fun c => decide (0x200000 ≤ c.1) && decide (c.1 < 0x280000))).map (fun c => c.1 - 0x200000))
    (s.g 1).toNat / 2 ^ 14 ≠ 0 ∧ (s.g 2).toNat / 2 ^ 12 % 4 = 3 ∧ (s.g 3).toNat / 2 ^ 12 = 2 ∧ s.copies = [] ∧ s.posts = [] ∧ s.recs = [] ∧ (s.recOf (trefKey (f.w 8))).fmt ≠ 1 ∧
    (s.g 4).toNat / 2 ^ 12 = 1 ∧ (s.g 4).toNat / 4096 ≠ 0 ∧ (s.g 7).toNat / 4096 = 0 ∧ (s.strand 0).scstate = 0 ∧ (v.strand 0).scstate = 4 ∧
    ((t.strand 0).scstate ≠ 0 ∧ (t.strand 0).scstate ≠ 4 ∧ t.savesOn (sidDie 0) < 4 ∧ (t.strand 0).buffer = false ∧ (t.recOf (t.strand 0).rk).save ≠ 0 ∧
      0 ≠ t.sid ∧ (t.strand 0).live = true) ∧ (s.strand 0).live = false ∧ f.n 0x16 1 ≠ 0 ∧ (parseImage f zr (!isXTile (sidTile 0)) size).isSome ∧
    (parseImage f zr (!isXTile (sidTile 3)) size).isNone ∧ (s.tile (sidTile 0)).rmode = 0 ∧ s.poison = [] ∧ ((parseImage f zr true size).map (fun m => m.mx.isSome)) = some false ∧
    ((parseImage f zr true size).map Image.pcause) = some 0 ∧ (s.tile (sidTile 0)).allocs = [] ∧ f.n 0x18 4 + size ≤ spadBytes (sidTile 0) ∧
    ((u.strand 0).scstate = 2 ∧ (u.strand 0).park = .w0) ∧ (s.strand 0).saveReq = none ∧ (v.strand 0).saveReq = some 0 ∧
    (0 : Word).toNat + 120000 ≤ v.cycle.toNat ∧ (v.strand 0).saveForced = false ∧ v.saveSettled 0 = true ∧
    (let w := v.updStrand 0 (fun t => { t with core := { t.core with w := t.core.w.setIfInBounds 1 { Walker.empty with st := .running, mid := true } } });
      w.saveSettled 0 = false) := by decide +kernel

/-- A save whose strand has settled, and whose area a page of 64 MiB maps. -/
theorem witness_save : let t : State := { mapped onA with strands := [(0, { strand0 with scstate := 4, saveReq := some 0 })], recs := [(7, { rec0 .running with save := 0x10000 })] }
    let v : State := t.wr 0x6000 8 0x005000000400000F
    (v.strand 0).saveReq = some 0 ∧ (v.strand 0).scstate = 4 ∧ v.saveSettled 0 = true ∧
    (okOf (v.imageParts (sidDie 0) (v.strand 0).rk .store (v.imageAddr 0) (imageSize (v.strand 0).size))).isSome ∧
    (okOf (t.imageParts (sidDie 0) (t.strand 0).rk .store (t.imageAddr 0) (imageSize (t.strand 0).size))).isNone := by decide +kernel

def inv0 (st : IState) : Invocation := { Invocation.empty with st := st, tiles := [0], bases := [0] }
/-- Record 7 in state `r` with invocation 0 in state `i`. -/
def disp0 (r : RState) (i : IState) (dm : Word) : State :=
  { mapped onA with recs := [(7, { rec0 r with invs := [(0, inv0 i)], donemap := dm, kind := 0, spad := 4, fmt := 2 })] }
def cand (rk lvl since : Nat) : Cand := ⟨.start, rk, 0, lvl, since⟩
theorem witness_dispatch : let s := disp0 .running .ended 0
    let g := disp0 .staging .staging 0
    let n := disp0 .draining .finished 0
    let l : State := { disp0 .running .lost 0 with recs := [(7, { rec0 .running with invs := [(0, inv0 .lost)], lostDies := [1] })] }
    let p : State := { disp0 .staging .staging 0 with disp := [(0, { Dispatcher.empty with passed := [(candKey 7 0, 0)], next := 0 })] }
    let o : State := { p with cycle := 0x800000 }
    let w : State := { s with disp := [(0, { Dispatcher.empty with next := 4 })] }
    let f : State := { disp0 .running .staging 0 with recs := [(7, { rec0 .running with invs := [(0, { inv0 .staging with faulted := [1] })] })] }
    let k := disp0 .running .ended 8
    (s.choose Dispatcher.empty [cand 7 3 9, cand 7 5 4, cand 7 5 2]).2 = some (cand 7 5 2) ∧ w.cycle.toNat < (w.dispOf 0).next.toNat ∧
    ((onA.dispOf 0).next.toNat ≤ onA.cycle.toNat ∧ onA.recs = []) ∧  (∀ x ∈ (p.dispOf 0).passed, p.cycle.toNat < x.2.toNat + 2 ^ 23) ∧
    ((o.dispOf 0).passed = [(candKey 7 0, 0)] ∧ (0 : Word).toNat + 2 ^ 23 ≤ o.cycle.toNat ∧ (o.dispOf 0).resv = [] ∧
      ((o.diesOf 7).findSome? (fun e => o.findOn 7 0 e false)).isSome) ∧
    (((s.recOf 7).inv 0).st ≠ .staging ∧ ((g.recOf 7).inv 0).st = .staging ∧ ((g.recOf 7).inv 0).copies = [] ∧ ((g.recOf 7).inv 0).faulted = []) ∧
    (((g.recOf 7).inv 0).st ≠ .ended ∧ ((s.recOf 7).inv 0).st = .ended ∧ ((s.recOf 7).inv 0).copies = [] ∧ ((s.recOf 7).inv 0).faulted = [] ∧
      (s.recOf 7).waits = [] ∧ (let h : State := { s with recs := [(7, { s.recOf 7 with waits := [.bit 0] })] }; .bit 0 ∈ (h.recOf 7).waits) ∧ k.poisonAt [0x100008] = false ∧ (s.recOf 7).donemap = 0 ∧ (k.recOf 7).donemap ≠ 0 ∧
      (okOf (k.heldKeys 7 true ((k.recOf 7).donemap.toNat + 0 / 8) 1 2)).map (·.1) = some [0x100008]) ∧
    ((s.recOf 7).st ≠ .draining ∧ (n.recOf 7).st = .draining ∧ (n.recOf 7).sending = none ∧ (n.recOf 7).lostDies = [] ∧
      (∀ x ∈ (n.recOf 7).invs, x.2.st = .finished) ∧ ∀ x ∈ (n.recOf 7).invs, x.2.etc = 0) ∧
    ((s.recOf 7).lostDies = [] ∧ (l.recOf 7).lostDies ≠ [] ∧ (l.recOf 7).st = .running ∧ ∀ x ∈ (l.recOf 7).invs, x.2.st = .lost ∨ x.2.st = .finished) ∧
    (recDie (trefKey (mkTref 0 7 3)) ≠ 1 ∧ trefInst (mkTref 0 7 4) ≠ (f.recOf 7).inst.toNat ∧ recDie (trefKey (mkTref 0 7 3)) = 0 ∧
      trefKey (mkTref 0 7 3) = 7 ∧ trefPkg (mkTref 0 7 3) = 0 ∧ trefPkg (mkTref 1 7 3) ≠ 0 ∧ (f.recOf 7).st ≠ .free ∧ trefInst (mkTref 0 7 3) = (f.recOf 7).inst.toNat ∧ (f.recOf 7).waits = [] ∧
      (f.recOf 7).invs = [(0, { inv0 .staging with faulted := [1] })] ∧ [1] ≠ []) := by decide +kernel

theorem witness_start : let u : State := { disp0 .ready .ready 0 with recs := [(7, { rec0 .ready with invs := [(0, inv0 .ready)], kind := 0, next := 1 })] }
    let b := disp0 .running .running 0
    (∃ x ∈ (b.recOf 7).invs, x.2.st = .running) ∧
    ((u.dispOf 0).next.toNat ≤ u.cycle.toNat ∧ recDie 7 = 0 ∧ u.recs = [(7, u.recOf 7)] ∧ (u.recOf 7).nextInv = none ∧ (u.recOf 7).invs = [(0, inv0 .ready)] ∧
      (inv0 .ready).st = .ready ∧ (inv0 .ready).going = false ∧ (inv0 .ready).restore = false ∧ (inv0 .ready).tiles.Nodup ∧
      (∀ tile ∈ (inv0 .ready).tiles, tile < 1024) ∧ u.canStart 7 0 = true) := by decide +kernel

/-- Queue 0 of pitch 0 with one request, which asks for opcode `opc` on pitch `p` and for an entry. -/
def hosted (opc p : Nat) (s : State) : State :=
  { s.wr (hostKey 0x1000) 8 (opc + 2 ^ 16 + p * 2 ^ 32) with
    queues := [(0, { HostQ.empty with opened := true, req := 0x1000, comp := 0x2000, count := 64, tail := 1 })], pkg := 0 }
def req (opc p : Nat) : Req := { reqOf (List.replicate 64 0) with opc := opc, flags := 1, ptag := p }
def pset3 (s : State) (p : Nat) (st : Nat) : State := s.updPitch p (fun x => { x with pctl := BitVec.ofNat 64 st })
theorem witness_host_queues : let s := hosted 0x01 5 (mapped onA)
    (s.queue 1).opened = false ∧ (s.queue 0).opened = true ∧ s.reqAt 1 = none ∧ s.reqAt 0 = some (req 0x01 5) ∧ (req 0x01 5).kind = .read ∧
    (req 0x01 5).kind ≠ .write ∧ s.nextQueue 0 = some 0 ∧ s.nextQueue 1 ≠ some 0 ∧ s.powerStalled = false ∧
    (let h : State := { s with cores := [(0, { Core.empty with held := [bytesLE 0x12 2] })] }; h.powerStalled = true) ∧ routeValid (s.route 3) = false ∧
    routeValid ((routed s).route 3) = true ∧ (routed s).relayCut 0 3 = false ∧ (s.coreRegs 0).regq = [] ∧ s.recovery = false ∧
    (let v : State := { s with cores := [(0, { Core.empty with regq := [.reg 0x110 5] })], recovery := true }; (v.coreRegs 0).regq ≠ [] ∧ v.recovery = true) ∧ (req 0x01 5).flags % 2 = 1 ∧ (0 : BitVec 512).toNat = 0 ∧
    (let r := reqOf (bytesLE 0 64); r.pkg = s.pkg.toNat ∧ r.pkg ≠ ({ s with pkg := 1 } : State).pkg.toNat) := by decide +kernel

/-- Every viaduct is down. -/
def cutAll (s : State) : State := { s with links := s.links ++ (List.range 36).map (fun k => (32 + k, { Link.empty with st := 7 })) }
/-- A package whose port one of two cores cannot reach, whichever die has the port. -/
theorem witness_relay_cut : ∃ core, core < 16 ∧ (cutAll (routed onA)).relayCut core 3 = true := by
  have hp : ∀ n ∈ [0, 4], (cutAll (routed onA)).portFor (1024 + n) 3 = some 0 := by decide +kernel
  have hl : (cutAll (routed onA)).links.any (fun p => 32 ≤ p.1 && p.1 < 68 && p.2.st == 7) = true := by decide +kernel
  have hr : ∀ d, d < 4 → ∃ n ∈ [0, 4], (cutAll (routed onA)).reach (n / 4) d = false := by decide +kernel
  obtain ⟨n, hn, h⟩ := hr (Config.portDie 0 % 4) (Nat.mod_lt _ (by decide))
  refine ⟨n, by simp at hn; omega, ?_⟩
  simp only [State.relayCut, hp n hn, Option.any_some, State.portCut, hl, h, Bool.not_false, Bool.and_self]

theorem witness_host_requests : let s := hosted 0x01 5 (mapped onA)
    let e := pset3 s 5 2
    let t : State := { s with power := 1, powerReq := 0, cap := 1000, cycle := 120000, queues := (3, { HostQ.empty with opened := true, owner := 9 }) :: s.queues }
    let z : Req := { req 0x10 0 with arg0 := 5 + 2 ^ 62, len := 64 }
    (req 0x01 5).clean = true ∧ ({ req 0x01 5 with last := 1 } : Req).clean = false ∧ (req 0x13 0).kind = .reserved ∧ (t.queue 3).owner ≠ 0 ∧ t.powerStalled = false ∧
    s.recoveryRange (req 0x02 5) = false ∧
    (req 0x0F 0).kind.own = false ∧ (t.queue 3).owner.toNat ≠ (req 0x01 5).ptag ∧ (s.queue 0).owner = 0 ∧ s.recovery = false ∧
    (req 0x01 5).pkg = s.pkg.toNat ∧ e.pstate 5 = 2 ∧ (req 0x08 5).kind = .pend ∧ (req 0x0D 5).kind.onPitch = true ∧ s.pstate 6 ≠ 1 ∧ s.pstate 5 = 1 ∧
    ((req 0x06 6).kind = .pcreate ∧ s.pstate 6 = 0 ∧ (req 0x06 6).addr.toNat % 8192 = 0 ∧ ({ req 0x06 6 with addr := 1 } : Req).addr.toNat % 8192 ≠ 0) ∧
    ((req 0x0F 0).kind = .power ∧ (req 0x0F 0).arg0.toNat < 3 ∧ 3 ≤ ({ req 0x0F 0 with arg0 := 3 } : Req).arg0.toNat) ∧ (req 0x12 0).kind = .tile ∧
    ((req 0x0C 0).kind = .pin ∧ (req 0x0C 0).arg0.toNat % 2 ^ 28 = 0 ∧ s.pins.length < 60 ∧ s.badGrans = [] ∧
      60 ≤ ({ s with pins := (List.range 60).map (fun i => (i + 1, 5)) } : State).pins.length) ∧
    (z.kind = .queueCreate ∧ isPow2 z.len = true ∧ 64 ≤ z.len ∧ (s.queue (z.arg0.toNat % 64)).opened = false ∧
      (t.queue (({ z with arg0 := 3 + 2 ^ 62 } : Req).arg0.toNat % 64)).opened = true) ∧
    (({ req 0x10 0 with arg0 := 2 ^ 63 } : Req).kind = .queueDestroy ∧ ({ req 0x10 0 with arg0 := 3 + 2 ^ 63 } : Req).arg0.toNat % 64 ≠ 0) := by decide +kernel

theorem witness_pitch_requests : let s := hosted 0x01 5 (mapped onA)
    let t : State := { s with power := 1, powerReq := 0, cap := 1000, cycle := 120000, queues := (3, { HostQ.empty with opened := true, owner := 9 }) :: s.queues }
    let q := disp0 .partialRet .lost 0
    ((req 0x0A 0).kind = .gfree ∧ Tbl.find s.groups 0 = none) ∧ ((req 0x0B 0).kind = .hset ∧ s.ingressEnd 0 = false) ∧
    ((req 0x04 5).kind = .unload ∧ Tbl.find s.templates 0 = none) ∧ (req 0x0E 5).kind = .quote ∧
    ((req 0x07 5).kind = .pset ∧ pitchRegs.contains 0 = false ∧ pitchRegs.contains 0x113 = true) ∧ (req 0x01 5).len = 0 ∧
    ((req 0x02 5).kind = .write ∧ (okOf (s.pitchKeys 0 5 .store 0 1)).map (·.1) = some [0x100000]) ∧
    ((req 0x03 5).kind = .load ∧ (okOf (s.pitchRead 0 5 0x10000 1)).isNone) ∧
    ((req 0x11 5).kind = .redispatch ∧ ({ req 0x11 5 with arg1 := 1 } : Req).kind = .abandon ∧ s.hostRec (req 0x11 5) = none ∧
      q.hostRec { req 0x11 5 with arg0 := mkTref 0 7 3 } = some 7 ∧ (q.recOf 7).st = .partialRet) ∧
    (onA.cap = 0 ∧ 2 ≤ ({ t with power := 2 } : State).power.toNat ∧ t.power.toNat < 2 ∧ t.cap ≠ 0 ∧ t.powerReq.toNat < t.power.toNat ∧
      t.capSince.toNat + 120000 ≤ t.cycle.toNat ∧ ({ t with cycle := 119999 } : State).cycle.toNat < t.capSince.toNat + 120000) := by decide +kernel

/-- A template of pitch 5 whose channel 2 is an ingress end. -/
def ingressTemplate : Template :=
  { ptag := 5, nslots := 0, protos := [(0, { Rec.empty with binds := [[2, 1, 4, 0, 0xFE, 0xFF, 0, 0, 0, 0, 0, 0, 0, 0, 0, 0]] })] }
theorem witness_ingress_end : ({ onA with templates := [(8, ingressTemplate)] } : State).ingressEnd (BitVec.ofNat 64 (8 * 2 ^ 40 + 2 * 2 ^ 22)) = true := by
  decide +kernel

/-- Port 0 of pitch 5, enabled. -/
def port0 (x : Ingress) (s : State) : State := { s with ingress := [(0, { x with ctl := 5 * 65536 + 1 })] }
def hent (st : Nat) : Word := BitVec.ofNat 64 (5 * 2 ^ 52 + 8 * 2 ^ 40 + st)
theorem witness_ingress_ports : let s : State := { port0 .empty (mapped onA) with handlers := [(0, hent 1, 1), (1, hent 2, 1), (3, hent 1, 2)] }
    let c : State := { port0 { Ingress.empty with streams := [some (7, 2)] } (mapped onA) with
      chans := [(ingressKey 7 0 0 2, { chan0 [] with port := some 0 })] }
    let f : State := { c with chans := [(ingressKey 7 0 0 2, chan0 [.data 1 false, .data 2 false])] }
    let h (st : PortState) (n : Nat) : State := { port0 { Ingress.empty with st := st } onA with cycle := BitVec.ofNat 64 n }
    (onA.ingressOf 0).enabled = false ∧ (s.ingressOf 0).enabled = true ∧ (s.ingressOf 0).st = .idle ∧ (s.ingressOf 0).waiting = none ∧
    s.portStalled 0 = false ∧ (h .held 0).portStalled 0 = false ∧ c.portStalled 0 = false ∧ (pset3 s 5 2).pstate ((pset3 s 5 2).ingressOf 0).owner = 2 ∧ s.pstate (s.ingressOf 0).owner ≠ 2 ∧ hdrNum 0 < 4096 ∧ hdrNum 1 < 4096 ∧
    hentState (s.handler (hdrNum 1)).1 = 2 ∧ hentState (s.handler (hdrNum 2)).1 = 0 ∧
    (hentState (s.handler (hdrNum 3)).1 = 1 ∧ (s.handler (hdrNum 3)).2.getLsbD 0 = false) ∧
    (hentState (s.handler (hdrNum 0)).1 = 1 ∧ hentPtag (s.handler (hdrNum 0)).1 = (s.ingressOf 0).owner ∧ (s.handler (hdrNum 0)).2.getLsbD 0 = true ∧
      s.templateFor (hentPtag (s.handler (hdrNum 0)).1) (hentTid (s.handler (hdrNum 0)).1) = none) ∧
    (((h .held 0).ingressOf 0).st ≠ .idle ∧ ((h .held 0).ingressOf 0).waiting = none) ∧ (s.ingressOf 0).streams = [] ∧
    ((port0 { Ingress.empty with waiting := some 0 } onA).ingressOf 0).waiting ≠ none ∧
    ((port0 { Ingress.empty with streams := [none] } onA).ingressOf 0).streams = none :: [] ∧ (c.ingressOf 0).streams = some (7, 2) :: [] ∧
    (Tbl.find c.chans (ingressKey 7 0 0 2)).map (fun x => x.room 1) = some true ∧ (Tbl.find f.chans (ingressKey 7 0 0 2)).map (fun x => x.room 1) = some false ∧
    ((h .held 4095).cycle.toNat < ((h .held 4095).ingressOf 0).since.toNat + 4096 ∧ ((h .held 4096).ingressOf 0).since.toNat + 4096 ≤ (h .held 4096).cycle.toNat) ∧
    (((h .absent 0x100000).ingressOf 0).st = .absent ∧ ((h .full 0x100000).ingressOf 0).st = .full ∧ (h .full 0x100000).cycle.toNat = 2 ^ 20) := by decide +kernel

theorem witness_recovery_range : ({ hosted 0x02 5 (mapped onA) with recovery := true } : State).recoveryRange
    { req 0x02 5 with addr := Config.journalBase, len := 64 } = true := by
  simp [State.recoveryRange, Config.journalWindow]

/-- A header of handler 0, whose template is there: its instance is made, and its slots, of which there are none, are zero. -/
def portMade : State := { port0 .empty (mapped onA) with handlers := [(0, hent 1, 1)], templates := [(8, ingressTemplate)] }
theorem witness_ingress_accept : let s := portMade
    let e := s.handler (hdrNum 0)
    s.portStalled 0 = false ∧ s.templateFor (hentPtag e.1) (hentTid e.1) = some ingressTemplate ∧
    (s.instantiate (hentPtag e.1) (hentTid e.1) (s.ingressOf 0).slot).2.1 = 0 ∧
    (s.zeroSlots (portDie 0) (hentPtag e.1) ingressTemplate.nslots (s.ingressOf 0).slot).isSome = true ∧ hentState e.1 = 1 ∧
    hentPtag e.1 = (s.ingressOf 0).owner ∧ e.2.getLsbD 0 = true := by decide +kernel

def boot0 : BootResult :=
  { romOk := true, imageOk := true, pkg := 3, badTiles := [7], badLinks := [], light := [0], badGrans := [], badChans := [], failed := [], measure := [1],
    q0req := 0x1000, q0comp := 0x2000, q0count := 64 }
theorem witness_module_reset : boot0.romOk = true ∧ boot0.imageOk = true ∧ 1 ∉ boot0.failed ∧ 3 ∉ boot0.failed ∧ 11 ∉ boot0.failed ∧ (∀ k, State.reset.altAt k = false) ∧
    ({ State.reset with journal := [⟨0, 2, 2, 0, 0⟩] } : State).altAt 2 = true ∧
    ({ boot0 with romOk := false } : BootResult).romOk = false ∧ 3 ∈ ({ boot0 with failed := [3] } : BootResult).failed :=
  ⟨rfl, rfl, by decide, by decide, by decide, fun k => by simp [State.altAt, State.journalAt, State.reset, phaseOf, left], by decide, rfl, by decide⟩

/-- Flit 4 of a port, which carries a store of pitch 5. -/
def flit0 : Flit := ⟨4, 0, 0, 0, false, ⟨1, 3, 5, []⟩⟩
theorem witness_containment : let s := mapped onA
    let o : State := { s with lineKey := [(9, 5)] }
    let t := onA.updTile 3 (fun t => { t with ceWin := [0, 0] })
    let z : State := { t with strands := [], cesTh := 2 }
    let w : EndWhy := ⟨0x41, 0xFFFF, 0, 0⟩
    w.cause = 0x41 ∧ (s.pstate 5 = 1 ∧ 5 ≠ 0) ∧ s.pstate 6 ≠ 1 ∧ Tbl.find s.lineKey 9 = none ∧ Tbl.find o.lineKey 9 = some 5 ∧
    (s.pstate (5 : BitVec 12).toNat ≠ 3 ∧ (5 : BitVec 12) ≠ 0) ∧ s.msgs[0]? = none ∧ (s.strand 1).live = false ∧ (s.strand 0).live = true ∧
    (s.rollbackWave 0 = none ∧ (s.strand 0).ptag ≠ 0 ∧ s.pstate (s.strand 0).ptag.toNat = 1) ∧
    (let v : State := { s with links := [(0, { Link.empty with unacked := [flit0] })] }; (v.link 0).unacked = [flit0] ∧ flit0.msg.ptag ≠ 0 ∧
      v.pstate flit0.msg.ptag.toNat ≠ 3 ∧ ∀ f ∈ (v.link 0).unacked, f.seqNo ≠ 5 ∨ f.back ≠ false) ∧ (s.tile 3).ceWin.length < s.cesTh.toNat ∧
    (s.tile 3).insvc = true ∧ (z.cesTh.toNat ≤ (z.tile 3).ceWin.length ∧ (z.tile 3).ceWin = [0, 0] ∧ z.cycle = 0 ∧ (0 : Word).toNat < (0 : Word).toNat + 2 ^ 30 ∧
      (z.tile 3).going = false ∧ z.strands = []) := by decide +kernel
/-- A strand that waits at the receive end of channel 1 for its next token. -/
def recvHere : State := { onTile true (withCore (fun c => { c with c := c.c.set 1 (end0 2 false), e := { c.e with block := [insOf (.crecv 3 1)] } })) with
  chans := [(9, chan0 [.data 7 false])] }
/-- The task of strand 0, running. -/
def task0 : Tbl Rec := [(7, { rec0 .running with kind := 0, invs := [(0, inv0 .running)] })]
theorem witness_debug : let s : State := { onTile false (fun t => { t with scstate := 2, park := .debug }) with dbgTref := mkTref 0 7 3, pkg := 0, recs := task0 }
    let b := onTile false (fun t => { t with scstate := 2, park := .brk })
    let r : State := { recvHere with dbgTref := mkTref 0 7 3, pkg := 0, recs := task0, bps := recvHere.bps.set 2 (BitVec.ofNat 64 (2 ^ 32 + 1)) }
    let run : State := { onA with dbgTref := mkTref 0 7 3, pkg := 0, recs := task0 }
    (run.dbgRegion = [0] ∧ run.recvEnds 0 = []) ∧ (∀ x ∈ run.dbgRegion, (run.strand x).stopped = false) ∧
    (let h : State := { s with cores := [(0, { Core.empty with held := [bytesLE 0x14 2] })] }; (∃ c ∈ h.cores, ∃ e ∈ c.2.held, leAt e 0 2 = 0x14)) ∧
    (∀ c ∈ s.cores, ∀ e ∈ c.2.held, leAt e 0 2 ≠ 0x14) ∧
    (s.dbgRegion = [0] ∧ (s.strand 0).stopped = true ∧ (s.strand 0).scstate = 2 ∧ (s.strand 0).park = .debug ∧ (s.strand 0).core.a.exited = false) ∧ (b.strand 0).park = .brk ∧
    (1 : BitVec 2).getLsbD 0 = true ∧ (3 : BitVec 2).getLsbD 1 = true ∧ (onA.strand 0).scstate ≠ 2 ∧ 2 ≤ (s.strand (0 : Word).toNat).scstate.toNat ∧
    onA.core.e.block[5]? = none ∧ (r.strand 0).core.e.block[(r.strand 0).core.e.idx]? = some (insOf (.crecv 3 1)) ∧
    decode? (insOf (.crecv 3 1)).raw = some (.crecv 3 1) ∧ (r.chanOf 0 1).view = .data 7 false :: [] ∧ r.bpHit 0 1 = some (2, 1) ∧
    (r.endOf 0 1).dir = 2 ∧ (r.strand 0).scstate = 1 := by decide +kernel

def lk (st : BitVec 3) (f : Link → Link) : State := { onA with links := [(0, f { Link.empty with st := st })], lnksel := 0 }
theorem witness_links : let a := lk 1 (fun l => { l with unacked := [flit0] })
    let late : State := { a with cycle := 16384 }
    let sw (w : Swap) := lk 1 (fun l => { l with swaps := [w] })
    let pv (n : Word) : State := { lk 1 (fun l => { l with sec := true, prev := some (3, 100) }) with cycle := n }
    let v : State := { onA with links := [(32, { Link.empty with st := 1 }), (33, { Link.empty with st := 5 }), (96, { Link.empty with st := 1 })] }
    let go : State := { (lk 6 (fun l => { l with pkg := 2, epoch := 1 })).wr (routeBase + 8) 4 (2 ^ 31 + 2 * 4096) with links := [(0, { Link.empty with st := 6, pkg := 2, epoch := 1 })] }
    (∀ st ∈ [1, 2, 3, 4, 5, 6, 7], ((lk st id).link 0).st = st) ∧ ((lk 0 (fun l => { l with enable := true })).link 0).enable = true ∧
    ((lk 0 id).link 0).enable = false ∧ (∃ f ∈ (late.link 0).unacked, f.first.toNat + 16384 ≤ late.cycle.toNat) ∧
    (∀ f ∈ (a.link 0).unacked, a.cycle.toNat < f.first.toNat + 16384) ∧ (∃ f ∈ (a.link 0).unacked, f.seqNo = 4) ∧
    ((a.link 0).sec = false ∧ (a.link 0).early = [] ∧ (a.link 0).rxNext = 0 ∧ 0 < ((lk 1 (fun l => { l with rxNext := 1 })).link 0).rxNext) ∧
    (a.weak 0 100 = false ∧ a.weak 1000 0 = true) ∧ (isLink 12 = false ∧ isLink 0 = true) ∧ (a.link 0).swaps = [] ∧
    (((sw ⟨3, 24, 0, false, 0, true⟩).link 0).swaps = ⟨3, 24, 0, false, 0, true⟩ :: [] ∧ (0 ≤ ((sw ⟨3, 24, 0, false, 0, true⟩).link 0).txNext)) ∧
    (a.link 0).prev = none ∧ ((pv 99).link 0).prev = some (3, 100) ∧ (pv 99).cycle.toNat < (100 : Word).toNat ∧ (100 : Word).toNat ≤ (pv 100).cycle.toNat ∧
    ((v.link 96).st = 1 ∧ (v.link 97).st ≠ 1 ∧ isViaduct 32 = true ∧ (v.link 32).st = 1 ∧ (v.link 33).st = 5 ∧ isViaduct 31 = false) ∧
    (a.selLink = 0 ∧ (lk 7 (fun l => { l with light := true })).lit 0 = true ∧ isLink a.selLink = true) ∧
    ((lk 1 (fun l => { l with sec := true })).link 0).rotAt = none ∧
    ((go.link 0).st = 6 ∧ go.selLink < 12 ∧ go.rtepoch ≠ (go.link 0).epoch ∧ go.peerOk 0 = true ∧ go.podOut = []) ∧
    ((lk 6 id).rtepoch = ((lk 6 id).link 0).epoch) ∧ a.chunks = [] ∧ late.chunks = [] ∧ a.podOut = [] ∧ a.heldPkts = [] ∧
    (lk 1 (fun l => { l with credit := true })).link 0 = { (lk 1 id).link 0 with credit := true } := by decide +kernel

theorem witness_flits : let a := lk 1 (fun l => { l with unacked := [flit0] })
    let at' (n : Word) : State := { a with cycle := n }
    let k := lk 1 (fun l => { l with sec := true, rxKey := 3 })
    let v : State := { onA with links := [(32, { Link.empty with st := 1, unacked := [flit0] })] }
    let sw (w : Swap) := lk 1 (fun l => { l with swaps := [w] })
    ((a.link 0).unacked = [flit0] ∧ flit0.seqNo = 4 ∧ flit0.back = false ∧ (at' 2047).cycle.toNat < flit0.last.toNat + 2048 ∧
      flit0.last.toNat + 2048 ≤ (at' 2048).cycle.toNat) ∧ (a.msgs = [] ∧ a.packets = []) ∧
    ((k.link 0).sec = true ∧ (k.link 0).prev = none ∧ 5 ≠ (k.link 0).rxKey ∧ 5 ≠ (k.link 0).rxKey + 1) ∧
    (a.cycle = 0 ∧ (at' 0x1000000).cycle ≠ 0 ∧ (at' 0x1000000).cycle.toNat % 2 ^ 24 = 0) ∧ (a.link 0).swaps = [] ∧
    (let f := lk 1 (fun l => { l with fibres := l.fibres.set 9 { Fibre.empty with wlmap := 8 } }); (f.fibre 0 9).wlmap.getLsbD 3 = true ∧ (f.link 0).swaps = []) ∧
    ((sw ⟨9, 3, 70, true, 0, false⟩).link 0).swaps = [⟨9, 3, 70, true, 0, false⟩] ∧ (isViaduct 32 = true ∧ (v.link 32).st = 1 ∧ (v.link 32).unacked = [flit0] ∧
      32 ∈ v.upLinks ((32 - 32) / 6) ∧ (∀ f ∈ (v.link 32).unacked, v.cycle.toNat < f.first.toNat + 4096) ∧
      (∃ f ∈ (v.link 32).unacked, f.first.toNat + 4096 ≤ ({ v with cycle := 4096 } : State).cycle.toNat) ∧ v.cycle.toNat < flit0.last.toNat + 256 ∧
      flit0.last.toNat + 256 ≤ ({ v with cycle := 256 } : State).cycle.toNat) ∧ a.linkStalled 0 = false ∧ (∀ p, p < 12 → (a.link p).st ≠ 6) := by decide +kernel

theorem witness_translation : let s := mapped onA
    let n : State := { onA with pitches := [(5, { Pitch.empty with pctl := 0x3FD, proot := 0x2000 })] }
    let m (w : Nat) : State := s.wr 0x8000 8 w
    let word (s : State) (t l : Nat) : Word := BitVec.ofNat 64 (s.rd (t + 8 * (0 / 2 ^ (46 - 10 * (l - 1)) % 1024)) 8)
    let addr (w : Word) : Nat := w.toNat / 2 ^ 13 % 2 ^ 39 * 8192
    let node (w : Word) : Prop := w.toNat % 16 = 1 ∧ w.toNat / 256 % 32 = 0 ∧ w.toNat / 16 % 4 ≠ 3
    let leaf (w : Word) : Prop := w.toNat % 2 = 1 ∧ w.toNat / 2 % 8 ≠ 0 ∧ w.toNat / 256 % 32 = 0 ∧ w.toNat / 16 % 4 ≠ 3
    (ownPage 5 0 = none ∧ ownPage 0 0 = none ∧ ownPage 0 destBase = some (BitVec.ofNat 64 (destBase + 7), destBase, 65536)) ∧ (onA.pitch 5).proot.toNat = 0 ∧ (s.pitch 5).proot.toNat ≠ 0 ∧ (word n 0x2000 1).getLsbD 0 = false ∧ node (word s 0x2000 1) ∧ node (word s 0x4000 2) ∧
    node (word s 0x6000 3) ∧ (word (m 0) 0x8000 4).getLsbD 0 = false ∧ (leaf (word s 0x8000 4) ∧ addr (word s 0x8000 4) % 65536 = 0) ∧
    (leaf (word (m 0x200F) 0x8000 4) ∧ addr (word (m 0x200F) 0x8000 4) % 65536 ≠ 0) ∧ s.tlb = [] ∧
    ((okOf (s.translate 0 5 8 .store)).map (·.1)) = some 0x100008 ∧
    (s.keyUsable 5 5 = true ∧ s.keyUsable 5 6 = false ∧ s.keyUsable 0 6 = true) := by decide +kernel

/-- A line of one last nop at physical 0x100000, of sequencer A. -/
def lineAt (d : Nat) : State :=
  (mapped { onTile false (withCore (fun c => { c with a := { c.a with pc := 0, fetched := false } })) with cur := ⟨0, false⟩ }).wr 0x100000 2 d
def line0 : List Byte := bytesLE (2 ^ 14 + 2 ^ 8 + 2 ^ 7) 64
def fetchOf : Loaded → Option (List Byte × Agent)
  | .ok b u => some (b, u.cur)
  | _ => none
def faults : Loaded → Bool
  | .fault _ _ => true
  | _ => false
theorem witness_block_entry : let s := lineAt (2 ^ 14 + 2 ^ 8 + 2 ^ 7)
    let o := onTile false (withCore (fun c => { c with a := { c.a with pc := loc 0, fetched := false } }))
    let r (op : Nat) : Raw := ⟨BitVec.ofNat 16 (op * 256), 0⟩
    onA.seq.fetched = true ∧ (s.updSeq (fun q => { q with back := true })).seq.back = true ∧ (o.seq.fetched = false ∧ spaceOf o.seq.pc ≠ 0) ∧ (s.seq.fetched = false ∧ spaceOf s.seq.pc = 0) ∧
    fetchOf (s.fetchLine s.seq.pc) = some (line0, s.cur) ∧ faults (onA.fetchLine 0) = true ∧ lineCheck line0 false true false = none ∧
    okOf (lineIns false false 0 0 0 [] false (lineRaws line0 0 0 (lineNh line0))) = some ([⟨⟨0, 0⟩, 0, 0⟩], false) ∧ lineLast line0 = true ∧
    (okOf (lineIns false false 0 0 0 [] false [r 0xFF])).isNone ∧ 2 ≤ lineKind (bytesLE (2 ^ 15) 64) ∧
    (lineKind (bytesLE 1 64) < 2 ∧ lineOk (bytesLE 1 64) = false) ∧
    (let b := bytesLE (2 ^ 14 + 2 ^ 13 + 2 ^ 8 + 2 ^ 7) 64; lineKind b = 1 ∧ lineOk b = true ∧ lineSeq b = !false) ∧
    opcAssigned (r 0x0E).opc = false ∧ (opcAssigned (r 0xFE).opc = true ∧ opcCore (r 0xFE).opc = true) ∧
    (opcAssigned (r 0xA0).opc = true ∧ opcCore (r 0xA0).opc = false ∧ seqColumn false false (r 0xA0).opc = false ∧ seqColumn false true (r 0xA0).opc = true) ∧
    (opcAssigned (r 0xD1).opc = true ∧ opcCore (r 0xD1).opc = false ∧ seqColumn false true (r 0xD1).opc = true ∧ unitColumn false 3 (r 0xD1) = false) ∧
    (opcAssigned (r 0x33).opc = true ∧ unitColumn false 0 (r 0x33) = true ∧ seqColumn false false (r 0x33).opc = true ∧ decode? ⟨0x33E0, 0x3E0⟩ = none) := by
  decide +kernel

def after : Loaded → State
  | .ok _ u => u
  | _ => onA
/-- A block of two lines. -/
theorem witness_block_lines : let s := (lineAt (2 ^ 14 + 2 ^ 8)).wr 0x100040 2 (2 ^ 8 + 2 ^ 7)
    let u := after (s.fetchLine 0)
    let b0 := bytesLE (2 ^ 14 + 2 ^ 8) 64
    let b1 := bytesLE (2 ^ 8 + 2 ^ 7) 64
    s.seq.pc = 0 ∧ s.seq.fetched = false ∧ fetchOf (s.fetchLine 0) = some (b0, s.cur) ∧ fetchOf (u.fetchLine 64) = some (b1, s.cur) ∧
    lineCheck b0 s.cur.e true false = none ∧ lineCheck b1 s.cur.e false false = none ∧ lineLast b0 = false ∧ lineLast b1 = true ∧
    okOf (lineIns false s.cur.e 0 0 0 [] false (lineRaws b0 0 0 (lineNh b0))) = some ([⟨⟨0, 0⟩, 0, 0⟩], false) ∧
    okOf (lineIns false s.cur.e 0 64 0 [⟨⟨0, 0⟩, 0, 0⟩] false (lineRaws b1 0 0 (lineNh b1))) = some ([⟨⟨0, 0⟩, 0, 0⟩, ⟨⟨0, 0⟩, 64, 0⟩], false) := by
  decide +kernel

theorem witness_step_runs : let a : Agent := ⟨0, false⟩
    let s : State := { onTile false (withCore (fun c => { c with a := { c.a with block := [insOf (.add 5 5 6)] } })) with agenda := [.issue a false] }
    let f : State := { lineAt (2 ^ 14 + 2 ^ 8 + 2 ^ 7) with agenda := [.issue a false] }
    let p : State := { onTile false (fun t => { t with scstate := 2 }) with agenda := [.issue a false] }
    (s.nextMove (.issue a false) []).mayIssue a = true ∧ ((s.nextMove (.issue a false) []).begin a).stopDue a = false ∧ ((s.nextMove (.issue a false) []).begin a).seq.here = some (insOf (.add 5 5 6)) ∧
    okOf (decode (insOf (.add 5 5 6)).raw) = some (.add 5 5 6) ∧ ((f.nextMove (.issue a false) []).mayIssue a = true ∧ ((f.nextMove (.issue a false) []).begin a).stopDue a = false ∧
      ((f.nextMove (.issue a false) []).begin a).seq.instr = none) ∧
    (p.nextMove (.issue a false) []).mayIssue a = false ∧ ((p.strand 0).scstate ≠ 1 ∧ (p.strand 0).stepA = false ∧ (p.strand 0).stepE = false) ∧
    (onA.core.w.all (fun w => w.st != .faulted) = true ∧ onA.me.stepA = false ∧ onA.me.stepE = false) ∧
    (a.e = false ∧ onE.cur.e = true ∧ (s.strand a.sid).loads = []) ∧ (isEvent (.lossOfLight 0) = true ∧ isEvent (.add 5 5 6) = false) ∧ onA.agenda = [] ∧ ((∀ c, (onA.coreRegs c).regq = []) ∧ onA.ingress = [] ∧ ∀ c ∈ onA.cores, c.2.relayed = none) ∧
    (decodeTableWord 32 0x104500C5 = some (.add 5 5 6) ∧ placeOf (rawOfTableWord 32 0x104500C5) = a ∧ isCore a = false) :=
  ⟨by decide +kernel, by decide +kernel, by decide +kernel, by decide +kernel, by decide +kernel, by decide +kernel, by decide +kernel, by decide +kernel,
    by decide +kernel, by decide +kernel, rfl, ⟨fun _ => rfl, rfl, fun _ h => nomatch h⟩, by decide +kernel⟩

theorem witness_encoding : (Instr.cmpi 5 6 6 100).wf = true ∧ encode (.cmpi 5 6 6 100) = some ⟨0x3385, 0xC8C6⟩ ∧
    okOf (decode ⟨0x3385, 0xC8C6⟩) = some (.cmpi 5 6 6 100) := by decide +kernel

/-- No strand of a state whose listed strands hold nothing back holds a store back. -/
theorem pend_of_strands {s : State} (h : ∀ x ∈ s.strands, ∀ p ∈ x.2.pend, p.held = false) (k : Nat) : ∀ p ∈ (s.strand k).pend, p.held = false := by
  unfold State.strand Tbl.get
  cases e : Tbl.find s.strands k with
  | none => simp [Strand.empty]
  | some x => exact h (k, x) (Tbl.mem_of_find e)

theorem witness_nothing_held (k : Nat) : ∀ p ∈ ((gs [(1, 9)] onA).strand k).pend, p.held = false :=
  pend_of_strands (by decide +kernel) k

theorem witness_frames_queue : let s := gs [(1, 9)] onA
    s.cur.sid < 4096 ∧ (encode (.qpush 1 1)).isSome = true ∧ (Instr.qpush 1 1) ≠ .tret ∧ (∀ r : BitVec 5, s.seq.resOk r = true) ∧
    nextIs (exec (.qpush 1 1) s) (fun t => (t.strand s.sid).scstate == 1 && (t.core.queue 1).length == 1) ∧ (Instr.qpush 1 1).reachesMem = false ∧
    s.me.Plain ∧ s.me.scstate = 1 ∧ (s.pitch s.me.ptag.toNat).pviol = 0 ∧ (s.pitch s.me.ptag.toNat).pevlog = 0 := by
  unfold Strand.Plain; decide +kernel

theorem witness_memory_form : Memory.wf (onA.wr 8 4 9).mem = true ∧ nextIs (step (State.reset.withFetchWord 32 0x104500C5)) (fun t => Memory.wf t.mem) := by
  decide +kernel

end Sys2Proof.Tests
end

section
/-! Dispatch (01: R51; 19: R396): the `DONEMAP` write of a finished write-back, at a byte of memory with read-only bits. -/

namespace Sys2Proof.Machine

/-- A fan record of pitch 0 whose `DONEMAP` is the route table, which pitch 0 maps at its own address (19: R396): bit `i` of the map is then bit
`i` of entry 0, and bits [30:22] of an entry are read-only. Invocation 24, whose bit is one of them, has ended and has nothing to write back. -/
def recOverRoutes : Rec :=
  { Rec.empty with
    kind := 1, fan := 32, st := .running, next := 32, donemap := BitVec.ofNat 64 routeBase,
    invs := [(24, { Invocation.empty with st := .ended })] }

/-- The module after reset, with that record alone. -/
def stateOverRoutes : State := { State.reset with recs := [(0, recOverRoutes)] }

/-- The dispatcher reaches the byte of the map that holds bit 24, with memory empty and no line poisoned. -/
theorem heldKeys_stateOverRoutes : ∃ u, stateOverRoutes.heldKeys 0 true (recOverRoutes.donemap.toNat + 24 / 8) 1 2 = .ok ([routeBase + 3], u) ∧
    u.mem = [] ∧ u.poisonAt [routeBase + 3] = false :=
  ⟨_, rfl, rfl, rfl⟩

/-- The bit is not set: the write to a read-only bit of a route entry is ignored. -/
theorem writebackDone_stateOverRoutes :
    ∃ t, exec (.writebackDone 0 24) stateOverRoutes = .next t ∧ t.byte (routeBase + 3) = 0 :=
  ⟨_, rfl, rfl⟩

/-- Refutes O46, in its clause for an ended invocation whose record has a `DONEMAP`: the clause has the map's byte become the old one with the
invocation's bit set, for every byte that the held translation gives. Where the map lies in the route table, bits [30:22] of an entry stay 0 (19: R396;
00: R9): invocation 24 retires and its bit reads 0. -/
theorem not_dispatch : ¬ Obligations.Dispatch := by
  intro h
  obtain ⟨-, -, -, -, -, -, -, -, -, ended_retires, -⟩ :=
    h stateOverRoutes .empty .empty [] ⟨.place, 0, 0, 0, 0⟩ 0 0 24 0
  obtain ⟨-, sets_bit⟩ := ended_retires rfl rfl rfl List.not_mem_nil
  obtain ⟨u, hkeys, hmem, hclean⟩ := heldKeys_stateOverRoutes
  obtain ⟨t, ht, hbit, -⟩ := sets_bit (routeBase + 3) u (by decide) hkeys hclean
  obtain ⟨t', ht', hzero⟩ := writebackDone_stateOverRoutes
  obtain rfl : t' = t := Host.Outcome.next.inj (ht'.symm.trans ht)
  have hold : u.byte (routeBase + 3) = 0 := by simp [State.byte, hmem, Memory.get]
  rw [hzero, hold] at hbit
  exact absurd hbit (by decide)

end Sys2Proof.Machine
end

section
/-! Pending stores (03: R95-R102; 20: R409): what a store that leaves, and a release, change. -/

namespace Sys2Proof.Machine

/-! ## What stands on the side of memory -/

/-- Strands, and the agent that executes, are as they were. -/
structure State.MemorySide (s t : State) : Prop where
  strands : t.strands = s.strands
  cur : t.cur = s.cur

/-- Memory's bytes are as they were too: what a read does. -/
structure State.ReadSide (s t : State) : Prop extends s.MemorySide t where
  mem : t.mem = s.mem

theorem State.MemorySide.refl (s : State) : s.MemorySide s := ⟨rfl, rfl⟩
theorem State.MemorySide.trans {s t u : State} (h : s.MemorySide t) (h' : t.MemorySide u) : s.MemorySide u :=
  ⟨h'.strands.trans h.strands, h'.cur.trans h.cur⟩
theorem State.MemorySide.strand {s t : State} (h : s.MemorySide t) (j : Nat) : t.strand j = s.strand j := by
  simp [State.strand, h.strands]
theorem State.MemorySide.seq {s t : State} (h : s.MemorySide t) : t.seq = s.seq := by
  simp [State.seq, State.core, State.me, h.strand, h.cur]

theorem State.ReadSide.refl (s : State) : s.ReadSide s := ⟨.refl s, rfl⟩
theorem State.ReadSide.trans {s t u : State} (h : s.ReadSide t) (h' : t.ReadSide u) : s.ReadSide u :=
  ⟨h.toMemorySide.trans h'.toMemorySide, h'.mem.trans h.mem⟩

theorem State.settle_readSide (s : State) (hit : OldVal → Bool) : s.ReadSide (s.settle hit) := ⟨⟨rfl, rfl⟩, rfl⟩
theorem State.settleKeys_readSide (s : State) (ks : List Nat) : s.ReadSide (s.settleKeys ks) := s.settle_readSide _
theorem State.updTile_readSide (s : State) (k : Nat) (f : Tile → Tile) : s.ReadSide (s.updTile k f) := ⟨⟨rfl, rfl⟩, rfl⟩
theorem State.putCells_memorySide (s : State) (c : List (Nat × Byte)) : s.MemorySide (s.putCells c) := ⟨rfl, rfl⟩

/-! ## Bytes written -/

theorem Memory.get_put_ne {a k : Nat} (b : Byte) (h : k ≠ a) : ∀ m : Memory, Memory.get (Memory.put m a b) k = Memory.get m k
  | [] => by
    by_cases hb : b = 0#8 <;> simp [Memory.put, Memory.get, hb, Ne.symm h]
  | (j, c) :: r => by
    by_cases hj : j = a
    · by_cases hb : b = 0#8 <;> simp [Memory.put, Memory.get, hj, hb, Ne.symm h]
    · by_cases hl : a < j
      · by_cases hb : b = 0#8 <;> simp [Memory.put, Memory.get, hj, hl, hb, Ne.symm h]
      · simp [Memory.put, Memory.get, hj, hl, Memory.get_put_ne b h r]

theorem Memory.get_putAll_of_forall_ne {k : Nat} : ∀ (c : List (Nat × Byte)) (m : Memory), (∀ x ∈ c, x.1 ≠ k) →
    Memory.get (Memory.putAll m c) k = Memory.get m k
  | [], _, _ => rfl
  | (a, b) :: r, m, h => by
    have ha : k ≠ a := (h (a, b) List.mem_cons_self).symm
    rw [Memory.putAll, Memory.get_putAll_of_forall_ne r _ (fun x hx => h x (List.mem_cons_of_mem _ hx)), Memory.get_put_ne _ ha]

/-! ## A unit and a store that leave -/

/-- Whether or not the unit is at its home at once, memory holds it (03: R112). -/
@[simp] theorem State.putUnit_mem (s : State) (who : Who) (loose : Bool) (c : List (Nat × Byte)) :
    (s.putUnit who loose c).mem = Memory.putAll s.mem c := by
  cases c with
  | nil => rfl
  | cons x c =>
    simp only [State.putUnit]
    split <;> rfl

theorem State.putUnit_memorySide (s : State) (who : Who) (loose : Bool) (c : List (Nat × Byte)) :
    s.MemorySide (s.putUnit who loose c) := by
  cases c with
  | nil => exact .refl s
  | cons x c =>
    simp only [State.putUnit]
    split
    · exact ⟨rfl, rfl⟩
    · exact (s.settleKeys_readSide _).toMemorySide.trans (State.putCells_memorySide _ _)

@[simp] theorem State.performStore_mem (s : State) (sid : Nat) (p : PStore) (rest : List PStore) :
    (s.performStore sid p rest).mem = Memory.putAll s.mem p.cells := by
  simp only [State.performStore, State.performCells, State.updTile_mem]
  split
  · rfl
  · exact s.putUnit_mem _ _ _

theorem State.performStore_memorySide (s : State) (sid : Nat) (p : PStore) (rest : List PStore) :
    s.MemorySide (s.performStore sid p rest) := by
  have hcells : s.MemorySide (s.performCells sid p.ord p.cells) := by
    unfold State.performCells
    refine .trans ?_ (State.updTile_readSide _ _ _).toMemorySide
    split
    · exact (s.settleKeys_readSide _).toMemorySide.trans (State.putCells_memorySide _ _)
    · exact s.putUnit_memorySide _ _ _
  exact hcells.trans ⟨rfl, rfl⟩

/-! ## One pending store -/

theorem PStore.overlaps_of_mem {q p : PStore} {x y : Nat × Byte} (hx : x ∈ q.cells) (hy : y ∈ p.cells) (h : x.1 = y.1) :
    q.overlaps p = true :=
  List.any_eq_true.mpr ⟨x, hx, List.any_eq_true.mpr ⟨y, hy, by simpa using h⟩⟩

theorem mayPerform_of_held {l : List PStore} {k : Nat} {p : PStore} (hk : l[k]? = some p) (h : p.held = true) :
    mayPerform l k = false := by simp [mayPerform, hk, h]

/-- An earlier store `q` to a byte of `p`, or with `p` STRICT both, keeps `p` (03: R95, R99). -/
theorem mayPerform_of_earlier {l : List PStore} {j k : Nat} {q p : PStore} (hk : l[k]? = some p) (hjk : j < k) (hj : l[j]? = some q)
    (h : q.overlaps p = true ∨ (q.ord = .strict ∧ p.ord = .strict)) : mayPerform l k = false := by
  have hq : q ∈ l.take k := List.mem_of_getElem? (by rw [List.getElem?_take_of_lt hjk, hj])
  have hall : (l.take k).all (fun q => !(q.overlaps p) && !(p.ord == .strict && q.ord == .strict)) = false := by
    rw [List.all_eq_false]
    refine ⟨q, hq, ?_⟩
    rcases h with h | ⟨hqo, hpo⟩
    · simp [h]
    · simp [hqo, hpo]
  simp only [mayPerform, hk, hall, Bool.and_false]

theorem State.performAt_of_not_mayPerform {s : State} {sid k : Nat} (h : mayPerform (s.strand sid).pend k = false) :
    s.performAt sid k = s := by
  simp only [State.performAt]
  split
  · rfl
  · simp [h]

theorem State.performAt_of_mayPerform {s : State} {sid k : Nat} {p : PStore} (hk : (s.strand sid).pend[k]? = some p)
    (h : mayPerform (s.strand sid).pend k = true) :
    s.performAt sid k = (s.performStore sid p ((s.strand sid).pend.take k ++ (s.strand sid).pend.drop (k + 1))).updStrand sid
      (fun t => { t with pend := t.pend.eraseIdx k }) := by
  simp [State.performAt, hk, h, List.eraseIdx_eq_take_drop_succ]

/-! ## The stores that a drain performs -/

section
variable (which : PStore → Bool)

theorem splitPend_rest_sublist : ∀ l : List PStore, List.Sublist (splitPend which l).2 l
  | [] => .slnil
  | p :: r => by
    simp only [splitPend]
    split
    · exact (splitPend_rest_sublist r).cons p
    · exact (splitPend_rest_sublist r).cons_cons p

theorem splitPend_go_subset : ∀ l : List PStore, ∀ p ∈ (splitPend which l).1, p ∈ l
  | [], _, h => h
  | q :: r, p, h => by
    simp only [splitPend] at h
    split at h
    · rcases List.mem_cons.mp h with rfl | h
      · exact List.mem_cons_self
      · exact List.mem_cons_of_mem _ (splitPend_go_subset r p h)
    · exact List.mem_cons_of_mem _ (splitPend_go_subset r p h)

/-- What stays is held, or was not selected. -/
theorem splitPend_rest_cases : ∀ l : List PStore, ∀ p ∈ (splitPend which l).2, p.held = true ∨ which p = false
  | [], _, h => by cases h
  | q :: r, p, h => by
    simp only [splitPend] at h
    split at h
    · exact splitPend_rest_cases r p h
    · next hq =>
      rcases List.mem_cons.mp h with rfl | h
      · by_cases hp : p.held = true
        · exact .inl hp
        · exact .inr (by simp_all)
      · exact splitPend_rest_cases r p h

theorem mem_splitPend_rest_of_held : ∀ l : List PStore, ∀ p ∈ l, p.held = true → p ∈ (splitPend which l).2
  | q :: r, p, h, hp => by
    simp only [splitPend]
    rcases List.mem_cons.mp h with rfl | h
    · simp [hp]
    · have ih := mem_splitPend_rest_of_held r p h hp
      split
      · exact ih
      · exact List.mem_cons_of_mem _ ih
end

theorem State.performStores_memorySide (sid : Nat) (rest : List PStore) : ∀ (l : List PStore) (s : State),
    s.MemorySide (s.performStores sid rest l)
  | [], s => .refl s
  | p :: r, s => (s.performStore_memorySide sid p _).trans (State.performStores_memorySide sid rest r _)

theorem State.performStores_byte (sid a : Nat) (rest : List PStore) : ∀ (l : List PStore) (s : State),
    (∀ p ∈ l, ∀ c ∈ p.cells, c.1 ≠ a) → (s.performStores sid rest l).byte a = s.byte a
  | [], _, _ => rfl
  | p :: r, s, h => by
    rw [State.performStores, State.performStores_byte sid a rest r _ (fun q hq => h q (List.mem_cons_of_mem _ hq))]
    simp only [State.byte, State.performStore_mem]
    exact Memory.get_putAll_of_forall_ne _ _ (h p List.mem_cons_self)

theorem State.drain_pend (s : State) (sid : Nat) (which : PStore → Bool) :
    ((s.drain sid which).strand sid).pend = (splitPend which (s.strand sid).pend).2 := by
  simp [State.drain]

theorem State.strand_drain_ne (s : State) {sid j : Nat} (which : PStore → Bool) (h : j ≠ sid) :
    (s.drain sid which).strand j = s.strand j := by
  simp only [State.drain]
  rw [State.strand_updStrand_ne _ _ h, (State.performStores_memorySide sid _ _ s).strand]

theorem State.drain_byte (s : State) (sid a : Nat) (which : PStore → Bool)
    (h : ∀ p ∈ (s.strand sid).pend, ∀ c ∈ p.cells, c.1 ≠ a) : (s.drain sid which).byte a = s.byte a := by
  simp only [State.drain, State.byte_updStrand]
  exact State.performStores_byte sid a _ _ s (fun p hp => h p (splitPend_go_subset which _ p hp))

/-! ## Loads that are performed -/

theorem State.ghosts_readSide (s : State) (ps : List Party) (loose : Bool) (ks : List Nat) : s.ReadSide (s.ghosts ps loose ks).2 := by
  unfold State.ghosts
  split
  · exact .refl s
  · exact .refl s
  · exact s.settle_readSide _

theorem State.readPart_readSide (s : State) (ps : List Party) (units : List (List Nat)) (loose : Bool) :
    s.ReadSide (s.readPart ps units loose).2 := by
  unfold State.readPart
  split
  · exact .refl s
  · refine List.foldlRecOn (motive := fun x : List (Nat × Byte) × State => s.ReadSide x.2) units _ (.refl s) ?_
    intro x hx u _
    exact hx.trans (x.2.ghosts_readSide ps loose u)

theorem State.srbFill_readSide (s : State) (sid : Nat) (slot : Option (BitVec 12)) (loose : Bool) (line : Nat) :
    s.ReadSide (s.srbFill sid slot loose line) := by
  simp only [State.srbFill]
  exact (s.ghosts_readSide [.strand sid] loose (lineKeys line)).trans (State.updTile_readSide _ _ _)

theorem State.srbUnit_readSide (s : State) (sid : Nat) (slot : Option (BitVec 12)) (loose : Bool) (ks : List Nat) :
    s.ReadSide (s.srbUnit sid slot loose ks).2 := by
  have hfill := s.srbFill_readSide sid slot loose (ks.headD 0 / 128)
  simp only [State.srbUnit]
  split
  · exact s.settle_readSide _
  · split
    · exact hfill.trans (State.settle_readSide _ _)
    · exact hfill

theorem State.dropSrbLine_readSide (s : State) (tile line : Nat) : s.ReadSide (s.dropSrbLine tile line) := s.updTile_readSide _ _

theorem State.dropSrbLines_readSide (s : State) (tile : Nat) (l : List Nat) :
    s.ReadSide (l.foldl (fun s l => s.dropSrbLine tile l) s) :=
  List.foldlRecOn (motive := s.ReadSide) l _ (.refl s) (fun t ht line _ => ht.trans (t.dropSrbLine_readSide tile line))

theorem State.loadPart_readSide (s : State) (sid : Nat) (k : LKind) (p : Part) (whole : Bool) :
    s.ReadSide (s.loadPart sid k p whole).2 := by
  simp only [State.loadPart]
  split
  · refine List.foldlRecOn (motive := fun x : List (Nat × Byte) × State => s.ReadSide x.2) _ _ (.refl s) ?_
    intro x hx u _
    exact hx.trans (x.2.srbUnit_readSide sid _ _ u)
  · exact (s.readPart_readSide _ _ _).trans (State.dropSrbLines_readSide _ _ _)

theorem State.loadParts_readSide (sid : Nat) (k : LKind) (whole : Bool) : ∀ (ps : List Part) (s : State),
    s.ReadSide (s.loadParts sid k whole ps).2
  | [], s => .refl s
  | p :: r, s => (s.loadPart_readSide sid k p whole).trans (State.loadParts_readSide sid k whole r _)

/-- Loads of strand `sid` were performed: no byte of memory, no pending store and no other strand changed. -/
structure State.LoadsPerformed (s t : State) (sid : Nat) : Prop where
  mem : t.mem = s.mem
  pend : (t.strand sid).pend = (s.strand sid).pend
  other : ∀ j, j ≠ sid → t.strand j = s.strand j

theorem State.LoadsPerformed.refl (s : State) (sid : Nat) : s.LoadsPerformed s sid := ⟨rfl, rfl, fun _ _ => rfl⟩
theorem State.LoadsPerformed.trans {s t u : State} {sid : Nat} (h : s.LoadsPerformed t sid) (h' : t.LoadsPerformed u sid) :
    s.LoadsPerformed u sid :=
  ⟨h'.mem.trans h.mem, h'.pend.trans h.pend, fun j hj => (h'.other j hj).trans (h.other j hj)⟩
theorem State.ReadSide.loadsPerformed {s t : State} (h : s.ReadSide t) (sid : Nat) : s.LoadsPerformed t sid :=
  ⟨h.mem, by rw [h.strand], fun j _ => h.strand j⟩
theorem State.updStrand_loadsPerformed (s : State) (sid : Nat) {f : Strand → Strand} (h : ∀ t, (f t).pend = t.pend) :
    s.LoadsPerformed (s.updStrand sid f) sid :=
  ⟨rfl, by simp [h], fun _ hj => s.strand_updStrand_ne f hj⟩

theorem State.updCoreOf_loadsPerformed (s : State) (sid : Nat) (f : StrandCore → StrandCore) :
    s.LoadsPerformed (s.updCoreOf sid f) sid :=
  s.updStrand_loadsPerformed sid (f := fun t => { t with core := f t.core }) (fun _ => rfl)

theorem State.loadInto_loadsPerformed (s : State) (sid : Nat) (dst : LoadTo) (b : List Byte) :
    s.LoadsPerformed (s.loadInto sid dst b) sid := by
  unfold State.loadInto
  split
  · exact s.updCoreOf_loadsPerformed sid _
  · exact s.updCoreOf_loadsPerformed sid _

theorem State.performLoad_loadsPerformed (s : State) (sid : Nat) (l : PLoad) : s.LoadsPerformed (s.performLoad sid l) sid := by
  simp only [State.performLoad]
  refine .trans ?_ (State.loadInto_loadsPerformed _ _ _ _)
  exact (State.loadParts_readSide sid _ _ l.parts s).loadsPerformed sid

theorem State.readRow_loadsPerformed (s : State) (sid w : Nat) : s.LoadsPerformed (s.readRow sid w) sid := by
  simp only [State.readRow]
  split
  · exact .refl s sid
  · refine .trans ?_ (State.updCoreOf_loadsPerformed _ _ _)
    have hread := State.loadParts_readSide sid .row false ((s.strand sid).core.w.getD w .empty).rd s
    split
    · exact (hread.trans (State.updTile_readSide _ _ _)).loadsPerformed sid
    · exact hread.loadsPerformed sid

theorem State.settleLoads_loadsPerformed (s : State) (sid : Nat) : s.LoadsPerformed (s.settleLoads sid) sid := by
  simp only [State.settleLoads]
  refine .trans ?_ (State.updStrand_loadsPerformed _ _ (fun _ => rfl))
  refine .trans (t := (List.range 8).foldl (fun s w => s.readRow sid w) s) ?_ ?_
  · exact List.foldlRecOn (motive := (s.LoadsPerformed · sid)) _ _ (.refl s sid)
      (fun t ht w _ => ht.trans (t.readRow_loadsPerformed sid w))
  · exact List.foldlRecOn (motive := (State.LoadsPerformed _ · sid)) _ _ (.refl _ sid)
      (fun t ht l _ => ht.trans (t.performLoad_loadsPerformed sid l))

/-! ## A release -/

theorem State.release_pend (s : State) (sid scope : Nat) :
    ((s.release sid scope).strand sid).pend = (splitPend notLoose (s.strand sid).pend).2 := by
  simp only [State.release, State.releaseBy, State.strand_updOlds, State.drain_pend, (s.settleLoads_loadsPerformed sid).pend]

theorem State.release_byte (s : State) (sid scope a : Nat) (h : ∀ p ∈ (s.strand sid).pend, ∀ c ∈ p.cells, c.1 ≠ a) :
    (s.release sid scope).byte a = s.byte a := by
  have hloads := s.settleLoads_loadsPerformed sid
  simp only [State.release, State.releaseBy, State.byte_updOlds]
  rw [State.drain_byte _ _ _ _ (by rwa [hloads.pend])]
  simp only [State.byte, hloads.mem]

theorem State.strand_release_ne (s : State) {sid j : Nat} (scope : Nat) (h : j ≠ sid) :
    (s.release sid scope).strand j = s.strand j := by
  simp only [State.release, State.releaseBy, State.strand_updOlds]
  rw [State.strand_drain_ne _ _ h, (s.settleLoads_loadsPerformed sid).other j h]

/-- Settles O16: a store that may not be performed stays, by `mayPerform`'s three cases; one that may changes memory and its strand's list alone;
a release performs what `splitPend` selects, and the loads before it change neither memory nor a pending store. -/
theorem pendingStores : Obligations.PendingStores := by
  unfold Obligations.PendingStores
  refine ⟨fun s sid k p hk => ⟨fun hstays => ?_, fun hmay => ?_⟩, fun s sid scope => ?_⟩
  · apply State.performAt_of_not_mayPerform
    rcases hstays with hheld | ⟨j, q, hjk, hj, ⟨x, hx, y, hy, hxy⟩ | hstrict⟩
    · exact mayPerform_of_held hk hheld
    · exact mayPerform_of_earlier hk hjk hj (.inl (PStore.overlaps_of_mem hx hy hxy))
    · exact mayPerform_of_earlier hk hjk hj (.inr hstrict)
  · have hside := s.performStore_memorySide sid p ((s.strand sid).pend.take k ++ (s.strand sid).pend.drop (k + 1))
    rw [State.performAt_of_mayPerform hk hmay]
    refine ⟨?_, ?_, fun j hj => ?_⟩
    · rw [State.strand_updStrand_self, hside.strand]
    · rw [State.updStrand_mem, State.performStore_mem]; rfl
    · rw [State.strand_updStrand_ne _ _ hj, hside.strand]
  · rw [State.release_pend]
    refine ⟨fun p hp => ?_, splitPend_rest_sublist _ _, mem_splitPend_rest_of_held _ _, fun a ha => s.release_byte sid scope a ha,
      fun j hj => s.strand_release_ne scope hj⟩
    exact (splitPend_rest_cases notLoose _ p hp).imp_right (by simp [notLoose])

end Sys2Proof.Machine
end

section
/-! Pod accesses to the module itself (13: R319, R320; 06: R170): a strand that holds nothing back reaches memory with the state it
issued in. -/

namespace Sys2Proof.Machine

/-! ## A strand with nothing to settle -/

/-- Every strand reads as it was, and nothing else but what is known of writes on their way changed. -/
def State.Alike (s t : State) : Prop :=
  ∃ x o, t = { s with strands := x, olds := o } ∧ ∀ j, t.strand j = s.strand j

theorem State.Alike.refl (s : State) : s.Alike s := ⟨_, _, rfl, fun _ => rfl⟩
theorem State.Alike.trans {s t u : State} (h : s.Alike t) (h' : t.Alike u) : s.Alike u := by
  obtain ⟨x, o, rfl, hs⟩ := h
  obtain ⟨x', o', rfl, hs'⟩ := h'
  exact ⟨x', o', rfl, fun j => (hs' j).trans (hs j)⟩

theorem State.updOlds_alike (s : State) (f : OldVal → OldVal) : s.Alike (s.updOlds f) := ⟨_, _, rfl, fun _ => rfl⟩

theorem State.updStrand_alike {s : State} {sid : Nat} {f : Strand → Strand} (h : f (s.strand sid) = s.strand sid) :
    s.Alike (s.updStrand sid f) := by
  refine ⟨_, _, rfl, fun j => ?_⟩
  by_cases hj : j = sid
  · subst hj; rw [State.strand_updStrand_self, h]
  · exact s.strand_updStrand_ne f hj

section
variable {s t : State} (h : s.Alike t)
include h
theorem State.Alike.mem : t.mem = s.mem := by obtain ⟨x, o, rfl, -⟩ := h; rfl
theorem State.Alike.pkg : t.pkg = s.pkg := by obtain ⟨x, o, rfl, -⟩ := h; rfl
theorem State.Alike.cur : t.cur = s.cur := by obtain ⟨x, o, rfl, -⟩ := h; rfl
theorem State.Alike.sid : t.sid = s.sid := congrArg Agent.sid h.cur
theorem State.Alike.strand (j : Nat) : t.strand j = s.strand j := by obtain ⟨x, o, -, hs⟩ := h; exact hs j
theorem State.Alike.me : t.me = s.me := by rw [State.me, h.cur, h.strand]; rfl
theorem State.Alike.seq : t.seq = s.seq := by simp [State.seq, State.core, h.me, h.cur]
theorem State.Alike.pstPending (j : Nat) : t.pstPending j = s.pstPending j := by
  simp only [State.pstPending, h.strand]
  obtain ⟨x, o, rfl, -⟩ := h
  rfl
theorem State.Alike.podTarget (die p kind : Nat) (addr : Word) (n : Nat) :
    t.podTarget die p kind addr n = s.podTarget die p kind addr n := by
  obtain ⟨x, o, rfl, -⟩ := h
  rfl
end

/-! ## What a strand that holds nothing back has to wait for -/

theorem State.spanBreak_of_plain {s : State} {sid : Nat} (h : (s.strand sid).Plain) : s.spanBreak sid = s := by
  obtain ⟨-, hbuffer⟩ := h
  simp [State.spanBreak, hbuffer]

theorem Strand.Settled.rd {t : Strand} (h : t.Settled) (w : Nat) : (t.core.w.getD w .empty).rd = [] := by
  obtain ⟨-, hrd⟩ := h
  simp only [Vector.getD, Array.getD]
  split
  · exact hrd _ (by simp)
  · rfl

theorem State.readRow_of_settled {s : State} {sid : Nat} (h : (s.strand sid).Settled) (w : Nat) : s.readRow sid w = s := by
  simp only [State.readRow, h.rd w]

theorem State.settleLoads_alike {s : State} {sid : Nat} (h : (s.strand sid).Settled) : s.Alike (s.settleLoads sid) := by
  have hrows : ∀ l : List Nat, l.foldl (fun s w => s.readRow sid w) s = s := fun l =>
    List.foldlRecOn (motive := (· = s)) l _ rfl (fun t ht w _ => by rw [ht, State.readRow_of_settled h])
  obtain ⟨hloads, -⟩ := h
  simp only [State.settleLoads, hrows, hloads, List.foldl_nil]
  exact State.updStrand_alike (by rw [← hloads])

theorem State.drain_of_pend_nil {s : State} {sid : Nat} (h : (s.strand sid).pend = []) (which : PStore → Bool) :
    s.drain sid which = s.updStrand sid (fun t => { t with pend := [] }) := by
  simp only [State.drain, h, splitPend, State.performStores]

theorem State.drain_alike {s : State} {sid : Nat} (h : (s.strand sid).pend = []) (which : PStore → Bool) :
    s.Alike (s.drain sid which) := by
  rw [State.drain_of_pend_nil h]
  exact State.updStrand_alike (by rw [← h])

theorem State.inOrder_of_settled {s : State} {sid : Nat} (h : (s.strand sid).Settled) (ks : List Nat) : s.inOrder sid ks = s := by
  have hrows : (s.strand sid).core.w.toList.any (fun x => (keysOf x.rd).any ks.contains) = false := by
    rw [List.any_eq_false]
    intro x hx
    simp [h.2 x hx, keysOf]
  simp [State.inOrder, Strand.loadsOf, h.1, hrows]

theorem State.release_alike {s : State} {sid : Nat} (hplain : (s.strand sid).Plain) (hsettled : (s.strand sid).Settled) (scope : Nat) :
    s.Alike (s.release sid scope) := by
  have hloads := State.settleLoads_alike hsettled
  exact (hloads.trans (State.drain_alike (by rw [hloads.strand, hplain.1]) _)).trans (State.updOlds_alike _ _)

theorem State.releaseThen_of_clear {s : State} (h : s.Clear) (scope : Nat) (k : State → Out) :
    s.releaseThen scope k = k (s.release s.sid scope) := by
  obtain ⟨hsums, hpst⟩ := h
  have hafter : ∀ k : State → Out, s.afterSums k = k s := by
    intro k
    simp only [State.afterSums]
    cases he : s.cur.e with
    | false => simp
    | true => simp [hsums he]
  simp [State.releaseThen, State.afterPsts, hafter, hpst]

/-! ## Lines that an access fills under a key slot (18: R375) -/

theorem State.fillLine_memorySide (s : State) (k : BitVec 12) (l : Nat) :
    s.MemorySide (if s.foreign l k then s.putCells (cellsAt (128 * l) (s.freeLine l)) else s) := by
  split
  · exact s.putCells_memorySide _
  · exact .refl s

theorem State.lineRes_memorySide (s : State) (r : Tbl (BitVec 12)) : s.MemorySide { s with lineRes := r } := ⟨rfl, rfl⟩
theorem State.lineKey_memorySide (s : State) (r : Tbl (BitVec 12)) : s.MemorySide { s with lineKey := r } := ⟨rfl, rfl⟩

theorem State.touchLine_memorySide (s : State) (store : Bool) (k : BitVec 12) (l : Nat) : s.MemorySide (s.touchLine store k l) := by
  cases store with
  | false => exact s.lineRes_memorySide _
  | true => exact (s.lineRes_memorySide _).trans ((State.fillLine_memorySide _ k l).trans (State.lineKey_memorySide _ _))

/-- What the lines of an access become under a key slot is read from these. -/
structure State.SameLines (s t : State) : Prop where
  mem : t.mem = s.mem
  lineKey : t.lineKey = s.lineKey
  freeCtr : t.freeCtr = s.freeCtr

section
variable {s t : State} (h : s.SameLines t)
include h
theorem State.SameLines.putCells (c : List (Nat × Byte)) : (s.putCells c).SameLines (t.putCells c) :=
  ⟨by simp only [State.putCells, h.mem], h.lineKey, h.freeCtr⟩

theorem State.SameLines.fillLine (k : BitVec 12) (l : Nat) :
    (if s.foreign l k then s.putCells (cellsAt (128 * l) (s.freeLine l)) else s).SameLines
      (if t.foreign l k then t.putCells (cellsAt (128 * l) (t.freeLine l)) else t) := by
  have hforeign : t.foreign l k = s.foreign l k := by simp only [State.foreign, h.lineKey]
  have hline : t.freeLine l = s.freeLine l := by simp only [State.freeLine, State.scrambled, State.free, h.freeCtr]
  rw [hforeign, hline]
  split
  · exact h.putCells _
  · exact h

theorem State.SameLines.putLineRes (k : BitVec 12) (l : Nat) :
    State.SameLines { s with lineRes := Tbl.put s.lineRes l k } { t with lineRes := Tbl.put t.lineRes l k } :=
  ⟨h.mem, h.lineKey, h.freeCtr⟩

theorem State.SameLines.putLineKey (k : BitVec 12) (l : Nat) :
    State.SameLines { s with lineKey := Tbl.put s.lineKey l k } { t with lineKey := Tbl.put t.lineKey l k } :=
  ⟨h.mem, congrArg (Tbl.put · l k) h.lineKey, h.freeCtr⟩

theorem State.SameLines.touchLine (store : Bool) (k : BitVec 12) (l : Nat) :
    (s.touchLine store k l).SameLines (t.touchLine store k l) := by
  cases store with
  | false => exact h.putLineRes k l
  | true => exact ((h.putLineRes k l).fillLine k l).putLineKey k l

theorem State.SameLines.touch (store : Bool) (ps : List Part) :
    (s.touch store ps).SameLines (t.touch store ps) := by
  refine List.foldl_rel (r := State.SameLines) h (fun p _ u v huv => ?_)
  cases p.slot with
  | none => exact huv
  | some k => exact List.foldl_rel (r := State.SameLines) huv (fun l _ u v huv => huv.touchLine store k l)

end

theorem State.Alike.sameLines {s t : State} (h : s.Alike t) : s.SameLines t := by
  obtain ⟨x, o, rfl, -⟩ := h
  exact ⟨rfl, rfl, rfl⟩

/-- What filling one line keeps, filling those of an access keeps. -/
theorem State.touch_of_touchLine {motive : State → Prop} {s : State} {store : Bool} (h : motive s)
    (step : ∀ t k l, motive t → motive (t.touchLine store k l)) (ps : List Part) : motive (s.touch store ps) := by
  refine List.foldlRecOn (motive := motive) ps _ h (fun t ht p _ => ?_)
  cases p.slot with
  | none => exact ht
  | some k => exact List.foldlRecOn (motive := motive) p.lines _ ht (fun t ht l _ => step t k l ht)

theorem State.touch_memorySide (s : State) (store : Bool) (ps : List Part) : s.MemorySide (s.touch store ps) :=
  State.touch_of_touchLine (.refl s) (fun t k l ht => ht.trans (t.touchLine_memorySide store k l)) ps

/-- A load fills lines and writes nothing. -/
theorem State.touch_load (s : State) (ps : List Part) : ∃ r, s.touch false ps = { s with lineRes := r } :=
  State.touch_of_touchLine (motive := fun t => ∃ r, t = { s with lineRes := r }) ⟨_, rfl⟩
    (fun t k l ⟨r, ht⟩ => ⟨Tbl.put r l k, by rw [ht]; rfl⟩) ps

/-! ## The access at its home -/

theorem State.atomicAt_memorySide (s : State) (ks : List Nat) (op x y : Nat) : s.MemorySide (s.atomicAt ks op x y).2 := by
  simp only [State.atomicAt]
  split
  · exact (s.settleKeys_readSide ks).toMemorySide.trans (State.putCells_memorySide _ _)
  · exact (s.settleKeys_readSide ks).toMemorySide

theorem State.valOf_congr {s t : State} (h : t.mem = s.mem) (ks : List Nat) : t.valOf ks = s.valOf ks := by
  simp only [State.valOf, show t.byte = s.byte by funext k; simp only [State.byte, h]]

/-- An atomic finds the newest write, whatever is on its way: its outcome is memory's (03: R92). -/
theorem State.atomicAt_congr {s t : State} (h : t.mem = s.mem) (ks : List Nat) (op x y : Nat) :
    (t.atomicAt ks op x y).1 = (s.atomicAt ks op x y).1 ∧ (t.atomicAt ks op x y).2.mem = (s.atomicAt ks op x y).2.mem := by
  have hmem : (t.settleKeys ks).mem = (s.settleKeys ks).mem := h
  simp only [State.atomicAt, State.valOf_congr hmem]
  split
  · exact ⟨rfl, by simp only [State.putCells, hmem]⟩
  · exact ⟨rfl, hmem⟩

section
variable (s : State) (who : Who) (ps : List Part) (op n x y : Nat)

theorem State.podPerform_memorySide (kind : Nat) : s.MemorySide (s.podPerform (some who) kind ps op n x y).2 := by
  refine (s.touch_memorySide (kind != 0) ps).trans ?_
  simp only [State.podPerform]
  split
  · exact (State.ghosts_readSide _ _ _ _).toMemorySide
  · exact State.MemorySide.trans (t := (s.touch true ps).unpoison ps) ⟨rfl, rfl⟩ (State.putUnit_memorySide _ _ _ _)
  · exact State.atomicAt_memorySide _ _ _ _ _

/-- With no write on its way a load finds memory's bytes, and writes none. -/
theorem State.podPerform_load (h : s.olds = []) :
    (s.podPerform (some who) 0 ps op n x y).1 = s.valOf (keysOf ps) ∧ (s.podPerform (some who) 0 ps op n x y).2.mem = s.mem := by
  obtain ⟨r, hr⟩ := s.touch_load ps
  have hghosts : ∀ p l, State.ghosts { s with lineRes := r } p l (keysOf ps) = ([], { s with lineRes := r }) := by
    intro p l
    simp only [State.ghosts, h]
  simp only [State.podPerform, bne_self_eq_false, hr, hghosts, and_true]
  rfl

theorem State.podPerform_store : (s.podPerform (some who) 1 ps op n x y).2.mem =
    ((s.touch true ps).putCells ((keysOf ps).zip (bytesLE x n))).mem :=
  State.putUnit_mem _ _ _ _

theorem State.podPerform_atomic : s.podPerform (some who) 2 ps op n x y = (s.touch true ps).atomicAt (keysOf ps) op x y := rfl
end

/-! ## The completion -/

theorem Seq.gGet_gPut (q : Seq) (d : BitVec 5) (v : Word) : (q.gPut d v).gGet d = if d = 0 then 0 else v := by
  by_cases hd : d = 0
  · simp [Seq.gGet, hd]
  · simp only [Seq.gGet, Seq.gPut, if_neg hd]
    exact Vector.getElem_set_self d.isLt

theorem State.acquire_readSide (s : State) (sid scope : Nat) : s.ReadSide (s.acquire sid scope) := by
  simp only [State.acquire, State.acquireAs]
  split
  · exact ⟨⟨rfl, rfl⟩, rfl⟩
  · exact ⟨⟨rfl, rfl⟩, rfl⟩

theorem State.seq_updSeqOf_cur (s : State) (f : Seq → Seq) : (s.updSeqOf s.cur f).seq = f s.seq := by
  simp [State.seq, State.core, State.me, State.updSeqOf, State.updCoreOf]

theorem State.podDone_mem (s : State) (a : Agent) (d : BitVec 5) (v : Word) (acq : Option Nat) : (s.podDone a d v acq).mem = s.mem := by
  cases acq with
  | none => rfl
  | some scope => exact (State.acquire_readSide _ _ _).mem

theorem State.podDone_g (s : State) (d : BitVec 5) (v : Word) (acq : Option Nat) :
    (s.podDone s.cur d v acq).g d = if d = 0 then 0 else v := by
  have hseq : (s.podDone s.cur d v acq).seq = (s.seq.gPut d v).adv := by
    cases acq with
    | none => exact s.seq_updSeqOf_cur _
    | some scope => exact (State.acquire_readSide _ _ _).seq.trans (s.seq_updSeqOf_cur _)
  simp only [State.g, hseq, Seq.gGet, Seq.adv_g]
  exact Seq.gGet_gPut _ _ _

theorem State.dropSrbParts_readSide (s : State) (ps : List Part) : s.ReadSide (s.dropSrbParts ps) :=
  List.foldlRecOn (motive := s.ReadSide) _ _ (.refl s) (fun t ht line _ => ht.trans (t.dropSrbLine_readSide t.myTile line))

/-! ## The access -/

section
variable {s : State} {kind : Nat} {addr : Word} {n : Nat} {ps : List Part}
variable (d : BitVec 5) (x y op : Nat) (acq : Option Nat)

/-- A PST of the strand that is not acknowledged holds an access to a STRICT page (03: R95; log 16). -/
theorem State.podLocal_of_strict (hps : s.podTarget (sidDie s.sid) s.me.ptag.toNat kind addr n = .ok ps)
    (hstrict : ps.any isStrictPart = true) (hpst : s.pstPending s.sid = true) :
    s.podLocal kind addr n d x y op acq = .next (s.block .fence) := by
  simp [State.podLocal, hps, hstrict, hpst]

/-- A strand that holds nothing back performs the access at once, in a state that reads as its own; what follows is the completion. -/
theorem State.podLocal_completes (hplain : s.me.Plain) (hsettled : s.me.Settled) (hpst : s.pstPending s.sid = false)
    (hps : s.podTarget (sidDie s.sid) s.me.ptag.toNat kind addr n = .ok ps) :
    ∃ u who t, s.Alike u ∧ u.olds = s.olds ∧ s.podLocal kind addr n d x y op acq = .next t ∧
      t.mem = (u.podPerform (some who) kind ps op n x y).2.mem ∧ (kind = 1 → t.seq = s.seq.adv) ∧
      (kind ≠ 1 → t.g d = if d = 0 then 0 else BitVec.ofNat 64 (u.podPerform (some who) kind ps op n x y).1) := by
  simp only [State.podLocal, hps, hpst, Bool.and_false, Bool.false_eq_true, if_false, State.inOrder_of_settled (sid := s.sid) hsettled]
  generalize hu : s.drain s.sid _ = u
  have hlike : s.Alike u := hu ▸ State.drain_alike (sid := s.sid) hplain.1 _
  have holds : u.olds = s.olds := by rw [← hu, State.drain_of_pend_nil (sid := s.sid) hplain.1]; rfl
  have hdrop := ((u.podPerform (some (u.whoOf u.sid)) kind ps op n x y).2).dropSrbParts_readSide ps
  have hseq := ((u.podPerform_memorySide (u.whoOf u.sid) ps op n x y kind).trans hdrop.toMemorySide).seq.trans hlike.seq
  by_cases hk : kind = 1
  · subst hk
    exact ⟨u, u.whoOf u.sid, _, hlike, holds, rfl, hdrop.mem, fun _ => (State.seq_adv _).trans (congrArg Seq.adv hseq), absurd rfl⟩
  · rw [if_neg (by simpa using hk)]
    exact ⟨u, u.whoOf u.sid, _, hlike, holds, rfl, (State.podDone_mem _ _ _ _ _).trans hdrop.mem, fun h => absurd h hk,
      fun _ => State.podDone_g _ _ _ _⟩

/-- A register that holds a package number holds nothing above it. -/
theorem bitsOf_setWidth_pkg (p : BitVec 10) : bitsOf (p.setWidth 64) 0 10 = p.toNat ∧ bitsOf (p.setWidth 64) 10 54 = 0 := by
  have hp := p.isLt
  have hwide : (p.setWidth 64).toNat = p.toNat := by rw [BitVec.toNat_setWidth]; omega
  simp only [bitsOf, hwide, Nat.shiftRight_eq_div_pow]
  omega

section
variable (kind : BitVec 2) (b a : BitVec 5) (disp : BitVec 24) (v w : Word) (aop : BitVec 4)
  (hplain : s.me.Plain) (hsettled : s.me.Settled) (hwait : s.seq.wait = none) (hspace : spaceOf (s.ea a disp) = 0)
  (hpkg : s.g b = s.pkg.setWidth 64) (halign : (s.ea a disp).toNat % n = 0)
include hplain hsettled hwait hspace hpkg halign

/-- An aligned access to the module's own package, of a strand that blocks on nothing, is the local one, after its release. -/
theorem State.podAccess_own (rel : Option Nat) (hclear : rel ≠ none → s.Clear) :
    ∃ u, s.Alike u ∧ (rel = none → u = s) ∧ s.podAccess kind d b a disp n v w aop rel acq =
      u.podLocal kind.toNat (s.ea a disp) n d (v.toNat % 2 ^ (8 * n)) (w.toNat % 2 ^ (8 * n)) aop.toNat acq := by
  obtain ⟨hlow, hhigh⟩ := bitsOf_setWidth_pkg s.pkg
  have hbreak : s.spanBreak s.sid = s := State.spanBreak_of_plain hplain
  simp only [State.podAccess, hspace, hpkg, hhigh, halign, hwait, hbreak, hlow, bne_self_eq_false, Bool.or_self, Bool.false_eq_true,
    if_false]
  cases rel with
  | none => exact ⟨s, .refl s, fun _ => rfl, by simp⟩
  | some scope =>
    have hlike : s.Alike (s.release s.sid scope) := State.release_alike hplain hsettled scope
    refine ⟨s.release s.sid scope, hlike, nofun, ?_⟩
    simp [State.releaseThen_of_clear (hclear nofun), hlike.pkg]

/-- With no release, it is the local one as it stands. -/
theorem State.podAccess_own_unordered : s.podAccess kind d b a disp n v w aop none acq =
    s.podLocal kind.toNat (s.ea a disp) n d (v.toNat % 2 ^ (8 * n)) (w.toNat % 2 ^ (8 * n)) aop.toNat acq := by
  obtain ⟨u, -, hu, hlocal⟩ :=
    State.podAccess_own d acq kind b a disp v w aop hplain hsettled hwait hspace hpkg halign none (absurd rfl)
  rwa [hu rfl] at hlocal
end
end

theorem exec_patom (s : State) (d : BitVec 5) (w : BitVec 1) (b a c e : BitVec 5) (aop : BitVec 4) (ord : BitVec 2) (sc : BitVec 3)
    (disp : BitVec 24) : exec (.patom d w b a c e aop ord sc disp) s =
      s.podAccess 2 d b a disp (if w = 0 then 4 else 8) (s.g c) (s.g e) aop (ordScope (ord.getLsbD 1) sc)
        (ordScope (ord.getLsbD 0) sc) := by
  change execPatom d w b a c e aop ord sc disp s = _
  simp only [execPatom, ordScope, beq_iff_eq]

/-- Settles O26: each access is the local one (`podAccess_own`), which performs it at once in a state that reads as the issuing one
(`podLocal_completes`); what a load finds, a store leaves and an atomic does is `podPerform`'s. That a PST to a STRICT page waits for every PST
of the strand is the model's reading of 03: R95 (log 16). -/
theorem podLocal : Obligations.PodLocal := by
  unfold Obligations.PodLocal
  intro s d a b c e w sz ord aop sc disp ps addr pkg n m hplain hsettled _ hwait hspace hpkg
  refine ⟨fun halign hps hpst hstrict => ?strict, fun halign hps hpst holds => ?load, fun halign hps hpst => ?store,
    fun hclear halign hps => ?atomic⟩
  case strict =>
    have hlocal := State.podAccess_own_unordered (n := n) 0 none 1 b a disp (s.g c) 0 0 hplain hsettled hwait hspace hpkg halign
    exact hlocal.trans (State.podLocal_of_strict _ _ _ _ _ hps hstrict hpst)
  case load =>
    have hlocal := State.podAccess_own_unordered (n := n) d none 0 b a disp 0 0 0 hplain hsettled hwait hspace hpkg halign
    obtain ⟨u, who, t, hlike, hsame, ht, hmem, -, hg⟩ := State.podLocal_completes d _ _ _ _ hplain hsettled hpst hps
    obtain ⟨hval, hload⟩ := u.podPerform_load who ps _ n _ _ (hsame.trans holds)
    have hvalue := hval.trans (State.valOf_congr hlike.mem _)
    exact ⟨t, hlocal.trans ht, (hg (by decide)).trans (by rw [hvalue]), (hmem.trans hload).trans hlike.mem⟩
  case store =>
    have hlocal := State.podAccess_own_unordered (n := n) 0 none 1 b a disp (s.g c) 0 0 hplain hsettled hwait hspace hpkg halign
    obtain ⟨u, who, t, hlike, -, ht, hmem, hseq, -⟩ := State.podLocal_completes 0 _ _ _ _ hplain hsettled hpst hps
    have hput := fun cells => ((hlike.sameLines.touch true ps).putCells cells).mem
    exact ⟨t, hlocal.trans ht, (hmem.trans (u.podPerform_store who ps _ n _ _)).trans (hput _), hseq rfl⟩
  case atomic =>
    obtain ⟨u, hrel, -, hlocal⟩ := State.podAccess_own (n := m) d (ordScope (ord.getLsbD 0) sc) 2 b a disp (s.g c) (s.g e) aop hplain
      hsettled hwait hspace hpkg halign (ordScope (ord.getLsbD 1) sc) (fun _ => hclear)
    obtain ⟨-, hpst⟩ := hclear
    obtain ⟨v, who, t, hlike, -, ht, hmem, -, hg⟩ := State.podLocal_completes (s := u) d _ _ _ _ (by rwa [hrel.me]) (by rwa [hrel.me])
      (by rwa [hrel.sid, hrel.pstPending]) (by rwa [hrel.sid, hrel.me, hrel.podTarget])
    obtain ⟨hval, hput⟩ := State.atomicAt_congr ((hrel.trans hlike).sameLines.touch true ps).mem (keysOf ps) aop.toNat
      ((s.g c).toNat % 2 ^ (8 * m)) ((s.g e).toNat % 2 ^ (8 * m))
    refine ⟨t, (exec_patom s d w b a c e aop ord sc disp).trans (hlocal.trans ht), (hg (by decide)).trans ?_, hmem.trans hput⟩
    rw [State.podPerform_atomic, hval]

end Sys2Proof.Machine
end

section
/-! Rounding into an IEEE format (04: R115): a finite pattern's value is a multiple of the quantum it is rounded to, so nothing is rounded off. -/

namespace Sys2Proof.Machine

/-! ## A finite pattern as a whole number of quanta -/

/-- Exponent of the format's least positive value, the smallest quantum that a value is rounded to. -/
def Fmt.minQuantum (f : Fmt) : Int := 1 - f.bias - f.mb

/-- How far the quantum of a finite pattern stands above the smallest: a subnormal shares that of the least normal value. -/
def Fmt.quantumSteps (f : Fmt) (x : Nat) : Nat := f.mag x / 2 ^ f.mb - 1

/-- The fraction of a finite pattern, with the hidden bit of a normal one. -/
def Fmt.significand (f : Fmt) (x : Nat) : Nat :=
  if f.mag x / 2 ^ f.mb = 0 then f.mag x % 2 ^ f.mb else f.mag x % 2 ^ f.mb + 2 ^ f.mb

theorem Fmt.val_m (f : Fmt) (x : Nat) : (f.val x).m = if f.sign x then -(f.significand x : Int) else f.significand x := by
  have hcast : (if f.mag x / 2 ^ f.mb = 0 then ((f.mag x % 2 ^ f.mb : Nat) : Int) else (f.mag x % 2 ^ f.mb : Nat) + 2 ^ f.mb) =
      (f.significand x : Int) := by
    unfold Fmt.significand
    split
    · rfl
    · rw [Int.natCast_add, Int.natCast_pow, Int.cast_ofNat_Int]
  simp only [Fmt.val, beq_iff_eq, hcast]

theorem Fmt.val_e (f : Fmt) (x : Nat) : (f.val x).e = f.minQuantum + f.quantumSteps x := by
  simp only [Fmt.val, Fmt.minQuantum, Fmt.quantumSteps, beq_iff_eq]
  generalize f.mag x / 2 ^ f.mb = ex
  split <;> omega

/-- A pattern's magnitude counts quanta: those below its own binade, and its significand. -/
theorem Fmt.steps_add_significand (f : Fmt) (x : Nat) : f.quantumSteps x * 2 ^ f.mb + f.significand x = f.mag x := by
  have hdiv := Nat.div_add_mod' (f.mag x) (2 ^ f.mb)
  unfold Fmt.quantumSteps Fmt.significand
  cases hex : f.mag x / 2 ^ f.mb with
  | zero => simpa [hex] using hdiv
  | succ k =>
    rw [hex, Nat.succ_mul] at hdiv
    simp only [Nat.add_sub_cancel, Nat.add_one_ne_zero, if_false]
    omega

theorem Fmt.significand_lt (f : Fmt) (x : Nat) : f.significand x < 2 ^ (f.mb + 1) := by
  have hfr : f.mag x % 2 ^ f.mb < 2 ^ f.mb := Nat.mod_lt _ (Nat.two_pow_pos _)
  unfold Fmt.significand
  split <;> omega

/-- Only a subnormal's significand is below the hidden bit. -/
theorem Fmt.le_significand_or_steps_eq_zero (f : Fmt) (x : Nat) : 2 ^ f.mb ≤ f.significand x ∨ f.quantumSteps x = 0 := by
  unfold Fmt.significand Fmt.quantumSteps
  split
  case isTrue hsubnormal => exact .inr (by rw [hsubnormal])
  case isFalse => exact .inl (Nat.le_add_left _ _)

theorem Fmt.significand_eq_zero (f : Fmt) (x : Nat) : f.significand x = 0 ↔ f.mag x = 0 := by
  have hsum := f.steps_add_significand x
  have hpos := Nat.two_pow_pos f.mb
  obtain hnormal | hsubnormal := f.le_significand_or_steps_eq_zero x
  · omega
  · rw [hsubnormal] at hsum; omega

/-- A pattern is its sign bit and its magnitude. -/
theorem Fmt.zero_sign_add_mag (f : Fmt) {x : Nat} (hx : x < 2 ^ (1 + f.eb + f.mb)) : f.zero (f.sign x) + f.mag x = x := by
  rw [Nat.add_assoc, Nat.add_comm 1, Nat.pow_succ] at hx
  have hlt : x / f.signBit < 2 := Nat.div_lt_of_lt_mul hx
  have hdiv := Nat.div_add_mod' x f.signBit
  unfold Fmt.zero Fmt.sign Fmt.mag
  obtain h | h : x / f.signBit = 0 ∨ x / f.signBit = 1 := Nat.le_one_iff_eq_zero_or_eq_one.1 (Nat.le_of_lt_succ hlt)
  all_goals simpa [h] using hdiv

/-! ## Rounding what needs none -/

theorem roundMag_self (mode : Mode) (neg : Bool) (m : Nat) (e : Int) : roundMag mode neg m e e = m := by
  simp [roundMag]

/-- The quantum that the value of a finite pattern is rounded to is the pattern's own. -/
theorem Fmt.quantum_significand (f : Fmt) {x : Nat} (h0 : f.significand x ≠ 0) :
    Max.max ((log2 (f.significand x) : Int) + (f.minQuantum + f.quantumSteps x) - f.mb) f.minQuantum = f.minQuantum + f.quantumSteps x := by
  have hlt : log2 (f.significand x) < f.mb + 1 := (Nat.log2_lt h0).2 (f.significand_lt x)
  obtain hnormal | hsubnormal := f.le_significand_or_steps_eq_zero x
  · have hle : f.mb ≤ log2 (f.significand x) := (Nat.le_log2 h0).2 hnormal
    omega
  · omega

theorem Fmt.roundMag_significand (f : Fmt) (mode : Mode) (neg : Bool) {x : Nat} (h0 : f.significand x ≠ 0) (hfin : f.mag x < f.expMask) :
    f.roundMag mode neg (f.significand x) (f.minQuantum + f.quantumSteps x) = f.zero neg + f.mag x := by
  have hsteps : (f.minQuantum + f.quantumSteps x - f.minQuantum).toNat = f.quantumSteps x := by omega
  have hmin : 1 - f.bias - f.mb = f.minQuantum := rfl
  simp only [Fmt.roundMag, hmin, f.quantum_significand h0, roundMag_self, hsteps, f.steps_add_significand, if_pos hfin, Fmt.zero]

/-- The value of a zero pattern is an exact zero, which takes the sign `z`. -/
theorem Fmt.round_val_of_mag_eq_zero (f : Fmt) (mode : Mode) (z : Bool) {x : Nat} (h0 : f.mag x = 0) :
    f.round mode z (f.val x) = f.zero z := by
  simp [Fmt.round, Fmt.val_m, (f.significand_eq_zero x).2 h0]

theorem Fmt.round_val (f : Fmt) (mode : Mode) (z : Bool) {x : Nat} (hx : x < 2 ^ (1 + f.eb + f.mb)) (hfin : f.mag x < f.expMask)
    (h0 : f.mag x ≠ 0) : f.round mode z (f.val x) = x := by
  have hsig : f.significand x ≠ 0 := mt (f.significand_eq_zero x).1 h0
  have hm : (f.val x).m ≠ 0 := by rw [f.val_m]; split <;> omega
  have hneg : decide ((f.val x).m < 0) = f.sign x := by
    rw [f.val_m]
    cases f.sign x
    · simp
    · simp [Nat.pos_of_ne_zero hsig]
  have habs : (f.val x).m.natAbs = f.significand x := by rw [f.val_m]; split <;> omega
  calc f.round mode z (f.val x)
      = f.roundMag mode (f.sign x) (f.significand x) (f.minQuantum + f.quantumSteps x) := by
        simp only [Fmt.round, beq_iff_eq, if_neg hm, hneg, habs, f.val_e]
    _ = f.zero (f.sign x) + f.mag x := f.roundMag_significand mode _ hsig hfin
    _ = x := f.zero_sign_add_mag hx

/-- Settles O5, for every format at once and whatever the mode: a finite pattern is a multiple of the quantum it is rounded to
(`Fmt.quantum_significand`), so rounding puts its significand and exponent together again. -/
theorem roundExact : Obligations.RoundExact := by
  unfold Obligations.RoundExact
  intro f mode z x _ hx _ hnan hinf
  have hfin : f.mag x < f.expMask := by
    have hle : ¬f.expMask < f.mag x := by simpa [Fmt.isNaN] using hnan
    have hne : f.mag x ≠ f.expMask := by simpa [Fmt.isInf] using hinf
    omega
  simp only [Fmt.isZero, beq_eq_false_iff_ne, beq_iff_eq]
  refine ⟨f.round_val mode z hx hfin, fun h0 => ⟨?own, f.round_val_of_mag_eq_zero mode z h0⟩⟩
  case own =>
    rw [f.round_val_of_mag_eq_zero mode _ h0]
    simpa [h0] using f.zero_sign_add_mag hx

end Sys2Proof.Machine
end

section
/-! What summaries promise (05: R141, R148, R152, R153): a compaction moves half of a level up at twice the weight, a heavy-hitter list either
records a key or takes one from every entry, and registers change by a maximum alone. -/

namespace Sys2Proof.Machine

/-! ## The weight of the levels of a sketch -/

@[simp] theorem length_insSorted {α : Type} (le : α → α → Bool) (a : α) (l : List α) : (insSorted le a l).length = l.length + 1 := by
  induction l with
  | nil => rfl
  | cons b r ih => by_cases hab : le a b <;> simp [insSorted, hab, ih]

@[simp] theorem length_stableSort {α : Type} (le : α → α → Bool) (l : List α) : (stableSort le l).length = l.length := by
  induction l with
  | nil => rfl
  | cons a r ih => simp [stableSort, ih]

@[simp] theorem length_promoted (c : Bool) (l : List Nat) : (promoted c l).length = l.length / 2 := by
  induction l using promoted.induct with
  | case1 a b r ih => simp only [promoted, List.length_cons, ih]; omega
  | case2 l hshort =>
    match l with
    | [] => rfl
    | [_] => simp [promoted]
    | a :: b :: r => exact absurd rfl (hshort a b r)

/-- A level replaced by another takes its own weight away and brings the other's. -/
theorem levelWeight_set (x : List Nat) (ls : List (List Nat)) (b l : Nat) (hl : l < ls.length) :
    levelWeight b (ls.set l x) + (ls.getD l []).length * 2 ^ (b + l) = levelWeight b ls + x.length * 2 ^ (b + l) := by
  induction ls generalizing b l with
  | nil => simp at hl
  | cons y r ih =>
    cases l with
    | zero => simp only [List.set_cons_zero, levelWeight, List.getD_cons_zero, Nat.add_zero]; omega
    | succ l =>
      have hr := ih (b + 1) l (by simpa using hl)
      rw [Nat.add_right_comm, Nat.add_assoc] at hr
      simp only [List.set_cons_succ, levelWeight, List.getD_cons_succ]
      omega

/-- A new empty level weighs nothing. -/
theorem levelWeight_append_empty (ls : List (List Nat)) (b : Nat) : levelWeight b (ls ++ [[]]) = levelWeight b ls := by
  induction ls generalizing b with
  | nil => simp [levelWeight]
  | cons y r ih => simp [levelWeight, ih]

/-- Half of a level moved to the next one keeps the weight: a value there counts twice as much. -/
theorem levelWeight_promote {ls : List (List Nat)} {l : Nat} {keep up : List Nat} (hl : l + 1 < ls.length)
    (hkeep : keep.length = (ls.getD l []).length % 2) (hup : up.length = (ls.getD (l + 1) []).length + (ls.getD l []).length / 2) :
    levelWeight 0 ((ls.set l keep).set (l + 1) up) = levelWeight 0 ls := by
  have hlow := levelWeight_set keep ls 0 l (by omega)
  have hhigh := levelWeight_set up (ls.set l keep) 0 (l + 1) (by simpa using hl)
  have hother : (ls.set l keep).getD (l + 1) [] = ls.getD (l + 1) [] := by simp [List.getD_eq_getElem?_getD]
  have hsplit : (ls.getD l []).length * 2 ^ l =
      (ls.getD l []).length % 2 * 2 ^ l + (ls.getD l []).length / 2 * 2 ^ (l + 1) := by
    rw [Nat.pow_succ', ← Nat.mul_assoc, ← Nat.add_mul, Nat.mul_comm _ 2, Nat.mod_add_div]
  rw [hother, hup, Nat.add_mul] at hhigh
  rw [hkeep] at hlow
  simp only [Nat.zero_add] at hlow hhigh
  omega

/-! ## A compaction (R141) -/

@[simp] theorem QSk.toss_levels (q : QSk) (fr : Nat → Word) (l : Nat) : (q.toss fr l).2.levels = q.levels := by
  unfold QSk.toss
  split <;> rfl

/-- The levels with the one above `l` there: the new top level starts empty (R141). -/
def QSk.withNext (q : QSk) (l : Nat) : List (List Nat) := if l + 1 == q.levels.length then q.levels ++ [[]] else q.levels

theorem QSk.levelWeight_withNext (q : QSk) (l : Nat) : levelWeight 0 (q.withNext l) = levelWeight 0 q.levels := by
  unfold QSk.withNext
  split
  · exact levelWeight_append_empty q.levels 0
  · rfl

theorem QSk.lt_length_withNext {q : QSk} {l : Nat} (hl : l < q.levels.length) : l + 1 < (q.withNext l).length := by
  unfold QSk.withNext
  split
  · simpa using hl
  · next hne => rw [beq_iff_eq] at hne; omega

theorem QSk.getD_withNext {q : QSk} {l : Nat} (hl : l < q.levels.length) : (q.withNext l).getD l [] = q.levels.getD l [] := by
  unfold QSk.withNext
  split
  · simp only [List.getD_eq_getElem?_getD, List.getElem?_append_left hl]
  · rfl

/-- The greatest value stays at its level where the count is odd. -/
theorem length_leftOver (s : List Nat) : (if s.length % 2 == 1 then s.drop (s.length - 1) else []).length = s.length % 2 := by
  obtain heven | hodd := Nat.mod_two_eq_zero_or_one s.length
  · simp [heven]
  · simp only [hodd, beq_self_eq_true, if_true, List.length_drop]
    omega

/-- What a compaction does to the levels: it keeps one value of an odd count and adds half of them to the level above. -/
theorem QSk.compact_levels {q q' : QSk} {fr : Nat → Word} {l : Nat} (h : q.compact fr l = some q') :
    ∃ keep up, q'.levels = ((q.withNext l).set l keep).set (l + 1) up ∧ keep.length = (q.levels.getD l []).length % 2 ∧
      up.length = ((q.withNext l).getD (l + 1) []).length + (q.levels.getD l []).length / 2 := by
  rcases htoss : q.toss fr l with ⟨c, p⟩
  have hp : p.levels = q.levels := by simpa [htoss] using q.toss_levels fr l
  simp only [QSk.compact, htoss, hp] at h
  split at h
  · exact absurd h nofun
  · obtain rfl := Option.some.inj h
    exact ⟨_, _, rfl, (length_leftOver _).trans (by rw [length_stableSort]), by simp [QSk.withNext]⟩

theorem QSk.levelWeight_compact {q q' : QSk} {fr : Nat → Word} {l : Nat} (hl : l < q.levels.length) (h : q.compact fr l = some q') :
    levelWeight 0 q'.levels = levelWeight 0 q.levels := by
  obtain ⟨keep, up, hlevels, hkeep, hup⟩ := QSk.compact_levels h
  rw [← QSk.getD_withNext hl] at hkeep hup
  rw [hlevels, levelWeight_promote (QSk.lt_length_withNext hl) hkeep hup, q.levelWeight_withNext]

/-! ## Heavy hitters (R148) -/

theorem hhBump_eq_none_iff {x : Nat} {l : List HhE} : hhBump x l = none ↔ ∀ e ∈ l, e.key ≠ x := by
  induction l with
  | nil => simp [hhBump]
  | cons e r ih => by_cases he : e.key = x <;> simp [hhBump, he, ih]

theorem map_key_of_hhBump {x : Nat} {l es : List HhE} (h : hhBump x l = some es) : es.map (·.key) = l.map (·.key) := by
  induction l generalizing es with
  | nil => cases h
  | cons e r ih =>
    by_cases he : e.key = x
    · obtain rfl : { e with count := sat32 (e.count + 1) } :: r = es := by simpa [hhBump, he] using h
      simp
    · obtain ⟨rs, hrs, rfl⟩ : ∃ rs, hhBump x r = some rs ∧ e :: rs = es := by simpa [hhBump, he] using h
      simp [ih hrs]

section
variable (h : Hh) (fr : Nat → Word) (x : Nat)

/-- An entry as an insertion that finds no room leaves it. -/
def HhE.dropped (e : HhE) : HhE := { e with count := e.count - 1, err := sat32 (e.err + 1) }

theorem Hh.add_total : (h.add fr x).total = sat64 (h.total + 1) := by
  dsimp only [Hh.add]
  split
  · rfl
  · split <;> rfl

variable {h x}

theorem Hh.add_ents_of_hhBump {es : List HhE} (hb : hhBump x h.ents = some es) : (h.add fr x).ents = es := by
  simp [Hh.add, hb]

theorem Hh.add_ents_of_room (hx : ∀ e ∈ h.ents, e.key ≠ x) (hroom : h.ents.length < hhM h.mcode) :
    (h.add fr x).ents = h.ents ++ [⟨x, 1, sat32 h.dec⟩] := by
  simp [Hh.add, hhBump_eq_none_iff.2 hx, hroom]

theorem Hh.add_ents_of_full (hx : ∀ e ∈ h.ents, e.key ≠ x) (hfull : hhM h.mcode ≤ h.ents.length) :
    (h.add fr x).ents = (h.ents.map HhE.dropped).filter (fun e => 0 < e.count) := by
  simp only [Hh.add, hhBump_eq_none_iff.2 hx, if_neg (Nat.not_lt.2 hfull)]
  rfl

theorem Hh.map_key_add_ents (hx : h.ents.any (fun e => e.key == x) = true) : (h.add fr x).ents.map (·.key) = h.ents.map (·.key) := by
  have hfound : hhBump x h.ents ≠ none := by simpa [hhBump_eq_none_iff] using hx
  obtain ⟨es, hes⟩ := Option.ne_none_iff_exists'.1 hfound
  rw [Hh.add_ents_of_hhBump fr hes, map_key_of_hhBump hes]

/-- An insertion that finds no room takes one from every entry, and adds it to what the entry may be short of. -/
theorem Hh.mem_add_ents_of_full (hx : ∀ e ∈ h.ents, e.key ≠ x) (hfull : hhM h.mcode ≤ h.ents.length) {e : HhE} (he : e ∈ (h.add fr x).ents) :
    0 < e.count ∧ ∃ y ∈ h.ents, y.key = e.key ∧ y.count = e.count + 1 ∧ e.err = sat32 (y.err + 1) := by
  rw [Hh.add_ents_of_full fr hx hfull, List.mem_filter, List.mem_map, decide_eq_true_iff] at he
  obtain ⟨⟨y, hy, rfl⟩, hlive⟩ := he
  have hcount : y.dropped.count = y.count - 1 := rfl
  exact ⟨hlive, y, hy, rfl, by omega, rfl⟩

end

/-! ## Distinct counts (R152, R153) -/

theorem Dc.getD_regs_le_add (m : Dc) (w x i : Nat) : m.regs.getD i 0 ≤ (m.add w x).regs.getD i 0 := by
  simp only [Dc.add, List.getD_eq_getElem?_getD, List.getElem?_set]
  split
  · next heq =>
    rw [heq]
    split
    · exact Nat.le_max_left _ _
    · next hout => simp only [List.getElem?_eq_none (Nat.le_of_not_lt hout), Nat.le_refl]
  · exact Nat.le_refl _

@[simp] theorem Dc.length_regs_add (m : Dc) (w x : Nat) : (m.add w x).regs.length = m.regs.length := by
  simp [Dc.add]

/-- A register of a merge is there when it is in both objects, and is then the greater one. -/
theorem Dc.getElem?_regs_merge (m n : Dc) (i : Nat) :
    (m.merge n).regs[i]? = m.regs[i]?.bind (fun a => n.regs[i]?.map (max a)) := by
  simp only [Dc.merge, List.getElem?_zipWith]
  cases m.regs[i]? <;> cases n.regs[i]? <;> rfl

theorem Dc.regs_merge_comm (m n : Dc) : (m.merge n).regs = (n.merge m).regs :=
  List.zipWith_comm_of_comm Nat.max_comm

theorem Dc.regs_merge_absorb (m n : Dc) : ((m.merge n).merge n).regs = (m.merge n).regs := by
  refine List.ext_getElem? fun i => ?_
  simp only [Dc.getElem?_regs_merge]
  cases m.regs[i]? <;> cases n.regs[i]? <;> simp

theorem Dc.regs_merge_assoc (m n o : Dc) : ((m.merge n).merge o).regs = (m.merge (n.merge o)).regs := by
  refine List.ext_getElem? fun i => ?_
  simp only [Dc.getElem?_regs_merge]
  cases m.regs[i]? <;> cases n.regs[i]? <;> cases o.regs[i]? <;> simp [Nat.max_assoc]

/-- Settles O40: a compaction moves half of a level to double weight (`levelWeight_promote`), an insertion into a heavy-hitter list is one of
three cases by key and room, and a merge of registers is the maximum of each. -/
theorem summaryLaws : Obligations.SummaryLaws := by
  unfold Obligations.SummaryLaws
  intro q q' fr l h x w m n o i
  exact ⟨QSk.levelWeight_compact, h.add_total fr x, Hh.map_key_add_ents fr, Hh.add_ents_of_room fr,
    fun hx hfull _ => Hh.mem_add_ents_of_full fr hx hfull,
    fun hlen => ⟨m.getD_regs_le_add w x i, (m.length_regs_add w x).trans hlen⟩,
    m.regs_merge_comm n, m.regs_merge_absorb n, m.regs_merge_assoc n o⟩

end Sys2Proof.Machine
end
